-- ==== Sys2Proof/Word.lean ====
section
/-!
DEFINITION. The word types of the DN7240 and their plainest views (R12: bits are numbered from the least
significant, multi-byte fields are little-endian).
-/
namespace Sys2Proof

/-- A byte of memory. -/
abbrev Byte := BitVec 8

/-- A CSR, a scalar register or a device physical address. -/
abbrev Word := BitVec 64

/-- A half of a CSR (R10). -/
abbrev Half := BitVec 32

end Sys2Proof
end

