-- ==== Sys2Proof/Syntax.lean ====
section
/-!
DEFINITION. The commands of the DN7240: one constructor per row of the table of operations and events, with the
operands the row's rule gives it. A command names the acting master or unit where the spec has several; a received
packet, frame or message carries its fields; an outcome that the part cannot compute (a training result, a
measurement) is an operand of the event that reports it, or a free value of `Config`.
-/
namespace Sys2Proof

/-- A 10-bit master ID (00_scope.md). -/
abbrev Master := BitVec 10
/-- A hardware context of the module: tile ID × 4 + context number. -/
abbrev CtxId := Fin 2048
/-- A tile ID (R2). -/
abbrev TileId := Fin 512
/-- A stook ID (R3). -/
abbrev StookId := Fin 64
/-- A P-die. -/
abbrev PDie := Fin 4
/-- An X-die. -/
abbrev XDie := Fin 2
/-- A register number of the Vorvar set. -/
abbrev RegNum := Fin 32

/-- An aligned CSR write: all 64 bits, or the low or high half (R9, R10). -/
inductive CsrAcc where
  | full (v : Word)
  | low (v : Half)
  | high (v : Half)
  deriving DecidableEq, Repr

/-- Who executes an instruction: a hardware context of a tile, or a management core (R153). -/
inductive Agent where
  | ctx (c : CtxId)
  | core (k : Fin 4)
  deriving DecidableEq, Repr

/-- R format (R118): the register fields and bits [10:6], which must be zero. -/
structure FmtR where
  rd : RegNum
  rs1 : RegNum
  rs2 : RegNum
  z : BitVec 5
  deriving DecidableEq, Repr

/-- I format (R118). -/
structure FmtI where
  rd : RegNum
  rs1 : RegNum
  imm : BitVec 16
  deriving DecidableEq, Repr

/-- S format (R118): the data register, the base register, the offset. -/
structure FmtS where
  rs2 : RegNum
  rs1 : RegNum
  imm : BitVec 16
  deriving DecidableEq, Repr

/-- B format (R118). -/
structure FmtB where
  rs1 : RegNum
  rs2 : RegNum
  off : BitVec 16
  deriving DecidableEq, Repr

/-- J format (R118). -/
structure FmtJ where
  rd : RegNum
  off : BitVec 21
  deriving DecidableEq, Repr

/-- VM format (R118): the vector register, the base, the predicate, the offset in 128-byte units. -/
structure FmtVM where
  v : RegNum
  rs1 : RegNum
  pg : Fin 8
  imm : BitVec 13
  deriving DecidableEq, Repr

/-- V format (R118). -/
structure FmtV where
  vd : RegNum
  vs1 : RegNum
  vs2 : RegNum
  pg : Fin 8
  ty : BitVec 4
  deriving DecidableEq, Repr

/-- T format (R118). -/
structure FmtT where
  acc : Fin 4
  rs1 : RegNum
  rs2 : RegNum
  fmt : BitVec 4
  mode : BitVec 3
  flags : BitVec 4
  deriving DecidableEq, Repr

/-- L format (R118): the fields of word 0 (bits [7:0] must be zero) and the immediate of word 1. -/
structure FmtL where
  rd : RegNum
  rs1 : RegNum
  z : BitVec 8
  imm : BitVec 32
  deriving DecidableEq, Repr


/-- The context registers whose RW fields R113 guards. -/
inductive CtxReg where
  | ctl | pc | win | slice
  deriving DecidableEq, Repr

/-- A replacement request as received (R230). -/
structure ReplRequest where
  job : BitVec 8
  attempt : BitVec 8
  step : BitVec 32
  position : BitVec 64
  index : BitVec 64
  serving : BitVec 16
  tag : BitVec 32
  deriving DecidableEq, Repr

/-- A replacement reply as received (R230). -/
structure ReplReply where
  job : BitVec 8
  attempt : BitVec 8
  outcome : BitVec 8
  status : BitVec 8
  position : BitVec 64
  tag : BitVec 32
  writer : BitVec 16
  deriving DecidableEq, Repr

/-- What the programs of a job report of a sample they processed for another module (R230, R231). -/
inductive ServeOutcome where
  | written
  | rejected
  | corrupt (status : BitVec 8)
  | refused (status : BitVec 8)
  deriving DecidableEq, Repr

/-- The 48-byte Furrow header (R358). -/
structure FurHdr where
  type : BitVec 8
  srcEngine : Bool
  dstEngine : Bool
  retransmit : Bool
  status : BitVec 8
  src : BitVec 16
  dst : BitVec 16
  msg : BitVec 32
  low : BitVec 32
  total : BitVec 32
  offset : BitVec 32
  len : BitVec 16
  job : BitVec 8
  rq : BitVec 8
  key : BitVec 32
  remote : BitVec 64
  deriving DecidableEq, Repr

/-- How a frame arrived: local port (7 the rope port, 8 the fabric path of R367) and interface; its bytes from
destination MAC through FCS; DSCP; CE mark; whether it fails a check of R357 on framing or addresses; a VLAN tag, PAUSE
or priority flow control (R351); codewords corrected and uncorrectable (R352); a bad FCS or preamble CRC-8; the sequence
numbers of R353; XCLK cycles since the port's previous frame; whether it has an IP header (R400); the version of its Furrow
header; its destination and source IP addresses and its UDP source port. -/
structure RxInfo where
  port : Fin 9
  iface : Fin 8
  len : BitVec 16
  dscp : BitVec 6
  ce : Bool
  malformed : Bool
  tagged : Bool
  corrected : BitVec 8
  uncorr : BitVec 8
  badFcs : Bool
  seq : BitVec 16
  acked : BitVec 16
  cycles : BitVec 32
  ip : Bool
  version : BitVec 4
  dstIp : List Byte
  srcIp : List Byte
  sport : BitVec 16
  deriving DecidableEq, Repr

/-- A packet received for the RoCE engine (R386): how it arrived, whether it fails a check of framing, address or ICRC, its BTH
opcode and destination QPN. -/
structure RoceRx where
  info : RxInfo
  bad : Bool
  opcode : BitVec 8
  qpn : BitVec 24
  deriving DecidableEq, Repr

/-- The shaper or policer that a write addresses (R397, R400). -/
inductive ShaperTarget where
  | port
  | queue (q : Fin 64)
  | policer (c : Fin 8)
  deriving DecidableEq, Repr

/-- A write of a shaper or policer (R397, R398): what it addresses, XCLK cycles since the time was last advanced, and, where a frame is
chosen in the cycle of the write, the interfaces that can take one. -/
structure ShaperAt where
  target : ShaperTarget
  cycles : BitVec 32
  accept : Option (BitVec 8)
  deriving DecidableEq, Repr

/-- What the memory of a pluggable module reports beside its state (R355): a fault, an alarm flag, the host interfaces of the Applications
that it offers, in order. -/
structure CmisReport where
  fault : Bool
  alarm : Bool
  apps : List (BitVec 8)
  deriving DecidableEq, Repr

/-- The fatal NAKs of RoCE v2 that the engine reads (R386, R388). -/
inductive FatalKind where
  | remoteAccess
  | invalidRequest
  | remoteOperational
  deriving DecidableEq, Repr

/-- The header of a rope message, types 0x20 to 0x2F (R433). -/
structure RopeHdr where
  type : BitVec 8
  srcEngine : Bool
  dstEngine : Bool
  src : BitVec 16
  dst : BitVec 16
  nonce : Word
  seq : BitVec 32
  image : BitVec 32
  len : BitVec 16
  hop : BitVec 8
  pos : BitVec 8
  spec : Word
  deriving DecidableEq, Repr

/-- A packet as received on a rope port. -/
inductive RxPacket where
  | furrow (h : FurHdr) (payload : List Byte)
  | rope (h : RopeHdr) (payload : List Byte)
  deriving DecidableEq, Repr

/-- What a pacing rate belongs to (R382, R383): a destination module or a queue pair. -/
inductive RateTarget where
  | dest (id : BitVec 16)
  | qp (i : Fin 2048)
  deriving DecidableEq, Repr

/-- The port registers that R354 guards. -/
inductive PortReg where
  | cfg | mac
  deriving DecidableEq, Repr


/-- What firmware measures for a margin record (R449): input voltage, smallest rail margin, worst eye height and width,
worst DRAM timing margin, lowest received and lowest launched power; worst SerDes lane,
DRAM channel and rope lane. -/
structure Margin where
  vin : BitVec 16
  rail : BitVec 16
  eyeHeight : BitVec 16
  eyeWidth : BitVec 16
  dram : BitVec 16
  rxPower : BitVec 16
  txPower : BitVec 16
  lane : BitVec 8
  channel : BitVec 8
  ropeLane : BitVec 8
  deriving DecidableEq, Repr


/-- A unit that trains by its own state machine (R461). -/
inductive TrainUnit where
  | channel (k : Fin 24)
  | nand (c : Fin 32)
  | lane (x : Fin 2) (p l : Fin 8)
  | d2d (d : Fin 4) (x : Fin 2)
  deriving DecidableEq, Repr

/-- What a DRAM module's SPD reports (R314): MRDIMM or RDIMM, ranks, capacity as a power of two of GiB. -/
structure Dimm where
  mrdimm : Bool
  ranks : Nat
  capLog2 : Nat
  deriving DecidableEq, Repr

/-- A read of MEMTEST that meets symbol errors or, after correction, other data than the pattern (R464, R465): channel, pass,
element of the pass, operation of the element, line of the channel, the positions of the symbols in error, and the line's data
after correction. -/
structure TestRead where
  ch : Fin 24
  pass : Fin 5
  elem : Fin 6
  op : Fin 2
  line : BitVec 34
  errs : List (Fin 80)
  data : List (BitVec 8)
  deriving DecidableEq, Repr


/-- What the NAND does while a command works (R300, R301, R303): the granules (by their place in the task) whose hard and
soft decoding fails, those whose rebuild from parity fails too, the granules whose page fails to program (once for each
time listed), the pages of a failing block that a read-back finds damaged, and the superblock positions (superblock × 16 +
position) that fail to erase. -/
structure NandFaults where
  bad : List Nat := []
  lost : List Nat := []
  prog : List Nat := []
  damaged : List Nat := []
  erase : List Nat := []
  deriving DecidableEq, Repr

/-- What the parameter page of a die says (R282): data and spare bytes of a page, pages per block, blocks per LUN. -/
structure NandDie where
  data : Nat
  spare : Nat
  ppb : Nat
  bpd : Nat
  deriving DecidableEq, Repr

/-- What the dies of an X-die report (R283, R303): the parameter pages of those that answer (local channel, die), and the blocks
marked bad at the factory (die, block, local channel). -/
structure NandReport where
  dies : List (Fin 16 × Fin 64 × NandDie)
  badBlocks : List (Fin 64 × Fin 65536 × Fin 16) := []
  deriving DecidableEq, Repr


/-- A place that firmware chooses for a further instance by hardware slicing (R25): a hardware context and the SAVE_BASE of
its list. -/
structure SliceSeat where
  ctx : Fin 2048
  base : BitVec 16
  deriving DecidableEq, Repr

/-- What the loading of a job leaves to firmware (R25): where further instances go by hardware slicing, and the quantum when
an entry gives 0. Instances for which it reserves no save area are left to firmware slicing. -/
structure JobPlan where
  seats : List SliceSeat := []
  quantum : BitVec 32 := 0
  deriving DecidableEq, Repr

/-- A cell of the boundary register as SAMPLE/PRELOAD shifts it (R502, R503): whether it is of a DRAM, NAND or Adeop Link data pin, the
level at its contact, and the value shifted in. -/
structure ScanCell where
  dataPin : Bool
  level : Bool
  load : Bool
  deriving DecidableEq, Repr


/-- The commands, one per row of the table of operations and events. -/
inductive Instr where
  /-- CSR_WRITE (R13): A write to a CSR that has no row of its own sets its RW fields under the access codes, or is refused as a violation. -/
  | csrWrite (m : Master) (off : BitVec 28) (size : BitVec 8) (v : Word)
  /-- UNMAPPED_ACCESS (R533): An access by any master to an unmapped device physical address reads zero, has no effect and is a class 2 violation. -/
  | unmappedAccess (m : Master) (addr : BitVec 52) (write : Bool)
  /-- JOB_LOAD (R21): Firmware validates a job descriptor handed over by mailbox, places its programs and replies with a status. -/
  | jobLoad (k : Fin 4) (n : Fin 64) (plan : JobPlan)
  /-- COUNTER_WRITE (R50): A software write to a completion counter is applied before any increment arriving in the same cycle. -/
  | counterWrite (name : BitVec 16) (a : CsrAcc) (inc : BitVec 8)
  /-- HQ_CFG_WRITE (R53): A write to HQ_CFG that sets ENABLE is ignored unless BASE, LOG2_ENTRIES and COUNTER are valid. -/
  | hqCfgWrite (q : Fin 32) (a : CsrAcc)
  /-- HQ_POST (R54): A write to a handoff queue's POST is accepted unless it would overfill the ring, and may raise the queue's interrupt. -/
  | hqPost (m : Master) (q : Fin 32) (a : CsrAcc)
  /-- HQ_DONE (R54): A write to a handoff queue's DONE is checked against POST and, if accepted, adds the completed count to the named counter. -/
  | hqDone (m : Master) (q : Fin 32) (a : CsrAcc)
  /-- ADD (R124): Adds two scalar registers modulo 2^64. -/
  | add (a : Agent) (f : FmtR)
  /-- SUB (R124): Subtracts two scalar registers modulo 2^64. -/
  | sub (a : Agent) (f : FmtR)
  /-- AND (R124): Bitwise AND of two scalar registers. -/
  | and (a : Agent) (f : FmtR)
  /-- OR (R124): Bitwise OR of two scalar registers. -/
  | or (a : Agent) (f : FmtR)
  /-- XOR (R124): Bitwise XOR of two scalar registers. -/
  | xor (a : Agent) (f : FmtR)
  /-- SLL (R124): Shifts a scalar register left by the low 6 bits of another. -/
  | sll (a : Agent) (f : FmtR)
  /-- SRL (R124): Shifts a scalar register right with zero fill. -/
  | srl (a : Agent) (f : FmtR)
  /-- SRA (R124): Shifts a scalar register right with sign fill. -/
  | sra (a : Agent) (f : FmtR)
  /-- SLT (R124): Sets rd to 1 when rs1 is signed-less than rs2. -/
  | slt (a : Agent) (f : FmtR)
  /-- SLTU (R124): Sets rd to 1 when rs1 is unsigned-less than rs2. -/
  | sltu (a : Agent) (f : FmtR)
  /-- MIN (R124): Signed minimum of two scalar registers. -/
  | min (a : Agent) (f : FmtR)
  /-- MAX (R124): Signed maximum of two scalar registers. -/
  | max (a : Agent) (f : FmtR)
  /-- MINU (R124): Unsigned minimum of two scalar registers. -/
  | minu (a : Agent) (f : FmtR)
  /-- MAXU (R124): Unsigned maximum of two scalar registers. -/
  | maxu (a : Agent) (f : FmtR)
  /-- MUL (R124): Low 64 bits of the product of two scalar registers. -/
  | mul (a : Agent) (f : FmtR)
  /-- MULH (R124): High 64 bits of the signed product. -/
  | mulh (a : Agent) (f : FmtR)
  /-- MULHU (R124): High 64 bits of the unsigned product. -/
  | mulhu (a : Agent) (f : FmtR)
  /-- DIV (R124): Signed quotient truncated toward zero, with defined results for division by zero and overflow. -/
  | div (a : Agent) (f : FmtR)
  /-- DIVU (R124): Unsigned quotient, with a defined result for division by zero. -/
  | divu (a : Agent) (f : FmtR)
  /-- REM (R124): Signed remainder with the sign of the dividend. -/
  | rem (a : Agent) (f : FmtR)
  /-- REMU (R124): Unsigned remainder. -/
  | remu (a : Agent) (f : FmtR)
  /-- CLZ (R124): Counts the leading zeros of a scalar register. -/
  | clz (a : Agent) (f : FmtR)
  /-- CTZ (R124): Counts the trailing zeros of a scalar register. -/
  | ctz (a : Agent) (f : FmtR)
  /-- POPC (R124): Counts the 1 bits of a scalar register. -/
  | popc (a : Agent) (f : FmtR)
  /-- ADDI (R125): Adds a sign-extended 16-bit immediate to a register. -/
  | addi (a : Agent) (f : FmtI)
  /-- ANDI (R125): ANDs a register with a zero-extended immediate. -/
  | andi (a : Agent) (f : FmtI)
  /-- ORI (R125): ORs a register with a zero-extended immediate. -/
  | ori (a : Agent) (f : FmtI)
  /-- XORI (R125): XORs a register with a zero-extended immediate. -/
  | xori (a : Agent) (f : FmtI)
  /-- SLLI (R125): Shifts a register left by an immediate amount. -/
  | slli (a : Agent) (f : FmtI)
  /-- SRLI (R125): Shifts a register right with zero fill by an immediate amount. -/
  | srli (a : Agent) (f : FmtI)
  /-- SRAI (R125): Shifts a register right with sign fill by an immediate amount. -/
  | srai (a : Agent) (f : FmtI)
  /-- SLTI (R125): Signed comparison of a register with an immediate. -/
  | slti (a : Agent) (f : FmtI)
  /-- SLTIU (R125): Unsigned comparison of a register with a sign-extended immediate. -/
  | sltiu (a : Agent) (f : FmtI)
  /-- LUI (R125): Loads a sign-extended immediate shifted left by 16. -/
  | lui (a : Agent) (f : FmtI)
  /-- APC (R125): Writes the PC plus a scaled immediate to rd. -/
  | apc (a : Agent) (f : FmtI)
  /-- LD_B (R126): Loads a sign-extended byte from a tile-local address. -/
  | ldB (a : Agent) (f : FmtI)
  /-- LD_BU (R126): Loads a zero-extended byte. -/
  | ldBu (a : Agent) (f : FmtI)
  /-- LD_H (R126): Loads a sign-extended 16-bit value. -/
  | ldH (a : Agent) (f : FmtI)
  /-- LD_HU (R126): Loads a zero-extended 16-bit value. -/
  | ldHu (a : Agent) (f : FmtI)
  /-- LD_W (R126): Loads a sign-extended 32-bit value. -/
  | ldW (a : Agent) (f : FmtI)
  /-- LD_WU (R126): Loads a zero-extended 32-bit value. -/
  | ldWu (a : Agent) (f : FmtI)
  /-- LD_D (R126): Loads a 64-bit value. -/
  | ldD (a : Agent) (f : FmtI)
  /-- ST_B (R126): Stores the low 8 bits of a register, merging the word with new parity. -/
  | stB (a : Agent) (f : FmtS)
  /-- ST_H (R126): Stores the low 16 bits of a register. -/
  | stH (a : Agent) (f : FmtS)
  /-- ST_W (R126): Stores the low 32 bits of a register. -/
  | stW (a : Agent) (f : FmtS)
  /-- ST_D (R126): Stores a 64-bit register. -/
  | stD (a : Agent) (f : FmtS)
  /-- LI_L (R127): Loads a sign-extended 32-bit immediate. -/
  | liL (a : Agent) (f : FmtL)
  /-- LIH (R127): Replaces the upper 32 bits of rd with a 32-bit immediate. -/
  | lih (a : Agent) (f : FmtL)
  /-- ADDI_L (R127): Adds a sign-extended 32-bit immediate to a register. -/
  | addiL (a : Agent) (f : FmtL)
  /-- JAL_L (R127): Jumps by a 32-bit offset and links PC plus 8. -/
  | jalL (a : Agent) (f : FmtL)
  /-- LD_B_L (R127): Long-offset sign-extended byte load. -/
  | ldBL (a : Agent) (f : FmtL)
  /-- LD_BU_L (R127): Long-offset zero-extended byte load. -/
  | ldBuL (a : Agent) (f : FmtL)
  /-- LD_H_L (R127): Long-offset sign-extended halfword load. -/
  | ldHL (a : Agent) (f : FmtL)
  /-- LD_HU_L (R127): Long-offset zero-extended halfword load. -/
  | ldHuL (a : Agent) (f : FmtL)
  /-- LD_W_L (R127): Long-offset sign-extended word load. -/
  | ldWL (a : Agent) (f : FmtL)
  /-- LD_WU_L (R127): Long-offset zero-extended word load. -/
  | ldWuL (a : Agent) (f : FmtL)
  /-- LD_D_L (R127): Long-offset 64-bit load. -/
  | ldDL (a : Agent) (f : FmtL)
  /-- ST_B_L (R127): Long-offset byte store. -/
  | stBL (a : Agent) (f : FmtL)
  /-- ST_H_L (R127): Long-offset halfword store. -/
  | stHL (a : Agent) (f : FmtL)
  /-- ST_W_L (R127): Long-offset word store. -/
  | stWL (a : Agent) (f : FmtL)
  /-- ST_D_L (R127): Long-offset 64-bit store. -/
  | stDL (a : Agent) (f : FmtL)
  /-- BEQ (R128): Branches when two registers are equal. -/
  | beq (a : Agent) (f : FmtB)
  /-- BNE (R128): Branches when two registers differ. -/
  | bne (a : Agent) (f : FmtB)
  /-- BLT (R128): Branches on signed less-than. -/
  | blt (a : Agent) (f : FmtB)
  /-- BGE (R128): Branches on signed greater-or-equal. -/
  | bge (a : Agent) (f : FmtB)
  /-- BLTU (R128): Branches on unsigned less-than. -/
  | bltu (a : Agent) (f : FmtB)
  /-- BGEU (R128): Branches on unsigned greater-or-equal. -/
  | bgeu (a : Agent) (f : FmtB)
  /-- JAL (R128): Jumps by a 21-bit word offset and links PC plus 4. -/
  | jal (a : Agent) (f : FmtJ)
  /-- JALR (R128): Jumps to a register plus offset and links, stopping with MISALIGNED on an unaligned target. -/
  | jalr (a : Agent) (f : FmtI)
  /-- VADD (R130): Element-wise vector addition under a predicate. -/
  | vadd (a : Agent) (f : FmtV)
  /-- VSUB (R130): Element-wise vector subtraction. -/
  | vsub (a : Agent) (f : FmtV)
  /-- VMUL (R130): Element-wise vector multiplication. -/
  | vmul (a : Agent) (f : FmtV)
  /-- VFMA (R130): Fused multiply-add of float vectors with one rounding. -/
  | vfma (a : Agent) (f : FmtV)
  /-- VMIN (R130): Element-wise minimum. -/
  | vmin (a : Agent) (f : FmtV)
  /-- VMAX (R130): Element-wise maximum. -/
  | vmax (a : Agent) (f : FmtV)
  /-- VAND (R130): Element-wise bitwise AND. -/
  | vand (a : Agent) (f : FmtV)
  /-- VOR (R130): Element-wise bitwise OR. -/
  | vor (a : Agent) (f : FmtV)
  /-- VXOR (R130): Element-wise bitwise XOR. -/
  | vxor (a : Agent) (f : FmtV)
  /-- VSLL (R130): Element-wise left shift. -/
  | vsll (a : Agent) (f : FmtV)
  /-- VSRL (R130): Element-wise logical right shift. -/
  | vsrl (a : Agent) (f : FmtV)
  /-- VSRA (R130): Element-wise arithmetic right shift. -/
  | vsra (a : Agent) (f : FmtV)
  /-- VABS (R130): Element-wise absolute value. -/
  | vabs (a : Agent) (f : FmtV)
  /-- VNEG (R130): Element-wise negation. -/
  | vneg (a : Agent) (f : FmtV)
  /-- VDIV (R130): Element-wise FP32 division. -/
  | vdiv (a : Agent) (f : FmtV)
  /-- VSQRT (R130): Element-wise FP32 square root. -/
  | vsqrt (a : Agent) (f : FmtV)
  /-- VCMP (R132): Compares two vectors per lane and writes a predicate. -/
  | vcmp (a : Agent) (cond : BitVec 4) (f : FmtV)
  /-- PAND (R133): ANDs two predicates. -/
  | pand (a : Agent) (f : FmtV)
  /-- POR (R133): ORs two predicates. -/
  | por (a : Agent) (f : FmtV)
  /-- PXOR (R133): XORs two predicates. -/
  | pxor (a : Agent) (f : FmtV)
  /-- PANDN (R133): ANDs one predicate with the complement of another. -/
  | pandn (a : Agent) (f : FmtV)
  /-- PNOT (R133): Complements a predicate. -/
  | pnot (a : Agent) (f : FmtV)
  /-- PSET (R133): Sets a predicate from the low 32 bits of a scalar. -/
  | pset (a : Agent) (f : FmtV)
  /-- PGET (R133): Copies a predicate into a scalar register. -/
  | pget (a : Agent) (f : FmtV)
  /-- VMOV (R134): Copies a vector under a predicate. -/
  | vmov (a : Agent) (f : FmtV)
  /-- VSEL (R134): Selects each lane from one of two vectors by predicate. -/
  | vsel (a : Agent) (f : FmtV)
  /-- VBCAST (R134): Broadcasts a scalar to every element. -/
  | vbcast (a : Agent) (f : FmtV)
  /-- VEXT (R134): Extracts one lane into a scalar register. -/
  | vext (a : Agent) (f : FmtV)
  /-- VINS (R134): Inserts a scalar into one lane. -/
  | vins (a : Agent) (f : FmtV)
  /-- VPERM (R134): Permutes lanes by index vector. -/
  | vperm (a : Agent) (f : FmtV)
  /-- VCVT (R134): Converts vector elements between types. -/
  | vcvt (a : Agent) (f : FmtV)
  /-- VRED (R134): Reduces the active lanes of a vector by sum, min or max into lane 0. -/
  | vred (a : Agent) (f : FmtV)
  /-- VIDX (R134): Writes each lane's index. -/
  | vidx (a : Agent) (f : FmtV)
  /-- VLD (R135): Loads 128 bytes into a vector register under a predicate. -/
  | vld (a : Agent) (f : FmtVM)
  /-- VST (R135): Stores 128 bytes from a vector register under a predicate. -/
  | vst (a : Agent) (f : FmtVM)
  /-- VLDS (R135): Loads 32-bit lanes at a strided sequence of tile SRAM addresses. -/
  | vlds (a : Agent) (f : FmtV)
  /-- VGATHER (R135): Loads 32-bit lanes from indexed tile SRAM addresses. -/
  | vgather (a : Agent) (f : FmtV)
  /-- VSCATTER (R135): Stores 32-bit lanes to indexed tile SRAM addresses. -/
  | vscatter (a : Agent) (f : FmtV)
  /-- TROUTE (R178): Ranks biased router scores and writes the top k experts and their gate weights. -/
  | troute (a : Agent) (f : FmtV)
  /-- VLUT (R180): Evaluates a piecewise-linear lookup table per lane. -/
  | vlut (a : Agent) (f : FmtV)
  /-- SCREE (R76): Computes eight Scree draws from counter and key lanes. -/
  | scree (a : Agent) (f : FmtV)
  /-- PERM (R217): Computes the permuted sample index of one offset by the keyed Feistel walk. -/
  | perm (a : Agent) (f : FmtR)
  /-- TZERO (R137): Clears an owned accumulator. -/
  | tzero (a : Agent) (f : FmtT)
  /-- TLOAD (R137): Loads a weight block into a weight buffer in dense, 2:4 or block-sparse form. -/
  | tload (a : Agent) (f : FmtT)
  /-- TMAC (R166): Multiplies activation rows by a weight block and adds into an accumulator in the fixed order. -/
  | tmac (a : Agent) (f : FmtT)
  /-- TSTORE (R172): Converts accumulator rows to a target format with the chosen rounding and stores them. -/
  | tstore (a : Agent) (f : FmtT)
  /-- ENQ (R142): Copies a descriptor into an engine queue of the context's own stook or P-die, or a Furrow engine, and returns the queue status. -/
  | enq (a : Agent) (f : FmtI)
  /-- WAITC (R144): Puts the context in WAITING until a completion counter reaches a target. -/
  | waitc (a : Agent) (f : FmtR)
  /-- WAITC_RELEASE (R144): A waiting context resumes in the first moment its counter holds at least the target. -/
  | waitcRelease (a : Agent)
  /-- CSRR (R152): Reads a local CSR into a scalar register. -/
  | csrr (a : Agent) (f : FmtI)
  /-- CSRW (R152): Writes a local CSR that has no row of its own. -/
  | csrw (a : Agent) (f : FmtI)
  /-- STEPMARK (R87): A write of local CSR STEPMARK records the step's restart address and s1 to s15 and clears its attempt count. -/
  | stepmark (a : Agent) (rd rs1 : RegNum) (hi : BitVec 4)
  /-- STEPREPLAY (R91): Writing 1 to STEPREPLAY acts as a failed parity read of the step. -/
  | stepreplay (a : Agent) (rd rs1 : RegNum) (hi : BitVec 4)
  /-- SWIRQ (R99): Writing 1 to SWIRQ sets the context's stook interrupt pending bit. -/
  | swirq (a : Agent) (rd rs1 : RegNum) (hi : BitVec 4)
  /-- FENCE (R149): Orders all earlier memory accesses of the context before any later one. -/
  | fence (a : Agent) (rd rs1 : RegNum)
  /-- FENCE_I (R150): Acts as fence and discards prefetched instructions. -/
  | fenceI (a : Agent) (rd rs1 : RegNum)
  /-- BAR (R151): Arrives at a stook barrier and waits for every context of its mask. -/
  | bar (a : Agent) (f : FmtI)
  /-- YIELD (R152): Ends the current quantum. -/
  | yield (a : Agent) (rd rs1 : RegNum)
  /-- HALT (R152): Stops the context with cause HALT. -/
  | halt (a : Agent) (rd rs1 : RegNum)
  /-- ERET (R155): On a management core, returns to EPC and restores ENABLE from PREV. -/
  | eret (a : Agent) (rd rs1 : RegNum)
  /-- STEP_REPLAY (R88): After the drain ends, the context restarts from its mark or stops with PARITY_REPLAY_FAILED. -/
  | stepReplay (c : CtxId)
  /-- CODE_LINE_REREAD (R90): A bad instruction word causes the code line to be re-read from the DRAM image and the fetch retried. -/
  | codeLineReread (c : CtxId)
  /-- MC_TRAP (R155): An interrupt from the controller traps a management core while IE.ENABLE is set. -/
  | mcTrap (k : Fin 4)
  /-- START (R93): CTX_CTL.START starts an IDLE or STOPPED context at CTX_PC with cleared registers. -/
  | start (c : CtxId)
  /-- STOP (R94): CTX_CTL.STOP requests a stop of the context. -/
  | stop (c : CtxId)
  /-- STOP_REQUEST (R94): The requested stop takes effect at the next boundary after issued instructions complete. -/
  | stopRequest (c : CtxId)
  /-- RESUME (R95): CTX_CTL.RESUME continues a STOPPED context with its registers kept. -/
  | resume (c : CtxId)
  /-- CTX_CONFIG_WRITE (R113): Writes to RW fields of CTX_CTL, CTX_PC, CTX_WIN and CTX_SLICE take effect only while the context is IDLE or STOPPED. -/
  | ctxConfigWrite (m : Master) (c : CtxId) (r : CtxReg) (a : CsrAcc)
  /-- ACC_OWN_WRITE (R113): A write of TILE_CTL.ACC_OWN changes owners only of accumulators whose old and new owners are idle or stopped. -/
  | accOwnWrite (t : TileId) (a : CsrAcc)
  /-- STOOK_IRQ_PEND_CLEAR (R100): Write-1-to-clear of STOOK_IRQ_PEND bits, with a same-cycle hardware set winning. -/
  | stookIrqPendClear (k : StookId) (a : CsrAcc) (hw : BitVec 32)
  /-- QUANTUM_EXPIRY (R101): The quantum count of a resident software context runs out, ending the quantum or stopping with QUANTUM. -/
  | quantumExpiry (c : CtxId)
  /-- WAIT_SWITCH_TIMEOUT (R102): With WAIT_SWITCH set, a waitc unsatisfied for 64 cycles ends the quantum. -/
  | waitSwitchTimeout (c : CtxId)
  /-- HARDWARE_SWITCH (R102): After the boundary and drain, the tile saves the resident software context and restores the next non-stopped one. -/
  | hardwareSwitch (c : CtxId)
  /-- DMA_COPY (R107): A COPY job starts on the stook DMA engine after its checks. -/
  | dmaCopy (k : StookId)
  /-- DMA_COPY2D (R107): A COPY2D job starts after its checks. -/
  | dmaCopy2d (k : StookId)
  /-- DMA_FILL (R107): A FILL job starts after its checks. -/
  | dmaFill (k : StookId)
  /-- DMA_JOB_END (R108): A DMA job ends with a completion record and one counter increment. -/
  | dmaJobEnd (k : StookId) (i : Nat)
  /-- DMA_ABORT (R110): Aborts the stook's DMA jobs of the given job ID and tag and reports the result. -/
  | dmaAbort (k : StookId) (a : CsrAcc)
  /-- PREVIEW (R199): A PREVIEW thresher job starts, runs its checks and builds 1/8-scale pictures. -/
  | preview (k : StookId)
  /-- DECODE (R188): A DECODE thresher job starts, runs its checks, allocates buffers and decodes the closure and region. -/
  | decode (k : StookId)
  /-- THRESHER_JOB_END (R185): A thresher job ends with a completion record, returns its buffers and increments its counter. -/
  | thresherJobEnd (k : StookId) (i : Nat)
  /-- THR_ABORT (R186): Aborts the thresher's jobs of the given job ID and tag. -/
  | thrAbort (k : StookId) (a : CsrAcc)
  /-- THR_CFG_LOCK (R210): Setting THR_CFG.LOCK freezes the thresher limits until the P-die is reset. -/
  | thrCfgLock (k : StookId) (a : CsrAcc)
  /-- OWNED (R222): A permutation job writes the owned-position entries of a step's slot range. -/
  | permOwned (d : PDie)
  /-- MAP (R222): A permutation job writes an entry for every slot of a range. -/
  | permMap (d : PDie)
  /-- REPLACE (R228): A permutation job computes the replacement index of a position at an attempt and its owners. -/
  | permReplace (d : PDie)
  /-- VOID (R232): A permutation job counts a void slot. -/
  | permVoid (d : PDie)
  /-- LOOK_AHEAD_GATE_OPEN (R235): A held OWNED or MAP job starts when its step falls below DELIVERED plus K. -/
  | lookAheadGateOpen (d : PDie) (i : Nat)
  /-- PERM_JOB_END (R225): A permutation job ends with a record and one counter increment. -/
  | permJobEnd (d : PDie) (i : Nat)
  /-- PERM_ABORT (R226): Aborts the permutation unit's jobs of the given job ID and tag, held ones included. -/
  | permAbort (d : PDie) (a : CsrAcc)
  /-- REPLACEMENT_REQUEST (R231): A module receiving a replacement request serves it if it holds the index, or replies NOT_HELD or REFUSED. -/
  | replacementRequest (r : ReplRequest) (o : ServeOutcome)
  /-- REPLACEMENT_REPLY (R229): The serving module receives the reply and ends the attempt, starting the next one or counting the slot. -/
  | replacementReply (r : ReplReply)
  /-- IMAGE (R244): A baler job converts and writes frames of a slot part to the consumer. -/
  | balerImage (d : PDie)
  /-- BALER_COPY (R242): A baler job writes input bytes unchanged at the part offset. -/
  | balerCopy (d : PDie)
  /-- BALER_VOID (R242): A baler job zeroes the slot and writes a void map byte. -/
  | balerVoid (d : PDie)
  /-- BALER_CLOSE (R45): A baler job sends the zero-length RDMA WRITE with immediate that counts the module's slots of a bale. -/
  | balerClose (d : PDie)
  /-- ZERO (R242): A baler job writes zeros to a range of the slot. -/
  | balerZero (d : PDie)
  /-- WINDOW_GATE_OPEN (R250): A held baler job starts in the first cycle its delivery window opens. -/
  | windowGateOpen (d : PDie) (i : Nat)
  /-- BALER_JOB_END (R249): A baler job ends after every write is acknowledged or an error is reported. -/
  | balerJobEnd (d : PDie) (i : Nat)
  /-- BALER_ABORT (R253): Aborts the baler's jobs of the given job ID and tag. -/
  | balerAbort (d : PDie) (a : CsrAcc)
  /-- TOKEN_LOAD (R262): Checks and installs a vocabulary table in a slot. -/
  | tokLoad (d : PDie)
  /-- UNLOAD (R263): Empties a vocabulary slot that no open session names. -/
  | tokUnload (d : PDie)
  /-- TOKENIZE (R265): Splits input into segments, applies byte-pair merges and writes token IDs. -/
  | tokTokenize (d : PDie)
  /-- OPEN (R267): Opens a generation session from a session block and writes the allowed list. -/
  | tokOpen (d : PDie)
  /-- TOKEN_STEP (R270): Filters candidates, selects a token, stores it and releases text under stop strings. -/
  | tokenStep (d : PDie)
  /-- TOKEN_CLOSE (R276): Frees a session. -/
  | tokenClose (d : PDie)
  /-- TOKEN_JOB_END (R277): A token job ends with a record and one counter increment. -/
  | tokenJobEnd (d : PDie) (i : Nat)
  /-- TOK_ABORT (R278): Aborts the token engine's jobs of the given job ID and tag. -/
  | tokAbort (d : PDie) (a : CsrAcc)
  /-- FL_SUBMIT (R286): A 64-bit write of a descriptor address submits a flash task or refuses it in FL_LAST_w. -/
  | flSubmit (x : XDie) (w : Fin 64) (m : Master) (a : CsrAcc)
  /-- FLASH_READ (R289): A READ task starts, checks and reads granules into its buffer. -/
  | flashRead (x : XDie) (i : Nat) (f : NandFaults)
  /-- FLASH_WRITE (R299): A WRITE task starts, checks and programs granules. -/
  | flashWrite (x : XDie) (i : Nat) (f : NandFaults)
  /-- TRIM (R289): A TRIM task unmaps granules. -/
  | flashTrim (x : XDie) (i : Nat) (f : NandFaults)
  /-- FLUSH (R308): A FLUSH task writes dirty map pages and metadata of its volume. -/
  | flashFlush (x : XDie) (i : Nat) (f : NandFaults)
  /-- FORMAT (R306): A FORMAT task formats a volume at its logical capacity. -/
  | flashFormat (x : XDie) (i : Nat) (f : NandFaults)
  /-- FLASH_TASK_END (R294): A flash task writes its completion record and increments its counter. -/
  | flashTaskEnd (x : XDie) (i : Nat)
  /-- FL_ABORT (R293): Aborts in-flight flash tasks of the given job ID and tag. -/
  | flAbort (x : XDie) (a : CsrAcc)
  /-- MAP_PAGE_FILL (R296): A map page read from flash arrives in the map cache and releases the tasks that missed on it. -/
  | mapPageFill (x : XDie) (i : Nat) (f : NandFaults)
  /-- SUPERBLOCK_VERIFY (R300): After the last row is programmed, the superblock is read back, rebuilt where needed and its parity set released. -/
  | superblockVerify (x : XDie) (v : Fin 16) (i : Nat) (bad : List (Nat × Fin 16)) (f : NandFaults)
  /-- GARBAGE_COLLECTION (R304): Garbage collection starts in a volume whose free superblocks drop below LOW. -/
  | garbageCollection (x : XDie) (v : Fin 16)
  /-- RELOCATE_GRANULE (R305): A valid granule of a victim is copied, verified and remapped. -/
  | relocateGranule (x : XDie) (v : Fin 16) (f : NandFaults)
  /-- KEY_LOAD (R311): Installs the key in FL_KEY_DATA for a volume, refusing equal halves. -/
  | keyLoad (x : XDie) (m : Master) (a : CsrAcc)
  /-- KEY_CLEAR (R311): Removes a volume's key, locking an encrypted volume. -/
  | keyClear (x : XDie) (m : Master) (a : CsrAcc)
  /-- FL_KEY_DATA (R311): A write of key data bytes is accepted only from management cores. -/
  | flKeyData (x : XDie) (k : Fin 8) (m : Master) (a : CsrAcc)
  /-- FL_VOL_CFG_WRITE (R312): A write of a volume's configuration while ABSENT or UNFORMATTED, changing its state by GROUP_COUNT. -/
  | flVolCfgWrite (x : XDie) (v : Fin 16) (a : CsrAcc)
  /-- MEM_IL_LOCK (R319): Setting MEM_IL.LOCK freezes the address hash until the next full reset. -/
  | memIlLock (a : CsrAcc)
  /-- DRAM_READ (R322): A line read is decoded under RS(80,64), corrected or returned poisoned. -/
  | dramRead (m : Master) (line : Fin 103079215104)
  /-- DRAM_WRITE (R325): A line write replaces the line, or a partial write merges or is dropped. -/
  | dramWrite (m : Master) (line : Fin 103079215104) (off : Fin 64) (bs : List Byte)
  /-- CORRECTED_WRITEBACK (R323): A corrected line is written back unless a later write supersedes it. -/
  | correctedWriteback (i : Nat)
  /-- REFRESH (R327): A rank's refresh interval expires and an all-bank refresh is issued. -/
  | refresh (ch : Fin 24) (rank : Fin 4) (cycles : BitVec 16) (delayed : BitVec 32)
  /-- POOL_ENABLE (R329): A write of POOL_CFG.ENABLE starts pool initialisation or disables an idle pool, or is refused. -/
  | poolEnable (m : Master) (p : Fin 256) (a : CsrAcc)
  /-- POOL_READY (R329): Pool initialisation ends and READY is set. -/
  | poolReady (p : Fin 256)
  /-- ALLOC (R330): A pool job takes n buffers from the ring head or fails with NO_BUFFER. -/
  | poolAlloc (d : PDie)
  /-- FREE (R331): A pool job checks and returns buffers to the ring tail. -/
  | poolFree (d : PDie)
  /-- POOL_ABORT (R335): Aborts pool jobs of the given job ID and tag. -/
  | poolAbort (d : PDie) (a : CsrAcc)
  /-- INFLATE (R341): A stream job decompresses DEFLATE, zlib or gzip. -/
  | streamInflate (e : Fin 16)
  /-- DEFLATE (R343): A stream job compresses input deterministically. -/
  | streamDeflate (e : Fin 16)
  /-- ZSTD (R342): A stream job decompresses Zstandard frames. -/
  | streamZstd (e : Fin 16)
  /-- CRC (R344): A stream job computes a check value and optionally compares it. -/
  | streamCrc (e : Fin 16)
  /-- ALIVE (R345): A stream job checks a sequence of alive counters. -/
  | streamAlive (e : Fin 16)
  /-- RECORD (R346): A stream job makes the engine checks of one sheaf record and optionally copies its payload. -/
  | streamRecord (e : Fin 16)
  /-- STREAM_JOB_END (R347): A stream job ends with a record and one counter increment. -/
  | streamJobEnd (e : Fin 16) (i : Nat)
  /-- STREAM_ABORT (R348): Aborts stream jobs of the given job ID and tag. -/
  | streamAbort (e : Fin 16) (a : CsrAcc)
  /-- STREAM_CFG_LOCK (R339): Setting STREAM_CFG.LOCK freezes OUT_MAX and RATIO until the P-die is reset. -/
  | streamCfgLock (e : Fin 16) (a : CsrAcc)
  /-- PORT_CFG_WRITE (R354): A port configuration write is ignored while an interface is enabled. -/
  | portCfgWrite (x : XDie) (p : Fin 8) (r : PortReg) (a : CsrAcc)
  /-- LINK_UP (R385): A port interface comes up and LINK_UP is posted. -/
  | linkUp (x : XDie) (p : Fin 8) (i : Fin 8)
  /-- LINK_DOWN (R385): A port interface goes down and LINK_DOWN is posted. -/
  | linkDown (x : XDie) (p : Fin 8) (i : Fin 8)
  /-- PORT_REPLAY_REQ (R353): A received REPLAY_REQ makes the sender resend from the requested frame. -/
  | portReplayReq (x : XDie) (p : Fin 8) (i : Fin 8) (seq : BitVec 16)
  /-- CMIS_POLL (R355): Every 100 ms the management cores poll the pluggable module flags and post module events. -/
  | cmisPoll (x : XDie) (p : Fin 7) (present : Bool) (cmis : BitVec 3) (r : CmisReport)
  /-- FURROW_WRITE (R376): A Furrow WRITE descriptor starts and sends its packets. -/
  | furrowWrite (x : XDie) (q : Fin 64)
  /-- FURROW_SEND (R376): A Furrow SEND descriptor starts and sends one message. -/
  | furrowSend (x : XDie) (q : Fin 64)
  /-- FURROW_READ (R376): A Furrow READ descriptor starts and sends READ_REQ. -/
  | furrowRead (x : XDie) (q : Fin 64)
  /-- FURROW_ATOMIC_ADD (R376): A Furrow ATOMIC_ADD descriptor starts and sends its addend. -/
  | furrowAtomicAdd (x : XDie) (q : Fin 64)
  /-- WAIT (R377): A Furrow WAIT descriptor reaches the head of its queue and waits on a counter. -/
  | furrowWait (x : XDie) (q : Fin 64)
  /-- WAIT_SATISFIED (R377): A WAIT ends OK when its counter reaches the target, releasing its queue. -/
  | waitSatisfied (x : XDie) (q : Fin 64)
  /-- FUR_SUBMIT (R378): A 64-bit write of a descriptor address submits a Furrow descriptor. -/
  | furSubmit (m : Master) (x : XDie) (a : CsrAcc)
  /-- FUR_SQ_CFG_WRITE (R378): A write setting EGRESS to 60 to 63 is accepted only from management cores. -/
  | furSqCfgWrite (m : Master) (x : XDie) (q : Fin 64) (a : CsrAcc)
  /-- WRITE (R372): A received WRITE packet is checked against its key, written and tracked in the message bitmap. -/
  | rxWrite (x : XDie) (i : RxInfo) (h : FurHdr) (payload : List Byte)
  /-- SEND (R373): A received SEND is placed in a receive queue slot or NAKed. -/
  | rxSend (x : XDie) (i : RxInfo) (h : FurHdr) (payload : List Byte)
  /-- READ_REQ (R369): A received READ_REQ is checked and answered with READ_RESP packets. -/
  | rxReadReq (x : XDie) (i : RxInfo) (h : FurHdr)
  /-- READ_RESP (R372): A received READ_RESP packet is written to the requester's buffer. -/
  | rxReadResp (x : XDie) (i : RxInfo) (h : FurHdr) (payload : List Byte)
  /-- ATOMIC_ADD (R371): A received ATOMIC_ADD adds to a key word and returns the old value. -/
  | rxAtomicAdd (x : XDie) (i : RxInfo) (h : FurHdr) (payload : List Byte)
  /-- ACK (R361): A received ACK releases a packet, adjusts the pacing rate and may end the message. -/
  | rxAck (x : XDie) (i : RxInfo) (h : FurHdr) (gap : BitVec 32)
  /-- NAK (R363): A received NAK ends the message or schedules a delayed resend. -/
  | rxNak (x : XDie) (i : RxInfo) (h : FurHdr)
  /-- SYNC (R364): A received SYNC carries the sender's low mark for freeing DONE entries. -/
  | rxSync (x : XDie) (i : RxInfo) (h : FurHdr)
  /-- WRITE_PERFORMED (R361): A packet's write is performed, its ACK sent, and the message completed if its bitmap is full. -/
  | writePerformed (x : XDie) (n : Nat)
  /-- RETRANSMIT_TIMEOUT (R362): An unacknowledged packet's RTO expires and it is resent, or the message ends with RETRY_EXHAUSTED. -/
  | retransmitTimeout (x : XDie) (n : Nat) (k : Nat)
  /-- RNR_RESEND (R363): RNR_DELAY after a NO_BUFFER or NOT_READY NAK expires and the packet is resent. -/
  | rnrResend (x : XDie) (n : Nat) (k : Nat)
  /-- ENTRY_FREE (R364): A DONE receive entry is freed once HOLD has passed and the low mark has advanced. -/
  | entryFree (x : XDie) (n : Nat) (cycles : Nat)
  /-- SYNC_SEND (R364): A destination that received no packet within RTO after the low mark advanced is sent one SYNC. -/
  | syncSend (x : XDie) (dst : BitVec 16) (engine : Bool)
  /-- RATE_INCREASE (R383): INC_GAP passes without change and the destination's pacing rate rises. -/
  | rateIncrease (x : XDie) (t : RateTarget)
  /-- NOT_READY_TOKEN (R384): Every 10 µs a port's NOT_READY bucket gains a token. -/
  | notReadyToken (x : XDie) (p : Fin 9)
  /-- REGISTER (R368): Registers a Furrow key for a memory span. -/
  | keyRegister (a : CsrAcc)
  /-- KEY_REVOKE (R370): Moves a VALID key to REVOKING. -/
  | keyRevoke (a : CsrAcc)
  /-- FUR_RQ_CONS (R374): A write of a receive queue's CONS is accepted only if within PROD. -/
  | furRqCons (m : Master) (x : XDie) (n : Fin 64) (a : CsrAcc)
  /-- FUR_EVQ_CONS (R374): A write of the event ring's CONS is accepted only if within PROD. -/
  | furEvqCons (m : Master) (x : XDie) (a : CsrAcc)
  /-- FUR_ABORT (R380): Aborts Furrow descriptors of the given job ID and tag. -/
  | furAbort (x : XDie) (a : CsrAcc)
  /-- ACTIVATE (R387): Activates a queue pair from its context, moving it to RTS. -/
  | qpActivate (x : XDie) (i : Fin 2048)
  /-- QP_RESET (R387): Returns a queue pair to RESET. -/
  | qpReset (x : XDie) (i : Fin 2048)
  /-- ROCE_ACK (R388): A received RoCE ACK advances the oldest unacknowledged PSN. -/
  | roceAck (x : XDie) (p : RoceRx) (psn : BitVec 24)
  /-- PSN_SEQUENCE_ERROR_NAK (R388): A sequence error NAK starts go-back-N or moves the queue pair to ERROR. -/
  | psnSequenceErrorNak (x : XDie) (p : RoceRx)
  /-- RNR_NAK (R388): An RNR NAK schedules a resend or moves the queue pair to ERROR. -/
  | rnrNak (x : XDie) (p : RoceRx)
  /-- RNR_TIMER_EXPIRY (R388): The AETH timer after an RNR NAK expires and requests are resent. -/
  | rnrTimerExpiry (x : XDie) (i : Fin 2048)
  /-- FATAL_NAK (R388): A remote access, invalid request or operational error NAK moves the queue pair to ERROR. -/
  | fatalNak (x : XDie) (p : RoceRx) (k : FatalKind)
  /-- ACK_TIMEOUT (R388): A queue pair's ack timeout expires, starting go-back-N or entering ERROR. -/
  | ackTimeout (x : XDie) (i : Fin 2048)
  /-- CNP (R383): A received CNP lowers the queue pair's pacing rate. -/
  | cnp (x : XDie) (p : RoceRx) (cycles : BitVec 32)
  /-- FRAME_SELECT (R393): When an interface can accept a frame, the scheduler picks one from the eligible queues. -/
  | frameSelect (x : XDie) (sch : Fin 9) (cycles : BitVec 32) (accept : BitVec 8)
  /-- EGRESS_ENQUEUE (R391): A frame waiting for room enters its egress queue when room appears. -/
  | egressEnqueue (x : XDie)
  /-- SHAPER_WRITE (R398): A write changing RATE or BURST of a shaper or policer resets its token count. -/
  | shaperWrite (m : Master) (x : XDie) (sch : Fin 9) (w : ShaperAt) (a : CsrAcc)
  /-- SCHED_Q_CFG_WRITE (R399): A write to privileged queue configuration is accepted only from management cores. -/
  | schedQCfgWrite (m : Master) (x : XDie) (sch : Fin 9) (q : Fin 64) (a : CsrAcc)
  /-- HOST_LINK_TRAIN (R402): A link trains at ×16, then ×8 on either half, and reports its width. -/
  | hostLinkTrain (x : XDie) (ok16 okLo okHi rev : Bool)
  /-- LOSS_OF_LOCK (R402): A link that loses lock retrains in the same order. -/
  | lossOfLock (x : XDie) (ok16 okLo okHi rev : Bool)
  /-- FLIT_REPLAY_REQ (R405): A received REPLAY_REQ flit makes the sender resend from the expected SEQ. -/
  | flitReplayReq (x : XDie) (seq : BitVec 10)
  /-- FLIT_ACK_TIMEOUT (R405): No ACK advance within 2,048 HCLK cycles makes the sender resend from the oldest unacknowledged flit. -/
  | flitAckTimeout (x : XDie)
  /-- RD_SHARED (R408): A host read granting S for a DRAM line. -/
  | rdShared (x : XDie) (tag : BitVec 12) (line : BitVec 46)
  /-- RD_OWN (R408): A host read granting E for a DRAM line. -/
  | rdOwn (x : XDie) (tag : BitVec 12) (line : BitVec 46)
  /-- RD_UC (R412): An uncached read request. -/
  | rdUc (x : XDie) (tag : BitVec 12) (line : BitVec 46) (mask : BitVec 8)
  /-- WB_LINE (R408): A host writeback of a modified line. -/
  | wbLine (x : XDie) (tag : BitVec 12) (line : BitVec 46) (poison : Bool) (data : List Byte)
  /-- WR_UC (R412): An uncached write request under a qword mask. -/
  | wrUc (x : XDie) (tag : BitVec 12) (line : BitVec 46) (mask : BitVec 8) (poison : Bool) (data : List Byte)
  /-- EVICT_CLEAN (R408): A host returns a clean line. -/
  | evictClean (x : XDie) (tag : BitVec 12) (line : BitVec 46)
  /-- RSP_I (R410): A host snoop response reporting the line invalid. -/
  | rspI (x : XDie) (tag : BitVec 12)
  /-- RSP_S (R410): A host snoop response reporting the line shared. -/
  | rspS (x : XDie) (tag : BitVec 12)
  /-- RSP_DATA_M (R410): A host snoop response supplying a modified line. -/
  | rspDataM (x : XDie) (tag : BitVec 12) (poison : Bool) (data : List Byte)
  /-- RSP_I_WB (R411): A host snoop response pointing to a writeback already sent. -/
  | rspIWb (x : XDie) (tag : BitVec 12)
  /-- DATA (R408): A response carrying a line to a device request. -/
  | hostData (x : XDie) (tag : BitVec 12) (poison : Bool) (data : List Byte)
  /-- COMP (R408): A completion response without data. -/
  | hostComp (x : XDie) (tag : BitVec 12)
  /-- ERR (R412): An error response with a status. -/
  | hostErr (x : XDie) (tag : BitVec 12) (status : BitVec 8)
  /-- HOST_LINK_DOWN (R414): A link goes down, losing messages in flight and moving snoops to the other link. -/
  | hostLinkDown (x : XDie)
  /-- MBOX_BIND (R415): A write binding a mailbox channel, accepted only from management cores before LOCK. -/
  | mboxBind (m : Master) (n : Fin 64) (a : CsrAcc)
  /-- MBOX_LOCK (R415): Locks every mailbox binding until the next full reset. -/
  | mboxLock (m : Master) (a : CsrAcc)
  /-- MBOX_TX_SEND (R417): Sends a notice on a channel, setting FULL and the receive doorbell. -/
  | mboxTxSend (m : Master) (n : Fin 64) (a : CsrAcc)
  /-- MBOX_RX_POP (R418): Pops a notice, storing the reply and setting the empty doorbell. -/
  | mboxRxPop (m : Master) (n : Fin 64) (a : CsrAcc)
  /-- MBOX_DB_CLEAR (R419): Write-1-to-clear of doorbell bits. -/
  | mboxDbClear (a : CsrAcc) (hw : BitVec 32)
  /-- INTERRUPT_RAISE (R421): A source request rises and its pending bit is set. -/
  | interruptRaise (src : BitVec 10)
  /-- WITHDRAWAL (R421): A level request falls and clears its pending bit. -/
  | withdrawal (src : BitVec 10)
  /-- INTC_PEND_WRITE (R421): A software write replaces a group's pending word. -/
  | intcPendWrite (g : Fin 32) (a : CsrAcc)
  /-- INTC_CLAIM (R423): A claim read returns the lowest claimable source, clears it and loads the group hold-off timer. -/
  | intcClaim (m : Master) (t : Fin 6)
  /-- INTC_COMPLETE (R421): A level source in service leaves service and re-pends if still asserted. -/
  | intcComplete (m : Master) (t : Fin 6) (a : CsrAcc)
  /-- HOLDOFF_EXPIRY (R424): A group's hold-off timer reaches zero and its targets may be asserted. -/
  | holdoffExpiry (g : Fin 32)
  /-- INTC_GCTL_WRITE (R426): Setting HOLD records a group's hardware actions; clearing it applies them. -/
  | intcGctlWrite (g : Fin 32) (a : CsrAcc)
  /-- DISCOVER (R430): A received DISCOVER records a position and is sent on, or closes the ring at the lead. -/
  | ropeDiscover (x : XDie) (i : RxInfo) (h : RopeHdr) (payload : List Byte)
  /-- ASSIGN (R432): A received ASSIGN installs the module ID, nonce and member table, or is refused on an ID conflict. -/
  | ropeAssign (x : XDie) (i : RxInfo) (h : RopeHdr) (payload : List Byte)
  /-- JOIN (R430): The lead records a member's JOIN or grants an insertion. -/
  | ropeJoin (x : XDie) (i : RxInfo) (h : RopeHdr) (payload : List Byte)
  /-- CAIRN (R445): The lead records a member's DELIVERED and finds stragglers. -/
  | ropeCairn (x : XDie) (i : RxInfo) (h : RopeHdr) (payload : List Byte) (table : List Byte) (place : Word)
  /-- TABLE (R448): A member checks and installs a new shard table, or answers TABLE_LATE. -/
  | ropeTable (x : XDie) (i : RxInfo) (h : RopeHdr) (payload : List Byte) (place : Word)
  /-- TABLE_ACK (R447): The lead records a table acknowledgement, resending or stopping the job on failure. -/
  | tableAck (x : XDie) (i : RxInfo) (h : RopeHdr) (payload : List Byte)
  /-- RING_STATE (R437): A module applies the member table and its route word and forwards the message. -/
  | ringState (x : XDie) (i : RxInfo) (h : RopeHdr) (payload : List Byte)
  /-- HEARTBEAT (R444): A received HEARTBEAT refreshes the sender's liveness. -/
  | ropeHeartbeat (x : XDie) (i : RxInfo) (h : RopeHdr) (payload : List Byte)
  /-- EXPEL (R439): The X-die accepts an EXPEL for itself, moves the bypass to THROUGH and sets EXPELLED. -/
  | ropeExpel (x : XDie) (i : RxInfo) (h : RopeHdr) (payload : List Byte)
  /-- FW_MANIFEST (R453): A manifest chunk is stored, forwarded, and the manifest verified once complete. -/
  | fwManifest (x : XDie) (i : RxInfo) (h : RopeHdr) (payload : List Byte)
  /-- FW_CHUNK (R453): An image chunk is verified against its digest and forwarded. -/
  | fwChunk (x : XDie) (i : RxInfo) (h : RopeHdr) (payload : List Byte)
  /-- FW_NACK (R454): An upstream neighbour answers listed missing chunks with REPAIR chunks. -/
  | fwNack (x : XDie) (i : RxInfo) (h : RopeHdr) (payload : List Byte)
  /-- ROPE_FORWARD (R436): A packet on a rope port for another module is forwarded out of the other rope port. -/
  | ropeForward (x : XDie) (i : RxInfo) (pkt : RxPacket)
  /-- FORM_WAIT_EXPIRY (R431): DISCOVER has not returned in FORM_WAIT and the lead also sends it west. -/
  | formWaitExpiry (east west : BitVec 5)
  /-- HEARTBEAT_PERIOD (R444): HB_PERIOD expires and a HEARTBEAT is sent. -/
  | heartbeatPeriod
  /-- HEARTBEAT_MISS (R444): HB_MISS periods pass without a heartbeat, setting LEAD_LOST or marking a member SUSPECT. -/
  | heartbeatMiss (pos : Fin 32) (expel : Bool)
  /-- SETTLE_EXPIRY (R443): SETTLE after a planned RING_STATE expires and the lead sends EXPEL or grants insertion. -/
  | settleExpiry (pos : Fin 32)
  /-- MEMBER_EXPELLED (R451): The lead marks a member EXPELLED once its bypass is THROUGH or its heartbeats stop. -/
  | memberExpelled (pos : Fin 32)
  /-- MARGIN_PERIOD (R449): MARGIN_PERIOD expires and firmware measures margins and writes its record to the lead. -/
  | marginPeriod (g : Margin)
  /-- FW_WAIT_EXPIRY (R454): FW_WAIT passes without a chunk and FW_NACK is sent or distribution fails. -/
  | fwWaitExpiry
  /-- ROPE_BYPASS_INSERT (R438): Setting INSERT moves the bypass to INSERT unless expelled. -/
  | ropeBypassInsert (m : Master) (a : CsrAcc)
  /-- FW_ACTIVATE (R455): Hands a VERIFIED image to the anchor for installation. -/
  | fwActivate (m : Master) (a : CsrAcc)
  /-- FW_DISCARD (R455): Discards the distributed image and returns STATE to IDLE. -/
  | fwDiscard (m : Master) (a : CsrAcc)
  /-- CLOCKS (R458): Bring-up step 1 checks the reference and locks the PLLs. -/
  | bringupClocks (m : Master) (a : CsrAcc) (ref : Bool) (pll : BitVec 6)
  /-- TRAIN (R461): Bring-up step 2 trains every channel, lane and link. -/
  | bringupTrain (m : Master) (a : CsrAcc) (errors : List TrainUnit)
  /-- TRAINING_TIMEOUT (R461): A unit not trained 30 s after the step's start is marked failed. -/
  | trainingTimeout (u : TrainUnit)
  /-- LANECHECK (R462): Bring-up step 3 runs PRBS31 checks of lanes and die-to-die links. -/
  | bringupLanecheck (m : Master) (a : CsrAcc) (lanes : List (Option Nat)) (d2d : List Nat)
  /-- PRBS_LOCK_TIMEOUT (R462): A lane without PRBS31 lock in 100 ms records NO_PEER. -/
  | prbsLockTimeout (x : XDie) (p l : Fin 8)
  /-- MEMTEST (R464): Bring-up step 4 runs the enabled DRAM test passes. -/
  | bringupMemtest (m : Master) (a : CsrAcc) (lost : BitVec 24) (reads : List TestRead)
  /-- MEMMAP (R314): Bring-up step 5 forms the interleave set and locks MEM_IL. -/
  | bringupMemmap (m : Master) (a : CsrAcc) (dimms : List Dimm)
  /-- FLASH (R466): Bring-up step 6 reads parameter pages and mounts volumes. -/
  | bringupFlash (m : Master) (a : CsrAcc) (r : List NandReport)
  /-- ROPE (R430): Bring-up step 7 forms or joins the rope. -/
  | bringupRope (m : Master) (a : CsrAcc) (marginKey stageKey stageLen : BitVec 32)
  /-- ROPE_WAIT_EXPIRY (R458): ROPE_WAIT expires and step 7 fails with NOT_READY. -/
  | ropeWaitExpiry
  /-- UNITTEST (R458): Bring-up step 8 tests SRAM and engines and zeroes SRAM. -/
  | bringupUnittest (m : Master) (a : CsrAcc) (fails : List (Fin 48 × Word))
  /-- READY (R467): Bring-up step 9 sets BRINGUP_STEP.READY. -/
  | bringupReady (m : Master) (a : CsrAcc)
  /-- BRINGUP_STEP_END (R460): A step ends, setting STATUS, DONE on success, and raising source 0. -/
  | bringupStepEnd (elapsed : BitVec 32)
  /-- FLOOR_WRITE (R469): Setting floor plan bits marks units failed, increments FP_GEN and raises FLOORPLAN_CHANGED. -/
  | floorWrite (m : Master) (w : Fin 48) (a : CsrAcc)
  /-- FULL (R471): RESET_CTL.FULL causes a full reset at once. -/
  | resetFull (m : Master) (a : CsrAcc)
  /-- PDIE (R472): RESET_CTL.PDIE starts a partial reset in QUIESCE, or is refused. -/
  | resetPdie (m : Master) (a : CsrAcc)
  /-- HELD (R473): The partial reset's drain ends, DRAM enters self-refresh and the P-dies are held in reset. -/
  | resetHeld
  /-- RESTORE (R473): The hold ends and PLLs, DRAM PHYs and die-to-die links are restored. -/
  | resetRestore
  /-- PARTIAL_RESET_COMPLETE (R473): The die-to-die check ends, DONE becomes 7, PCOUNT increments and source 0 is raised. -/
  | partialResetComplete (errs : List (BitVec 32))
  /-- REQUEST_M0 (R480): A request for M0 starts an exit or aborts an entry in DRAIN. -/
  | requestM0 (m : Master) (a : CsrAcc)
  /-- REQUEST_M1 (R481): A request for M1 is checked and starts an entry. -/
  | requestM1 (m : Master) (a : CsrAcc)
  /-- REQUEST_M2 (R481): A request for Bivouac is checked and starts its DRAIN. -/
  | requestM2 (m : Master) (a : CsrAcc)
  /-- REQUEST_M3 (R481): A request for Standby is checked and starts its DRAIN. -/
  | requestM3 (m : Master) (a : CsrAcc)
  /-- REQUEST_M4 (R481): A request for Off is checked and starts its DRAIN. -/
  | requestM4 (m : Master) (a : CsrAcc)
  /-- DRAIN_END (R482): The DRAIN phase ends and CUT begins. -/
  | drainEnd
  /-- CUT_END (R482): CUT ends, STATE takes the target, BUSY clears and source 8 is raised. -/
  | cutEnd
  /-- ABORT_SETTLED (R483): 1,000 SCLK cycles after an abort, BUSY clears. -/
  | abortSettled
  /-- EXIT_COMPLETE (R486): The exit delay elapses and the module reports M0. -/
  | exitComplete
  /-- WAKE_FRAME (R488): A matching wake frame in M2 starts an exit. -/
  | wakeFrame (x : XDie) (i : RxInfo) (dst payload : List Byte)
  /-- WAKE_SENSE (R489): WAKE_SENSE above 0.80 V for 1,000 cycles raises source 10 and may wake the module. -/
  | wakeSense
  /-- STOOK_GATE (R476): In M1 a stook meeting the gating condition is gated. -/
  | stookGate (k : StookId)
  /-- STOOK_UNGATE (R476): An access to a gated stook completes after 1,000 SCLK cycles and the stook is ungated. -/
  | stookUngate (k : StookId)
  /-- BOOT (R495): At the release of a full reset the anchor verifies and loads an image and releases the cores. -/
  | anchorBoot
  /-- EXTEND (R499): Extends a measurement register 2 to 7. -/
  | anchorExtend (m : Master) (a : CsrAcc)
  /-- REPORT (R500): Writes a signed attestation report. -/
  | anchorReport (m : Master) (a : CsrAcc)
  /-- INSTALL (R497): Verifies and writes an image into the inactive slot and makes it active. -/
  | anchorInstall (m : Master) (a : CsrAcc)
  /-- LOAD_SEG (R517): Copies a verified deferred segment to DRAM. -/
  | anchorLoadSeg (m : Master) (a : CsrAcc)
  /-- LC (R501): Burns a lifecycle transition, effective at the next full reset. -/
  | anchorLc (m : Master) (a : CsrAcc)
  /-- COMMIT_SVN (R498): Burns the minimum security version up to the running image's. -/
  | anchorCommitSvn (m : Master) (a : CsrAcc)
  /-- REVOKE (R505): Revokes a key slot with a token of purpose 4. -/
  | anchorRevoke (m : Master) (a : CsrAcc)
  /-- RECOVER (R517): Makes the next full reset boot recovery. -/
  | anchorRecover (m : Master) (a : CsrAcc)
  /-- RCV (R496): Checks a recovery chunk and writes it into slot A. -/
  | anchorRcv (m : Master) (a : CsrAcc)
  /-- ANCHOR_COMMAND_END (R517): An anchor command ends, sets STATUS, clears BUSY and raises source 3. -/
  | anchorCommandEnd
  /-- EXTEST (R503): Loading EXTEST holds the module in full reset. -/
  | tapExtest
  /-- IDCODE (R502): Selects the identification register. -/
  | tapIdcode
  /-- SAMPLE_PRELOAD (R503): Captures pin states, restricted at level NONE in PRODUCTION and RETURN. -/
  | tapSamplePreload (cells : List ScanCell)
  /-- EXTEST_PULSE (R503): Loading EXTEST_PULSE holds the module in reset. -/
  | tapExtestPulse
  /-- EXTEST_TRAIN (R503): Loading EXTEST_TRAIN holds the module in reset. -/
  | tapExtestTrain
  /-- CLAMP (R503): Loading CLAMP holds the module in reset. -/
  | tapClamp
  /-- HIGHZ (R503): Loading HIGHZ holds the module in reset. -/
  | tapHighz
  /-- DBG_ACCESS (R502): Performs a DEBUG register access with master ID 0x01F. -/
  | dbgAccess (i : BitVec 9) (write : Bool) (data : Word)
  /-- BYPASS (R502): Selects the bypass register and releases an EXTEST-held reset. -/
  | tapBypass
  /-- TRST (R507): TRST resets the TAP and debug module and returns LEVEL to its reset level. -/
  | tapTrst
  /-- NEW (R506): Draws a fresh challenge and starts an unlock for the writer. -/
  | dbgNew (m : Master) (a : CsrAcc)
  /-- DBG_TOKEN (R506): A 64-bit write appends 8 bytes to the unlock token. -/
  | dbgToken (m : Master) (a : CsrAcc)
  /-- SUBMIT (R506): Starts verification of the unlock token. -/
  | dbgSubmit (m : Master) (a : CsrAcc)
  /-- UNLOCK_VERIFIED (R506): Token verification ends, raising the level or recording a failure. -/
  | unlockVerified
  /-- LOCK (R507): Lowers the debug level to TARGET and extends register 0. -/
  | dbgLock (m : Master) (a : CsrAcc)
  /-- DBG_HALT (R508): Holds the selected target. -/
  | dbgHalt (m : Master) (a : CsrAcc)
  /-- DBG_RESUME (R508): Continues a held target and ends the hold. -/
  | dbgResume (m : Master) (a : CsrAcc)
  /-- DBG_STEP (R508): Executes exactly one instruction of a held target. -/
  | dbgStep (m : Master) (a : CsrAcc)
  /-- DBG_REG_DATA (R510): Reads or writes the selected register of a held target. -/
  | dbgRegData (m : Master) (a : Option CsrAcc)
  /-- DBG_MEM_READ (R510): Performs one debug memory read. -/
  | dbgMemRead (m : Master) (a : CsrAcc)
  /-- DBG_MEM_WRITE (R510): Performs one debug memory write. -/
  | dbgMemWrite (m : Master) (a : CsrAcc)
  /-- ERR_SUMMARY_CLEAR (R515): Write-1-to-clear of error summary bits. -/
  | errSummaryClear (a : CsrAcc) (hw : BitVec 16)
  /-- ERR_INJ (R516): A write arms, changes or disarms an error injection. -/
  | errInj (m : Master) (a : CsrAcc)
  /-- PLL_LOSS_OF_LOCK (R514): A PLL loses lock after Ready, failing a P-die or making the anchor order a full reset. -/
  | pllLossOfLock (die : Fin 6)
  /-- POWER_UP (R519): VIN rises, rails come up and PWR_GOOD is released. -/
  | powerUp
  /-- POWER_LOSS (R519): VIN or a rail falls out of tolerance for 100 µs and PWR_GOOD goes low. -/
  | powerLoss (vin : Bool)
  /-- SYS_RST_N (R521): A low pulse on SYS_RST_N causes a full reset. -/
  | sysRstN (level pulse : Bool)
  /-- FULL_RESET_RELEASE (R471): A full reset ends, sampling MODE_LEAD and clearing the floor plan. -/
  | fullResetRelease (lead : Bool)
  /-- THERM_N (R530): The hottest junction crosses 100 °C or falls below 95 °C and THERM_N changes. -/
  | thermN (hot : Bool)
  /-- THERMAL_TRIP (R530): A junction at 115 °C trips the module and latches. -/
  | thermalTrip
  /-- FLIT (R405): A received Adeop Link flit is FEC-decoded and CRC-checked; a failure discards it and every later flit until the expected SEQ arrives and sends REPLAY_REQ, while a good flit's ACK and credits free the sender's retry buffer. -/
  | hostFlit (x : XDie) (flit : List Byte)
  /-- GAUGE_SAMPLING_PERIOD (R7): Each GAUGE_CFG.PERIOD SCLK cycles every load gauge of the die updates AVG from CUR and counts SAT when a queue of its class is full. -/
  | gaugeSamplingPeriod (die : Fin 6) (cycles : BitVec 32)
  /-- DRAM_TEMPERATURE_SENSOR (R327): The DIMM's temperature sensor crosses 85 °C and the rank refresh interval switches between 8,580 and 4,290 MCLK cycles. -/
  | dramTemperatureSensor (ch : Fin 24) (hot : Bool)
  /-- OPTICAL_PATH_SETTLED (R442): The MEMS bypass switch finishes its move, so ROPE_BYPASS.STATE leaves MOVING for THROUGH or INSERT and MOVES advances. -/
  | opticalPathSettled
  deriving DecidableEq, Repr

end Sys2Proof
end

