-- ==== Sys2Proof/Config.lean ====
section
/-!
DEFINITION. What the spec leaves open, as constants without a body: free values, values each implementation fixes,
and functions defined by published standards that the spec cites and does not restate. No proof can see a value.
-/
namespace Sys2Proof

/-- A free value of `w` bits, applied to the model's counter `State.free` (log entry 2). -/
opaque Config.freeValue (w : Nat) : Nat → BitVec w

/-- The content of a DRAM byte at an address after the `g`-th loss of DRAM contents (R465, R471). -/
opaque Config.dramContent (g a : Nat) : BitVec 8

/-- vcvt between integer types of a value outside the destination's range (R134 states no result; log entry 4):
source type, destination type, source code. -/
opaque Config.vcvtRange : Nat → Nat → Nat → Nat

/-- vcvt from 8-bit to 16-bit elements: bytes 64 to 127 of the destination (R134 states none; log entry 5), by the
source register. -/
opaque Config.vcvtFill : BitVec 1024 → BitVec 512

/-- How many first bytes of its `k`-th write a job has made that its own data ends (R63; log entry 107): descriptor,
writes, `k`. -/
opaque Config.cutLength : List (BitVec 8) → List (Nat × List (BitVec 8)) → Nat → Nat

/-- The owner of a sample index that no entry of a shard table holds (R31, R222; log entry 42): the table's generation, effective
step, N and entries, the index. -/
opaque Config.strayOwner : List Nat → Nat → BitVec 16

/-- The rank that holds a channel-local address (the module's SPD; R322, R326): channel, local address. -/
opaque Config.rankOf : Nat → Nat → Fin 4

/-- The sub-channel that holds a channel-local address (R326). -/
opaque Config.subOf : Nat → Nat → Fin 2

/-- The tree entry of a BF16 or FP16 tmac when both slots of a 2:4 group name one index: R161 forms two products for
one entry of R167 and no rule joins them (log entry 6); the two FP32 products. -/
opaque Config.doubleProduct : Nat → Nat → Nat

/-- How the SENDs of a job's replacement messages go (R230, R374): X-die, send queue, the receive queue that the job's programs set
aside, and the X-die that holds it. -/
opaque Config.replRoute : Nat → Fin 2 × Fin 64 × Fin 64 × Bool

/-! ## What an event brings that the part cannot compute (log entry 123)

Each is a free value, drawn as `State.free` counts them. -/

/-- What the lead's host gives it to distribute (R452): an image ID, the manifest's DRAM address and length, the image's address
and its number of chunks. -/
structure FwGive where
  id : BitVec 32
  manifest : BitVec 64
  manifestLen : BitVec 20
  image : BitVec 64
  chunks : BitVec 20
  deriving DecidableEq, Repr, Inhabited

/-- What firmware of a rope member has been told by the end of an HB_PERIOD: modules, of its rope or another, that are reported
failed or expelled (R231); jobs for which the lead has met TABLE_LATE (R448); segments of the ring that neighbours have reported down or up (R443); expulsions ordered, with their cause (R435); whether a
second's host wants it inserted (R443); an image to distribute (R452). -/
structure PeriodNews where
  failed : List (BitVec 16)
  late : List (Fin 64)
  segments : List (Fin 32 × Bool)
  orders : List (Fin 32 × Fin 6)
  insert : Bool
  give : Option FwGive
  deriving DecidableEq, Repr, Inhabited

/-- What firmware has been told by the end of an HB_PERIOD. -/
opaque Config.periodNews : Nat → PeriodNews

/-- How the training of a host link goes (R402): whether ×16, ×8 on lanes 0 to 7 and ×8 on lanes 8 to 15 succeed, and
whether the lanes are reversed. -/
structure LinkTrain where
  ok16 : Bool
  okLo : Bool
  okHi : Bool
  rev : Bool
  deriving DecidableEq, Repr, Inhabited

/-- What an exit brings (R486): the training of each host link, the parity errors of the die-to-die check by link, and the units that
do not come back, by word of the floor plan. -/
structure ExitNews where
  train0 : LinkTrain
  train1 : LinkTrain
  d2d : List (BitVec 32)
  lost : List (Fin 48 × BitVec 64)
  deriving DecidableEq, Repr, Inhabited

/-- What an exit brings. -/
opaque Config.exitNews : Nat → ExitNews

/-- The cells of the boundary register at PWR_GOOD, OFF_REQ_N and THERM_N (R502): no rule numbers the cells. -/
opaque Config.boundaryCell : Nat → Nat

/-- The egress queue of READ_RESP packets (R390 names queues for send queues, ACK and SYNC only). -/
opaque Config.respQueue : Fin 60

/-- The DSCP of packets that answer others, by type (R357 gives the send queue's DSCP; ACK, NAK, SYNC and READ_RESP
have none). -/
opaque Config.replyDscp : Nat → BitVec 6

/-! ## Signatures (chapter 18; log entry 11)

The spec names Falcon-1024 in the padded format and does not restate it. Verification is written out in Machine/Falcon.lean; key
generation and signing are not. -/

/-- The public key that key generation gives for a seed (R492). -/
opaque Config.falconPublic : List (BitVec 8) → List (BitVec 8)

/-- The signature of a message by the key of a seed; the number is the place of the signature among those made. -/
opaque Config.falconSign : List (BitVec 8) → List (BitVec 8) → Nat → List (BitVec 8)

/-- The version of the boot ROM (R499). -/
opaque Config.romVersion : BitVec 32

/-- The digest of the ROM's test key (R494). -/
opaque Config.testKeyDigest : List (BitVec 8)

/-! ## Video and image standards (R182 to R200; log entry 10)

The spec names HEVC, AV1, H.264 and JPEG and does not restate them. The walk of a record, the headers of a JPEG, and what the
rules make of syntax are in Machine/VideoStream.lean and Machine/Video.lean. What parsing of parameter sets and picture
headers, entropy decoding and reconstruction find are values of the functions below, of record type and the stream units that
are not skipped (R183). -/

/-- A unit that the picture scan walks (R188): its kind (NAL unit type, OBU type or JPEG marker), where its bytes begin in the
payload, and its bytes: of a NAL unit all, of an OBU those after its header and size, of a JPEG segment those after its length. -/
structure StreamUnit where
  kind : Nat
  off : Nat
  data : List (BitVec 8)
  deriving DecidableEq, Repr, Inhabited

/-- A profile of R182, or another. -/
inductive VideoProfile where
  | hevcMain | hevcMain10 | hevcMainStill | av1Main | h264ConstrainedBaseline | h264Main | h264High | jpegBaseline
  | jpegExtended | other
  deriving DecidableEq, Repr, Inhabited

/-- The sequence-level headers of a record (check 4): profile; level in tenths; chroma format (the codes of R208, or more);
components of a JPEG; bit depth; field coding of H.264; another tool outside R182 and R183; coded size; logarithm of the CTB
or superblock size; display window. -/
structure SeqHeader where
  profile : VideoProfile
  level : Nat
  chroma : Nat
  components : Nat
  depth : Nat
  interlaced : Bool
  otherTool : Bool
  width : Nat
  height : Nat
  unitLog : Nat
  dispX : Nat
  dispY : Nat
  dispW : Nat
  dispH : Nat
  deriving DecidableEq, Repr, Inhabited

/-- What an HEVC picture's slice header says of references and order: an IRAP picture, and of those an IDR, or a CRA; an end
of sequence before it; a RASL picture; whether later pictures derive their order count from it (TemporalId 0, neither
leading nor a sub-layer non-reference); its order count's low part and that part's modulus; pic_output_flag; the short-term
set (difference, used by this picture) and the long-term entries (low part, cycle of the high part where sent, used);
tiles_enabled_flag. -/
structure HevcHead where
  irap : Bool
  idr : Bool
  cra : Bool
  afterEnd : Bool
  rasl : Bool
  anchor : Bool
  lsb : Nat
  maxLsb : Nat
  output : Bool
  short : List (Int × Bool)
  long : List (Nat × Option Nat × Bool)
  tiles : Bool
  deriving DecidableEq, Repr, Inhabited

/-- The sequence parameters of an H.264 picture that reference marking and order counts use. -/
structure H264Seq where
  maxFrameNum : Nat
  pocType : Nat
  maxLsb : Nat
  offsetNonRef : Int
  offsetBottom : Int
  offsetsRef : List Int
  refFrames : Nat
  deriving DecidableEq, Repr, Inhabited

/-- A slice of an H.264 picture: I, P or B (0, 1, 2), active entries of both lists, and their modification commands. -/
structure H264Slice where
  kind : Nat
  active0 : Nat
  active1 : Nat
  mods0 : List (Nat × Nat)
  mods1 : List (Nat × Nat)
  deriving DecidableEq, Repr, Inhabited

/-- What an H.264 picture's headers say of references and order: IDR; a reference picture; frame_num; the order count
syntax; long_term_reference_flag; the memory management control operations where sent (operation and two operands). -/
structure H264Head where
  seq : H264Seq
  idr : Bool
  ref : Bool
  frameNum : Nat
  lsb : Nat
  bottom : Int
  delta0 : Int
  delta1 : Int
  longIdr : Bool
  mmco : Option (List (Nat × Nat × Nat))
  slices : List H264Slice
  deriving DecidableEq, Repr, Inhabited

/-- What an AV1 frame header says of references: show_frame; a key frame; an inter frame; the slots of ref_frame_idx;
primary_ref_frame; refresh_frame_flags; superres. -/
structure Av1Head where
  shown : Bool
  key : Bool
  inter : Bool
  refIdx : List Nat
  primary : Option Nat
  refresh : Nat
  superres : Bool
  deriving DecidableEq, Repr, Inhabited

/-- The reference and order syntax of a picture header, by standard; AV1's show_existing_frame is its slot. -/
inductive PicSyntax where
  | hevc (h : HevcHead)
  | h264 (h : H264Head)
  | av1 (h : Av1Head)
  | av1Show (slot : Nat)
  | jpeg
  deriving DecidableEq, Repr, Inhabited

/-- What every picture header says: whether it parses, whether it uses a feature that R183 refuses, and its coded size (AV1: the
upscaled width). -/
structure PicFrame where
  parses : Bool
  refused : Bool
  width : Nat
  height : Nat
  deriving DecidableEq, Repr, Inhabited

/-- A picture header of the picture scan. -/
structure PicHeader where
  frame : PicFrame
  syn : PicSyntax
  deriving DecidableEq, Repr, Inhabited

/-- A rectangle of samples: left, top, columns, rows. -/
structure VideoRect where
  x : Int
  y : Int
  w : Nat
  h : Nat
  deriving DecidableEq, Repr, Inhabited

/-- How a unit reads a reference picture (R198): an inter prediction by a motion vector, an overlapped block's included; a warped
prediction, of the samples given; or the derivation of a collocated vector. -/
inductive VideoReach where
  | vector (x y : Int)
  | warped (area : VideoRect)
  | collocated
  deriving DecidableEq, Repr, Inhabited

/-- A prediction of a unit: the reference's place among the picture's direct references (R194), plane, block, and reach. -/
structure VideoPred where
  ref : Nat
  plane : Nat
  area : VideoRect
  reach : VideoReach
  deriving DecidableEq, Repr, Inhabited

/-- The kinds of decoding unit of R196. -/
inductive UnitKind where
  | hevcTile | hevcSlice | av1Tile | h264Slice | jpegMcu
  deriving DecidableEq, Repr, Inhabited

/-- A decoding unit of a picture (R196): its kind; its luma samples; the units without which it cannot be located, and those that
depend on it; its bytes, as stream unit, offset and length in it; a syntax element of it out of its range; its predictions. -/
structure VideoUnit where
  kind : UnitKind
  area : List VideoRect
  withUnits : List Nat
  nal : Nat
  off : Nat
  len : Nat
  corrupt : Bool
  preds : List VideoPred
  deriving DecidableEq, Repr, Inhabited

/-- A transform block of a plane, or a block coded without a transform (R200): its samples; no coded residual, the residual
of its DC coefficient alone, or its residual samples. -/
structure VideoBlock where
  area : VideoRect
  res : Option (Int ⊕ List Int)

/-- The silicon revision in IDCODE (R502): the spec gives no value. -/
opaque Config.siliconRevision : BitVec 4

/-- Yullamor's JEP106 code (R502). -/
opaque Config.jep106 : BitVec 11

/-- What the parameter sets of an HEVC, AV1 or H.264 record say, where they parse: record type, stream. -/
opaque Config.videoSeq : Nat → List StreamUnit → Option SeqHeader

/-- What the header of picture unit `n` says of the picture: record type, stream, `n`. -/
opaque Config.videoFrame : Nat → List StreamUnit → Nat → PicFrame

/-- Reference and order syntax of HEVC picture unit `n`. -/
opaque Config.hevcHead : List StreamUnit → Nat → HevcHead

/-- Reference and order syntax of H.264 picture unit `n`. -/
opaque Config.h264Head : List StreamUnit → Nat → H264Head

/-- Reference and order syntax of AV1 frame header `n`. -/
opaque Config.av1Head : List StreamUnit → Nat → Av1Head

/-- How many bytes of an AV1 frame OBU its frame header takes. -/
opaque Config.av1HeadBytes : StreamUnit → Nat

/-- The decoding units of a picture: type, stream, header index. -/
opaque Config.videoUnits : Nat → List StreamUnit → Nat → List VideoUnit

/-- A sample of a reconstructed picture, before any film grain (R183): type, stream, header index, plane, x, y. -/
opaque Config.videoSample : Nat → List StreamUnit → Nat → Nat → Nat → Nat → Nat

/-- The references (place among the picture's direct references, and motion vector) of the block that covers a plane sample; none
where it is intra, palette or intra block copy coded: type, stream, header index, plane, x, y. -/
opaque Config.videoInter : Nat → List StreamUnit → Nat → Nat → Nat → Nat → List (Nat × Int × Int)

/-- The transform blocks of a plane of a picture: type, stream, header index, plane. -/
opaque Config.videoBlocks : Nat → List StreamUnit → Nat → Nat → List VideoBlock

end Sys2Proof
end

