-- ==== Sys2Proof/Machine/Bits.lean ====
section
/-!
DEFINITION. Bit fields, sign extension and byte order (R12), over natural numbers and lists of bytes.
-/
namespace Sys2Proof.Machine

/-- Bits `lo .. lo + w - 1` of `x`. -/
def bits (x lo w : Nat) : Nat := (x >>> lo) % 2 ^ w

/-- `x` with bits `lo .. lo + w - 1` replaced by the low `w` bits of `v`. -/
def putBits (x lo w v : Nat) : Nat := (x >>> (lo + w)) <<< (lo + w) + ((v % 2 ^ w) <<< lo) + x % 2 ^ lo

/-- A field of a 64-bit word as a number. -/
def field (x : Word) (lo w : Nat) : Nat := bits x.toNat lo w

/-- A 64-bit word with one field replaced. -/
def withField (x : Word) (lo w v : Nat) : Word := BitVec.ofNat 64 (putBits x.toNat lo w v)

/-- The two's complement reading of the low `w` bits of `x`. -/
def sval (w x : Nat) : Int := if x % 2 ^ w < 2 ^ (w - 1) then (x % 2 ^ w : Nat) else ((x % 2 ^ w : Nat) : Int) - 2 ^ w

/-- The low `w` bits of an integer, as a number. -/
def wrap (w : Nat) (x : Int) : Nat := (x % (2 ^ w : Nat)).toNat

/-- The little-endian number of a list of bytes (R12). -/
def leNat : List Byte → Nat
  | [] => 0
  | b :: r => b.toNat + 256 * leNat r

/-- The `n` bytes of a number, little-endian (R12). -/
def leBytes : Nat → Nat → List Byte
  | 0, _ => []
  | n + 1, v => BitVec.ofNat 8 v :: leBytes n (v / 256)

/-- The big-endian number of a list of bytes, for fields in a published format. -/
def beNat (bs : List Byte) : Nat := bs.foldl (fun a b => a * 256 + b.toNat) 0

/-- The `n` bytes of a number, big-endian. -/
def beBytes (n v : Nat) : List Byte := (leBytes n v).reverse

/-- `n` bytes of a list from offset `o`, zero past its end. -/
def sliceB (bs : List Byte) (o n : Nat) : List Byte :=
  let t := (bs.drop o).take n
  t ++ List.replicate (n - t.length) 0

/-- The little-endian field of `n` bytes at offset `o` of a structure in memory. -/
def leAt (bs : List Byte) (o n : Nat) : Nat := leNat ((bs.drop o).take n)

/-- Bytes of a list with those at offset `o` replaced. -/
def putAt (bs : List Byte) (o : Nat) (new : List Byte) : List Byte :=
  bs.take o ++ new ++ bs.drop (o + new.length)

/-- The greatest multiple of `n` not above `x`. -/
def alignDown (x n : Nat) : Nat := x / n * n

/-- `x` divided by `n`, rounded up. -/
def ceilDiv (x n : Nat) : Nat := (x + n - 1) / n

/-- A boolean as one bit. -/
def b2n (b : Bool) : Nat := if b then 1 else 0

/-- Insert an element before the first that it may precede. -/
def insertBy {α : Type} (le : α → α → Bool) (a : α) : List α → List α
  | [] => [a]
  | b :: r => if le a b then a :: b :: r else b :: insertBy le a r

/-- A list in order; of two that may precede each other the earlier stays first. -/
def sortBy {α : Type} (le : α → α → Bool) (l : List α) : List α := l.foldr (insertBy le) []

/-- Base-2 logarithm of the size of a list of powers: the least `k` with `2 ^ k ≥ x` (fuel 64). -/
def clog2 (x : Nat) : Nat := ((List.range 65).find? (fun k => x ≤ 2 ^ k)).getD 64

end Sys2Proof.Machine
end

