-- ==== Sys2Proof/Machine/Cells.lean ====
section
/-!
DEFINITION. Sparse storage in one canonical form: a list of key and value pairs with strictly rising keys and no
entry equal to what an unlisted key reads as. Memory, CSRs, register files and tables are all held so.
-/
namespace Sys2Proof.Machine

/-- A sparse map from natural numbers. -/
abbrev Cells (α : Type) := List (Nat × α)

/-- The value at a key; `d` says what an unlisted key reads as. -/
def Cells.get {α : Type} (d : Nat → α) : Cells α → Nat → α
  | [], a => d a
  | (k, v) :: r, a => if a = k then v else if a < k then d a else Cells.get d r a

/-- The map with one key changed; the canonical form is kept. -/
def Cells.put {α : Type} [DecidableEq α] (d : Nat → α) : Cells α → Nat → α → Cells α
  | [], a, x => if x = d a then [] else [(a, x)]
  | (k, v) :: r, a, x =>
    if a < k then (if x = d a then (k, v) :: r else (a, x) :: (k, v) :: r)
    else if a = k then (if x = d a then r else (a, x) :: r)
    else (k, v) :: Cells.put d r a x

/-- Every key of the map is above `lo`, keys rise strictly, and no entry equals its default. -/
def Cells.wfFrom {α : Type} [DecidableEq α] (d : Nat → α) : Nat → Cells α → Bool
  | _, [] => true
  | lo, (k, v) :: r => decide (lo ≤ k) && decide (v ≠ d k) && Cells.wfFrom d (k + 1) r

/-- The canonical form. -/
def Cells.wf {α : Type} [DecidableEq α] (d : Nat → α) (m : Cells α) : Bool := Cells.wfFrom d 0 m

/-- The map without the entries whose key meets `p`. -/
def Cells.drop {α : Type} (p : Nat → Bool) (m : Cells α) : Cells α := m.filter (fun e => !p e.1)

/-- The entries of a map with a change applied to each listed value. -/
def Cells.mapVal {α : Type} [DecidableEq α] (d : Nat → α) (f : Nat → α → α) (m : Cells α) : Cells α :=
  m.foldl (fun acc e => Cells.put d acc e.1 (f e.1 e.2)) []

end Sys2Proof.Machine
end

