-- ==== Sys2Proof/Machine/CsrTable.lean ====
section
/-!
DEFINITION. The control and status registers: every register table of the spec as data (name, place, reset value,
fields with their access codes). Offsets are CSR offsets (R7, R48); access codes are those of R13.
-/
namespace Sys2Proof.Machine

/-- The access codes of R13. -/
inductive Access where
  | rw | ro | wo | w1c | w1s | rwl
  deriving DecidableEq, Repr

/-- A dimension of a register array: the six dies' DIE_CTL blocks (R7), or `n` copies `stride` bytes apart. -/
inductive Dim where
  | die
  | step (n stride : Nat)
  deriving DecidableEq, Repr

/-- The registers of the spec, one name per register table (arrays once). -/
inductive Reg where
  | CQ_TABLE
  | GAUGE_CFG
  | GAUGE
  | GAUGE_TILES
  | HQ_BASE
  | HQ_CFG
  | HQ_POST
  | HQ_DONE
  | TILE_CTL
  | TILE_PERR
  | CTX_CTL
  | CTX_PC
  | CTX_CAUSE
  | CTX_BADADDR
  | CTX_WIN
  | CTX_SLICE
  | CTX_STEP
  | STOOK_IRQ_PEND
  | STOOK_IRQ_MASK
  | STOOK_PERR
  | DMA_STATUS
  | DMA_ABORT
  | DMA_ABORT_RES
  | THR_CFG
  | THR_MAXPIX
  | THR_STATUS
  | THR_ABORT
  | THR_ABORT_RES
  | THR_FALLBACK
  | THR_REJECT
  | THR_BUSY
  | PERM_CTX_BASE
  | PERM_STATUS
  | PERM_ABORT
  | PERM_ABORT_RES
  | PERM_REPL
  | PERM_VOID
  | BALER_CTX_BASE
  | BALER_STATUS
  | BALER_ABORT
  | BALER_ABORT_RES
  | BALER_SLOTS
  | TOK_VOCAB
  | TOK_STATUS
  | TOK_ABORT
  | TOK_ABORT_RES
  | TOK_COUNT
  | FL_SUBMIT
  | FL_LAST
  | FL_STATUS
  | FL_ABORT
  | FL_ABORT_RES
  | FL_MAPCACHE
  | FL_AUX
  | FL_GC
  | FL_MAPMISS
  | FL_PARREC
  | FL_KEY_DATA
  | FL_KEY_CMD
  | FL_VOL_CFG
  | FL_VOL_STATE
  | FL_VOL_CAP
  | FL_VOL_CNT
  | MEM_IL
  | DRAM_ERR_CNT
  | DRAM_ERR_LAST
  | DRAM_MARK
  | DRAM_REFRESH
  | POOL_CFG
  | POOL_BASE
  | POOL_META
  | POOL_STAT
  | POOL_ABORT
  | POOL_ABORT_RES
  | STREAM_CFG
  | STREAM_STATUS
  | STREAM_ABORT
  | STREAM_ABORT_RES
  | STREAM_COUNT
  | PORT_CFG
  | PORT_MAC
  | PORT_STATUS
  | PORT_CNT_FEC
  | PORT_CNT_FRAME
  | FUR_CFG
  | FUR_TIMER
  | FUR_RATE
  | FUR_RATE_GAP
  | FUR_ADDR_BASE
  | FUR_SUBMIT
  | FUR_KEY_CMD
  | FUR_KEY_BASE
  | FUR_KEY_LEN
  | FUR_EVQ
  | FUR_EVQ_PTR
  | FUR_ABORT
  | FUR_ABORT_RES
  | FUR_STATUS
  | FUR_CNT
  | FUR_SQ_CFG
  | FUR_RQ_BASE
  | FUR_RQ_PTR
  | ROCE_QPC_BASE
  | ROCE_GROUP_BASE
  | ROCE_QP_CMD
  | ROCE_CNT
  | SCHED_CFG
  | SCHED_PORT_SHAPE
  | SCHED_Q_CFG
  | SCHED_Q_STAT
  | POL_MAP
  | POL_CFG
  | POL_DROP
  | HL_STATUS
  | HL_CNT
  | MBOX_BIND
  | MBOX_LOCK
  | MBOX_DB
  | MBOX_DB_MASK
  | MBOX_TX_ADDR
  | MBOX_TX_SEND
  | MBOX_RX_ADDR
  | MBOX_RX_LEN
  | MBOX_RX_POP
  | MBOX_CH_STAT
  | INTC_PEND
  | INTC_MASK
  | INTC_GCTL
  | INTC_ROUTE
  | INTC_CLAIM
  | INTC_COMPLETE
  | INTC_HADDR
  | INTC_HDATA
  | ROPE_CFG
  | ROPE_STATUS
  | ROPE_BYPASS
  | ROPE_TIMER
  | ROPE_TIMER2
  | ROPE_MARGIN
  | ROPE_MARGIN_THR
  | ROPE_ROUTE
  | ROPE_COUNT
  | ROPE_FW_STATUS
  | ROPE_FW_CMD
  | ROPE_FW_CHILD
  | ROPE_MEMBER
  | BRINGUP_STEP
  | BRINGUP_CFG
  | RESET_CTL
  | FLOOR
  | FP_GEN
  | LANE_RES
  | D2D_RES
  | PWR_REQ
  | PWR_STATUS
  | PWR_WAKE
  | PWR_REFUSE
  | ANCHOR_SERIAL
  | ANCHOR_LC
  | ANCHOR_BOOT
  | ANCHOR_FWREV
  | ANCHOR_IDKEY
  | ANCHOR_CMD
  | ANCHOR_ARG
  | ANCHOR_DATA
  | ANCHOR_RNG
  | ANCHOR_MEAS
  | DBG_LEVEL
  | DBG_UNLOCK
  | DBG_SEL
  | DBG_CTL
  | DBG_REG_SEL
  | DBG_BP_CTL
  | DBG_MEM_CMD
  | ERR_SUMMARY
  | ERR_IRQ_EN
  | ERR_VIOL
  | ERR_VIOL_FIRST
  | ERR_FAB
  | ERR_INJ
  | DBG_CHAL
  | DBG_TOKEN
  | DBG_REG_DATA
  | DBG_BP_ADDR
  | DBG_MEM_ADDR
  | DBG_MEM_DATA
  | P_COUNTER
  | X_COUNTER
  | ANCHOR_RCV
  deriving DecidableEq, Repr

/-- The registers in order, part 0. -/
def Reg.part0 : List Reg := [Reg.CQ_TABLE, Reg.GAUGE_CFG, Reg.GAUGE, Reg.GAUGE_TILES, Reg.HQ_BASE, Reg.HQ_CFG, Reg.HQ_POST, Reg.HQ_DONE, Reg.TILE_CTL, Reg.TILE_PERR, Reg.CTX_CTL, Reg.CTX_PC, Reg.CTX_CAUSE, Reg.CTX_BADADDR, Reg.CTX_WIN, Reg.CTX_SLICE]

/-- The registers in order, part 1. -/
def Reg.part1 : List Reg := [Reg.CTX_STEP, Reg.STOOK_IRQ_PEND, Reg.STOOK_IRQ_MASK, Reg.STOOK_PERR, Reg.DMA_STATUS, Reg.DMA_ABORT, Reg.DMA_ABORT_RES, Reg.THR_CFG, Reg.THR_MAXPIX, Reg.THR_STATUS, Reg.THR_ABORT, Reg.THR_ABORT_RES, Reg.THR_FALLBACK, Reg.THR_REJECT, Reg.THR_BUSY, Reg.PERM_CTX_BASE]

/-- The registers in order, part 2. -/
def Reg.part2 : List Reg := [Reg.PERM_STATUS, Reg.PERM_ABORT, Reg.PERM_ABORT_RES, Reg.PERM_REPL, Reg.PERM_VOID, Reg.BALER_CTX_BASE, Reg.BALER_STATUS, Reg.BALER_ABORT, Reg.BALER_ABORT_RES, Reg.BALER_SLOTS, Reg.TOK_VOCAB, Reg.TOK_STATUS, Reg.TOK_ABORT, Reg.TOK_ABORT_RES, Reg.TOK_COUNT, Reg.FL_SUBMIT]

/-- The registers in order, part 3. -/
def Reg.part3 : List Reg := [Reg.FL_LAST, Reg.FL_STATUS, Reg.FL_ABORT, Reg.FL_ABORT_RES, Reg.FL_MAPCACHE, Reg.FL_AUX, Reg.FL_GC, Reg.FL_MAPMISS, Reg.FL_PARREC, Reg.FL_KEY_DATA, Reg.FL_KEY_CMD, Reg.FL_VOL_CFG, Reg.FL_VOL_STATE, Reg.FL_VOL_CAP, Reg.FL_VOL_CNT, Reg.MEM_IL]

/-- The registers in order, part 4. -/
def Reg.part4 : List Reg := [Reg.DRAM_ERR_CNT, Reg.DRAM_ERR_LAST, Reg.DRAM_MARK, Reg.DRAM_REFRESH, Reg.POOL_CFG, Reg.POOL_BASE, Reg.POOL_META, Reg.POOL_STAT, Reg.POOL_ABORT, Reg.POOL_ABORT_RES, Reg.STREAM_CFG, Reg.STREAM_STATUS, Reg.STREAM_ABORT, Reg.STREAM_ABORT_RES, Reg.STREAM_COUNT, Reg.PORT_CFG]

/-- The registers in order, part 5. -/
def Reg.part5 : List Reg := [Reg.PORT_MAC, Reg.PORT_STATUS, Reg.PORT_CNT_FEC, Reg.PORT_CNT_FRAME, Reg.FUR_CFG, Reg.FUR_TIMER, Reg.FUR_RATE, Reg.FUR_RATE_GAP, Reg.FUR_ADDR_BASE, Reg.FUR_SUBMIT, Reg.FUR_KEY_CMD, Reg.FUR_KEY_BASE, Reg.FUR_KEY_LEN, Reg.FUR_EVQ, Reg.FUR_EVQ_PTR, Reg.FUR_ABORT]

/-- The registers in order, part 6. -/
def Reg.part6 : List Reg := [Reg.FUR_ABORT_RES, Reg.FUR_STATUS, Reg.FUR_CNT, Reg.FUR_SQ_CFG, Reg.FUR_RQ_BASE, Reg.FUR_RQ_PTR, Reg.ROCE_QPC_BASE, Reg.ROCE_GROUP_BASE, Reg.ROCE_QP_CMD, Reg.ROCE_CNT, Reg.SCHED_CFG, Reg.SCHED_PORT_SHAPE, Reg.SCHED_Q_CFG, Reg.SCHED_Q_STAT, Reg.POL_MAP, Reg.POL_CFG]

/-- The registers in order, part 7. -/
def Reg.part7 : List Reg := [Reg.POL_DROP, Reg.HL_STATUS, Reg.HL_CNT, Reg.MBOX_BIND, Reg.MBOX_LOCK, Reg.MBOX_DB, Reg.MBOX_DB_MASK, Reg.MBOX_TX_ADDR, Reg.MBOX_TX_SEND, Reg.MBOX_RX_ADDR, Reg.MBOX_RX_LEN, Reg.MBOX_RX_POP, Reg.MBOX_CH_STAT, Reg.INTC_PEND, Reg.INTC_MASK, Reg.INTC_GCTL]

/-- The registers in order, part 8. -/
def Reg.part8 : List Reg := [Reg.INTC_ROUTE, Reg.INTC_CLAIM, Reg.INTC_COMPLETE, Reg.INTC_HADDR, Reg.INTC_HDATA, Reg.ROPE_CFG, Reg.ROPE_STATUS, Reg.ROPE_BYPASS, Reg.ROPE_TIMER, Reg.ROPE_TIMER2, Reg.ROPE_MARGIN, Reg.ROPE_MARGIN_THR, Reg.ROPE_ROUTE, Reg.ROPE_COUNT, Reg.ROPE_FW_STATUS, Reg.ROPE_FW_CMD]

/-- The registers in order, part 9. -/
def Reg.part9 : List Reg := [Reg.ROPE_FW_CHILD, Reg.ROPE_MEMBER, Reg.BRINGUP_STEP, Reg.BRINGUP_CFG, Reg.RESET_CTL, Reg.FLOOR, Reg.FP_GEN, Reg.LANE_RES, Reg.D2D_RES, Reg.PWR_REQ, Reg.PWR_STATUS, Reg.PWR_WAKE, Reg.PWR_REFUSE, Reg.ANCHOR_SERIAL, Reg.ANCHOR_LC, Reg.ANCHOR_BOOT]

/-- The registers in order, part 10. -/
def Reg.part10 : List Reg := [Reg.ANCHOR_FWREV, Reg.ANCHOR_IDKEY, Reg.ANCHOR_CMD, Reg.ANCHOR_ARG, Reg.ANCHOR_DATA, Reg.ANCHOR_RNG, Reg.ANCHOR_MEAS, Reg.DBG_LEVEL, Reg.DBG_UNLOCK, Reg.DBG_SEL, Reg.DBG_CTL, Reg.DBG_REG_SEL, Reg.DBG_BP_CTL, Reg.DBG_MEM_CMD, Reg.ERR_SUMMARY, Reg.ERR_IRQ_EN]

/-- The registers in order, part 11. -/
def Reg.part11 : List Reg := [Reg.ERR_VIOL, Reg.ERR_VIOL_FIRST, Reg.ERR_FAB, Reg.ERR_INJ, Reg.DBG_CHAL, Reg.DBG_TOKEN, Reg.DBG_REG_DATA, Reg.DBG_BP_ADDR, Reg.DBG_MEM_ADDR, Reg.DBG_MEM_DATA, Reg.P_COUNTER, Reg.X_COUNTER, Reg.ANCHOR_RCV]

/-- The registers in order. -/
def Reg.all : List Reg :=
  Reg.part0 ++ Reg.part1 ++ Reg.part2 ++ Reg.part3 ++ Reg.part4 ++ Reg.part5 ++ Reg.part6 ++ Reg.part7 ++ Reg.part8 ++ Reg.part9 ++ Reg.part10 ++ Reg.part11

/-- The CSR offset of a register's first copy. -/
def Reg.base : Reg → Nat
  | .CQ_TABLE => 0x2000
  | .GAUGE_CFG => 0x1000
  | .GAUGE => 0x1008
  | .GAUGE_TILES => 0x1001050
  | .HQ_BASE => 0x8508000
  | .HQ_CFG => 0x8508008
  | .HQ_POST => 0x8508010
  | .HQ_DONE => 0x8508018
  | .TILE_CTL => 0x1100000
  | .TILE_PERR => 0x1100008
  | .CTX_CTL => 0x1100100
  | .CTX_PC => 0x1100108
  | .CTX_CAUSE => 0x1100110
  | .CTX_BADADDR => 0x1100118
  | .CTX_WIN => 0x1100120
  | .CTX_SLICE => 0x1100128
  | .CTX_STEP => 0x1100130
  | .STOOK_IRQ_PEND => 0x1108000
  | .STOOK_IRQ_MASK => 0x1108008
  | .STOOK_PERR => 0x1108010
  | .DMA_STATUS => 0x1109000
  | .DMA_ABORT => 0x1109008
  | .DMA_ABORT_RES => 0x1109010
  | .THR_CFG => 0x110c000
  | .THR_MAXPIX => 0x110c008
  | .THR_STATUS => 0x110c010
  | .THR_ABORT => 0x110c018
  | .THR_ABORT_RES => 0x110c020
  | .THR_FALLBACK => 0x110c028
  | .THR_REJECT => 0x110c030
  | .THR_BUSY => 0x110c038
  | .PERM_CTX_BASE => 0x1310000
  | .PERM_STATUS => 0x1310008
  | .PERM_ABORT => 0x1310010
  | .PERM_ABORT_RES => 0x1310018
  | .PERM_REPL => 0x1310020
  | .PERM_VOID => 0x1310028
  | .BALER_CTX_BASE => 0x1300000
  | .BALER_STATUS => 0x1300008
  | .BALER_ABORT => 0x1300010
  | .BALER_ABORT_RES => 0x1300018
  | .BALER_SLOTS => 0x1300020
  | .TOK_VOCAB => 0x1320000
  | .TOK_STATUS => 0x1320040
  | .TOK_ABORT => 0x1320048
  | .TOK_ABORT_RES => 0x1320050
  | .TOK_COUNT => 0x1320058
  | .FL_SUBMIT => 0x8400000
  | .FL_LAST => 0x8400008
  | .FL_STATUS => 0x8401000
  | .FL_ABORT => 0x8401008
  | .FL_ABORT_RES => 0x8401010
  | .FL_MAPCACHE => 0x8401018
  | .FL_AUX => 0x8401020
  | .FL_GC => 0x8401028
  | .FL_MAPMISS => 0x8401030
  | .FL_PARREC => 0x8401038
  | .FL_KEY_DATA => 0x8401040
  | .FL_KEY_CMD => 0x8401080
  | .FL_VOL_CFG => 0x8402000
  | .FL_VOL_STATE => 0x8402008
  | .FL_VOL_CAP => 0x8402010
  | .FL_VOL_CNT => 0x8402018
  | .MEM_IL => 0x2000
  | .DRAM_ERR_CNT => 0x1200000
  | .DRAM_ERR_LAST => 0x1200008
  | .DRAM_MARK => 0x1200010
  | .DRAM_REFRESH => 0x1200018
  | .POOL_CFG => 0x1340000
  | .POOL_BASE => 0x1340008
  | .POOL_META => 0x1340010
  | .POOL_STAT => 0x1340018
  | .POOL_ABORT => 0x1340800
  | .POOL_ABORT_RES => 0x1340808
  | .STREAM_CFG => 0x1330000
  | .STREAM_STATUS => 0x1330008
  | .STREAM_ABORT => 0x1330010
  | .STREAM_ABORT_RES => 0x1330018
  | .STREAM_COUNT => 0x1330020
  | .PORT_CFG => 0x8100000
  | .PORT_MAC => 0x8100008
  | .PORT_STATUS => 0x8100010
  | .PORT_CNT_FEC => 0x8100018
  | .PORT_CNT_FRAME => 0x8100020
  | .FUR_CFG => 0x8200000
  | .FUR_TIMER => 0x8200008
  | .FUR_RATE => 0x8200010
  | .FUR_RATE_GAP => 0x8200018
  | .FUR_ADDR_BASE => 0x8200020
  | .FUR_SUBMIT => 0x8200028
  | .FUR_KEY_CMD => 0x8200030
  | .FUR_KEY_BASE => 0x8200038
  | .FUR_KEY_LEN => 0x8200040
  | .FUR_EVQ => 0x8200048
  | .FUR_EVQ_PTR => 0x8200050
  | .FUR_ABORT => 0x8200058
  | .FUR_ABORT_RES => 0x8200060
  | .FUR_STATUS => 0x8200068
  | .FUR_CNT => 0x8200070
  | .FUR_SQ_CFG => 0x8200400
  | .FUR_RQ_BASE => 0x8200800
  | .FUR_RQ_PTR => 0x8200808
  | .ROCE_QPC_BASE => 0x8280000
  | .ROCE_GROUP_BASE => 0x8280008
  | .ROCE_QP_CMD => 0x8280010
  | .ROCE_CNT => 0x8280018
  | .SCHED_CFG => 0x8600000
  | .SCHED_PORT_SHAPE => 0x8600008
  | .SCHED_Q_CFG => 0x8600100
  | .SCHED_Q_STAT => 0x8600400
  | .POL_MAP => 0x8600800
  | .POL_CFG => 0x8600900
  | .POL_DROP => 0x8600940
  | .HL_STATUS => 0x8500000
  | .HL_CNT => 0x8500008
  | .MBOX_BIND => 0x30000
  | .MBOX_LOCK => 0x30200
  | .MBOX_DB => 0x30208
  | .MBOX_DB_MASK => 0x30210
  | .MBOX_TX_ADDR => 0x31000
  | .MBOX_TX_SEND => 0x31008
  | .MBOX_RX_ADDR => 0x31010
  | .MBOX_RX_LEN => 0x31018
  | .MBOX_RX_POP => 0x31020
  | .MBOX_CH_STAT => 0x31028
  | .INTC_PEND => 0x20000
  | .INTC_MASK => 0x20100
  | .INTC_GCTL => 0x20200
  | .INTC_ROUTE => 0x20400
  | .INTC_CLAIM => 0x20600
  | .INTC_COMPLETE => 0x20640
  | .INTC_HADDR => 0x20680
  | .INTC_HDATA => 0x20690
  | .ROPE_CFG => 0x70000
  | .ROPE_STATUS => 0x70008
  | .ROPE_BYPASS => 0x70010
  | .ROPE_TIMER => 0x70018
  | .ROPE_TIMER2 => 0x70020
  | .ROPE_MARGIN => 0x70028
  | .ROPE_MARGIN_THR => 0x70030
  | .ROPE_ROUTE => 0x70038
  | .ROPE_COUNT => 0x70040
  | .ROPE_FW_STATUS => 0x70048
  | .ROPE_FW_CMD => 0x70050
  | .ROPE_FW_CHILD => 0x70058
  | .ROPE_MEMBER => 0x70100
  | .BRINGUP_STEP => 0x100
  | .BRINGUP_CFG => 0x108
  | .RESET_CTL => 0x110
  | .FLOOR => 0x1000
  | .FP_GEN => 0x1200
  | .LANE_RES => 0x300
  | .D2D_RES => 0x320
  | .PWR_REQ => 0x10000
  | .PWR_STATUS => 0x10008
  | .PWR_WAKE => 0x10010
  | .PWR_REFUSE => 0x10018
  | .ANCHOR_SERIAL => 0x40000
  | .ANCHOR_LC => 0x40010
  | .ANCHOR_BOOT => 0x40018
  | .ANCHOR_FWREV => 0x40020
  | .ANCHOR_IDKEY => 0x40040
  | .ANCHOR_CMD => 0x40080
  | .ANCHOR_ARG => 0x40088
  | .ANCHOR_DATA => 0x400c0
  | .ANCHOR_RNG => 0x400e0
  | .ANCHOR_MEAS => 0x40100
  | .DBG_LEVEL => 0x50000
  | .DBG_UNLOCK => 0x50008
  | .DBG_SEL => 0x50040
  | .DBG_CTL => 0x50048
  | .DBG_REG_SEL => 0x50060
  | .DBG_BP_CTL => 0x50088
  | .DBG_MEM_CMD => 0x500d0
  | .ERR_SUMMARY => 0x60000
  | .ERR_IRQ_EN => 0x60008
  | .ERR_VIOL => 0x60010
  | .ERR_VIOL_FIRST => 0x60018
  | .ERR_FAB => 0x60020
  | .ERR_INJ => 0x60100
  | .DBG_CHAL => 0x50010
  | .DBG_TOKEN => 0x50030
  | .DBG_REG_DATA => 0x50068
  | .DBG_BP_ADDR => 0x50080
  | .DBG_MEM_ADDR => 0x500c0
  | .DBG_MEM_DATA => 0x500c8
  | .P_COUNTER => 0x1400000
  | .X_COUNTER => 0x8700000
  | .ANCHOR_RCV => 0x41000

/-- The dimensions of a register array, outermost first. -/
def Reg.dims : Reg → List Dim
  | .CQ_TABLE => [.die]
  | .GAUGE_CFG => [.die]
  | .GAUGE => [.die, .step 9 0x8]
  | .GAUGE_TILES => [.step 4 0x1000000]
  | .HQ_BASE => [.step 32 0x20]
  | .HQ_CFG => [.step 32 0x20]
  | .HQ_POST => [.step 32 0x20]
  | .HQ_DONE => [.step 32 0x20]
  | .TILE_CTL => [.step 4 0x1000000, .step 16 0x10000, .step 8 0x1000]
  | .TILE_PERR => [.step 4 0x1000000, .step 16 0x10000, .step 8 0x1000]
  | .CTX_CTL => [.step 4 0x1000000, .step 16 0x10000, .step 8 0x1000, .step 4 0x40]
  | .CTX_PC => [.step 4 0x1000000, .step 16 0x10000, .step 8 0x1000, .step 4 0x40]
  | .CTX_CAUSE => [.step 4 0x1000000, .step 16 0x10000, .step 8 0x1000, .step 4 0x40]
  | .CTX_BADADDR => [.step 4 0x1000000, .step 16 0x10000, .step 8 0x1000, .step 4 0x40]
  | .CTX_WIN => [.step 4 0x1000000, .step 16 0x10000, .step 8 0x1000, .step 4 0x40]
  | .CTX_SLICE => [.step 4 0x1000000, .step 16 0x10000, .step 8 0x1000, .step 4 0x40]
  | .CTX_STEP => [.step 4 0x1000000, .step 16 0x10000, .step 8 0x1000, .step 4 0x40]
  | .STOOK_IRQ_PEND => [.step 4 0x1000000, .step 16 0x10000]
  | .STOOK_IRQ_MASK => [.step 4 0x1000000, .step 16 0x10000]
  | .STOOK_PERR => [.step 4 0x1000000, .step 16 0x10000]
  | .DMA_STATUS => [.step 4 0x1000000, .step 16 0x10000]
  | .DMA_ABORT => [.step 4 0x1000000, .step 16 0x10000]
  | .DMA_ABORT_RES => [.step 4 0x1000000, .step 16 0x10000]
  | .THR_CFG => [.step 4 0x1000000, .step 16 0x10000]
  | .THR_MAXPIX => [.step 4 0x1000000, .step 16 0x10000]
  | .THR_STATUS => [.step 4 0x1000000, .step 16 0x10000]
  | .THR_ABORT => [.step 4 0x1000000, .step 16 0x10000]
  | .THR_ABORT_RES => [.step 4 0x1000000, .step 16 0x10000]
  | .THR_FALLBACK => [.step 4 0x1000000, .step 16 0x10000]
  | .THR_REJECT => [.step 4 0x1000000, .step 16 0x10000]
  | .THR_BUSY => [.step 4 0x1000000, .step 16 0x10000]
  | .PERM_CTX_BASE => [.step 4 0x1000000]
  | .PERM_STATUS => [.step 4 0x1000000]
  | .PERM_ABORT => [.step 4 0x1000000]
  | .PERM_ABORT_RES => [.step 4 0x1000000]
  | .PERM_REPL => [.step 4 0x1000000]
  | .PERM_VOID => [.step 4 0x1000000]
  | .BALER_CTX_BASE => [.step 4 0x1000000]
  | .BALER_STATUS => [.step 4 0x1000000]
  | .BALER_ABORT => [.step 4 0x1000000]
  | .BALER_ABORT_RES => [.step 4 0x1000000]
  | .BALER_SLOTS => [.step 4 0x1000000]
  | .TOK_VOCAB => [.step 4 0x1000000, .step 8 0x8]
  | .TOK_STATUS => [.step 4 0x1000000]
  | .TOK_ABORT => [.step 4 0x1000000]
  | .TOK_ABORT_RES => [.step 4 0x1000000]
  | .TOK_COUNT => [.step 4 0x1000000]
  | .FL_SUBMIT => [.step 2 0x1000000, .step 64 0x10]
  | .FL_LAST => [.step 2 0x1000000, .step 64 0x10]
  | .FL_STATUS => [.step 2 0x1000000]
  | .FL_ABORT => [.step 2 0x1000000]
  | .FL_ABORT_RES => [.step 2 0x1000000]
  | .FL_MAPCACHE => [.step 2 0x1000000]
  | .FL_AUX => [.step 2 0x1000000]
  | .FL_GC => [.step 2 0x1000000]
  | .FL_MAPMISS => [.step 2 0x1000000]
  | .FL_PARREC => [.step 2 0x1000000]
  | .FL_KEY_DATA => [.step 2 0x1000000, .step 8 0x8]
  | .FL_KEY_CMD => [.step 2 0x1000000]
  | .FL_VOL_CFG => [.step 2 0x1000000, .step 16 0x20]
  | .FL_VOL_STATE => [.step 2 0x1000000, .step 16 0x20]
  | .FL_VOL_CAP => [.step 2 0x1000000, .step 16 0x20]
  | .FL_VOL_CNT => [.step 2 0x1000000, .step 16 0x20]
  | .MEM_IL => []
  | .DRAM_ERR_CNT => [.step 4 0x1000000, .step 6 0x10000]
  | .DRAM_ERR_LAST => [.step 4 0x1000000, .step 6 0x10000]
  | .DRAM_MARK => [.step 4 0x1000000, .step 6 0x10000]
  | .DRAM_REFRESH => [.step 4 0x1000000, .step 6 0x10000]
  | .POOL_CFG => [.step 4 0x1000000, .step 64 0x20]
  | .POOL_BASE => [.step 4 0x1000000, .step 64 0x20]
  | .POOL_META => [.step 4 0x1000000, .step 64 0x20]
  | .POOL_STAT => [.step 4 0x1000000, .step 64 0x20]
  | .POOL_ABORT => [.step 4 0x1000000]
  | .POOL_ABORT_RES => [.step 4 0x1000000]
  | .STREAM_CFG => [.step 4 0x1000000, .step 4 0x4000]
  | .STREAM_STATUS => [.step 4 0x1000000, .step 4 0x4000]
  | .STREAM_ABORT => [.step 4 0x1000000, .step 4 0x4000]
  | .STREAM_ABORT_RES => [.step 4 0x1000000, .step 4 0x4000]
  | .STREAM_COUNT => [.step 4 0x1000000, .step 4 0x4000]
  | .PORT_CFG => [.step 2 0x1000000, .step 8 0x10000]
  | .PORT_MAC => [.step 2 0x1000000, .step 8 0x10000]
  | .PORT_STATUS => [.step 2 0x1000000, .step 8 0x10000]
  | .PORT_CNT_FEC => [.step 2 0x1000000, .step 8 0x10000]
  | .PORT_CNT_FRAME => [.step 2 0x1000000, .step 8 0x10000]
  | .FUR_CFG => [.step 2 0x1000000]
  | .FUR_TIMER => [.step 2 0x1000000]
  | .FUR_RATE => [.step 2 0x1000000]
  | .FUR_RATE_GAP => [.step 2 0x1000000]
  | .FUR_ADDR_BASE => [.step 2 0x1000000]
  | .FUR_SUBMIT => [.step 2 0x1000000]
  | .FUR_KEY_CMD => [.step 2 0x1000000]
  | .FUR_KEY_BASE => [.step 2 0x1000000]
  | .FUR_KEY_LEN => [.step 2 0x1000000]
  | .FUR_EVQ => [.step 2 0x1000000]
  | .FUR_EVQ_PTR => [.step 2 0x1000000]
  | .FUR_ABORT => [.step 2 0x1000000]
  | .FUR_ABORT_RES => [.step 2 0x1000000]
  | .FUR_STATUS => [.step 2 0x1000000]
  | .FUR_CNT => [.step 2 0x1000000]
  | .FUR_SQ_CFG => [.step 2 0x1000000, .step 64 0x8]
  | .FUR_RQ_BASE => [.step 2 0x1000000, .step 64 0x10]
  | .FUR_RQ_PTR => [.step 2 0x1000000, .step 64 0x10]
  | .ROCE_QPC_BASE => [.step 2 0x1000000]
  | .ROCE_GROUP_BASE => []
  | .ROCE_QP_CMD => [.step 2 0x1000000]
  | .ROCE_CNT => [.step 2 0x1000000]
  | .SCHED_CFG => [.step 2 0x1000000, .step 9 0x1000]
  | .SCHED_PORT_SHAPE => [.step 2 0x1000000, .step 9 0x1000]
  | .SCHED_Q_CFG => [.step 2 0x1000000, .step 9 0x1000, .step 64 0x8]
  | .SCHED_Q_STAT => [.step 2 0x1000000, .step 9 0x1000, .step 64 0x8]
  | .POL_MAP => [.step 2 0x1000000, .step 9 0x1000, .step 8 0x8]
  | .POL_CFG => [.step 2 0x1000000, .step 9 0x1000, .step 8 0x8]
  | .POL_DROP => [.step 2 0x1000000, .step 9 0x1000, .step 8 0x8]
  | .HL_STATUS => [.step 2 0x1000000]
  | .HL_CNT => [.step 2 0x1000000]
  | .MBOX_BIND => [.step 64 0x8]
  | .MBOX_LOCK => []
  | .MBOX_DB => []
  | .MBOX_DB_MASK => []
  | .MBOX_TX_ADDR => [.step 64 0x40]
  | .MBOX_TX_SEND => [.step 64 0x40]
  | .MBOX_RX_ADDR => [.step 64 0x40]
  | .MBOX_RX_LEN => [.step 64 0x40]
  | .MBOX_RX_POP => [.step 64 0x40]
  | .MBOX_CH_STAT => [.step 64 0x40]
  | .INTC_PEND => [.step 32 0x8]
  | .INTC_MASK => [.step 32 0x8]
  | .INTC_GCTL => [.step 32 0x8]
  | .INTC_ROUTE => [.step 64 0x8]
  | .INTC_CLAIM => [.step 6 0x8]
  | .INTC_COMPLETE => [.step 6 0x8]
  | .INTC_HADDR => [.step 2 0x8]
  | .INTC_HDATA => [.step 2 0x8]
  | .ROPE_CFG => []
  | .ROPE_STATUS => []
  | .ROPE_BYPASS => []
  | .ROPE_TIMER => []
  | .ROPE_TIMER2 => []
  | .ROPE_MARGIN => []
  | .ROPE_MARGIN_THR => []
  | .ROPE_ROUTE => []
  | .ROPE_COUNT => []
  | .ROPE_FW_STATUS => []
  | .ROPE_FW_CMD => []
  | .ROPE_FW_CHILD => []
  | .ROPE_MEMBER => [.step 32 0x8]
  | .BRINGUP_STEP => []
  | .BRINGUP_CFG => []
  | .RESET_CTL => []
  | .FLOOR => [.step 48 0x8]
  | .FP_GEN => []
  | .LANE_RES => [.step 4 0x8]
  | .D2D_RES => []
  | .PWR_REQ => []
  | .PWR_STATUS => []
  | .PWR_WAKE => []
  | .PWR_REFUSE => []
  | .ANCHOR_SERIAL => [.step 2 0x8]
  | .ANCHOR_LC => []
  | .ANCHOR_BOOT => []
  | .ANCHOR_FWREV => []
  | .ANCHOR_IDKEY => [.step 4 0x8]
  | .ANCHOR_CMD => []
  | .ANCHOR_ARG => []
  | .ANCHOR_DATA => [.step 4 0x8]
  | .ANCHOR_RNG => []
  | .ANCHOR_MEAS => [.step 8 0x20, .step 4 0x8]
  | .DBG_LEVEL => []
  | .DBG_UNLOCK => []
  | .DBG_SEL => []
  | .DBG_CTL => []
  | .DBG_REG_SEL => []
  | .DBG_BP_CTL => [.step 4 0x10]
  | .DBG_MEM_CMD => []
  | .ERR_SUMMARY => []
  | .ERR_IRQ_EN => []
  | .ERR_VIOL => []
  | .ERR_VIOL_FIRST => []
  | .ERR_FAB => []
  | .ERR_INJ => []
  | .DBG_CHAL => [.step 4 0x8]
  | .DBG_TOKEN => []
  | .DBG_REG_DATA => []
  | .DBG_BP_ADDR => [.step 4 0x10]
  | .DBG_MEM_ADDR => []
  | .DBG_MEM_DATA => []
  | .P_COUNTER => [.step 4 0x1000000, .step 4096 0x8]
  | .X_COUNTER => [.step 2 0x1000000, .step 1024 0x8]
  | .ANCHOR_RCV => [.step 512 0x8]

/-- The reset value the spec gives a register. Those taken from the fuses (ANCHOR_SERIAL, ANCHOR_LC and the level in DBG_LEVEL)
are here the ones of an unburnt array; the release of a full reset reads the fuses. -/
def Reg.reset (r : Reg) (i : Nat) : Word :=
  match r with
  | .PORT_CFG => if i % 8 = 7 then 0x4 else 0x8
  | .DBG_LEVEL => 0x3FF0002
  | .SCHED_Q_CFG => if i % 64 ≤ 59 then 0x1 else 0x0001000000644000
  | .GAUGE_CFG => 0x186a0
  | .TILE_CTL => 0xe4
  | .CTX_WIN => 0x7f00ff00
  | .STOOK_IRQ_MASK => 0xffffffff
  | .THR_CFG => 0x110e02000
  | .THR_MAXPIX => 0x21c0000
  | .FL_LAST => 0x3ff0000
  | .FL_MAPCACHE => 0x4
  | .FL_GC => 0x1008
  | .DRAM_MARK => 0x10000000
  | .STREAM_CFG => 0x4080040
  | .FUR_CFG => 0x4c504c000b892
  | .FUR_TIMER => 0x1e84870f424
  | .FUR_RATE => 0x400032000a03e8
  | .FUR_RATE_GAP => 0xf424000030d4
  | .SCHED_CFG => 0x3b14
  | .MBOX_BIND => 0x3ff03ff
  | .MBOX_DB_MASK => 0xffffffff
  | .INTC_MASK => 0xffffffff
  | .INTC_ROUTE => 0x7777777777777777
  | .ROPE_CFG => 0x6402033a000000
  | .ROPE_MARGIN_THR => 0x32000c00280064
  | .BRINGUP_CFG => 0xa00003c00051f
  | .PWR_WAKE => 0x3
  | .PWR_REFUSE => 0x3ff00000000
  | .ERR_IRQ_EN => 0xffff
  | _ => 0

/-- A field of a register: its lowest bit, its width and its access code. -/
structure FieldRow where
  lo : Nat
  width : Nat
  access : Access
  deriving DecidableEq, Repr

/-- The fields of a register; bits in no field are reserved (R14). -/
def Reg.fields : Reg → List FieldRow
  | .CQ_TABLE => [⟨6, 46, .rw⟩, ⟨63, 1, .rw⟩]
  | .GAUGE_CFG => [⟨0, 24, .rw⟩, ⟨32, 1, .wo⟩]
  | .GAUGE => [⟨0, 16, .ro⟩, ⟨16, 16, .ro⟩, ⟨32, 32, .ro⟩]
  | .GAUGE_TILES => [⟨0, 10, .ro⟩, ⟨16, 8, .ro⟩]
  | .HQ_BASE => [⟨6, 46, .rw⟩]
  | .HQ_CFG => [⟨0, 4, .rw⟩, ⟨4, 1, .rw⟩, ⟨5, 1, .rw⟩, ⟨16, 16, .rw⟩]
  | .HQ_POST => [⟨0, 32, .rw⟩]
  | .HQ_DONE => [⟨0, 32, .rw⟩]
  | .TILE_CTL => [⟨0, 8, .rw⟩, ⟨8, 1, .ro⟩]
  | .TILE_PERR => [⟨0, 20, .ro⟩, ⟨20, 3, .ro⟩, ⟨32, 32, .rw⟩]
  | .CTX_CTL => [⟨0, 3, .ro⟩, ⟨8, 1, .wo⟩, ⟨9, 1, .wo⟩, ⟨10, 1, .wo⟩, ⟨12, 1, .rw⟩, ⟨13, 1, .rw⟩, ⟨14, 1, .rw⟩, ⟨15, 1, .rw⟩, ⟨16, 6, .rw⟩]
  | .CTX_PC => [⟨2, 62, .rw⟩]
  | .CTX_CAUSE => [⟨0, 8, .ro⟩]
  | .CTX_BADADDR => [⟨0, 64, .ro⟩]
  | .CTX_WIN => [⟨0, 8, .rw⟩, ⟨8, 8, .rw⟩, ⟨16, 7, .rw⟩, ⟨24, 7, .rw⟩]
  | .CTX_SLICE => [⟨0, 32, .rw⟩, ⟨32, 4, .rw⟩, ⟨36, 3, .rw⟩, ⟨40, 16, .rw⟩]
  | .CTX_STEP => [⟨0, 1, .ro⟩, ⟨1, 1, .ro⟩, ⟨2, 62, .ro⟩]
  | .STOOK_IRQ_PEND => [⟨0, 32, .w1c⟩]
  | .STOOK_IRQ_MASK => [⟨0, 32, .rw⟩]
  | .STOOK_PERR => [⟨0, 23, .ro⟩, ⟨32, 10, .ro⟩, ⟨48, 16, .rw⟩]
  | .DMA_STATUS => [⟨0, 4, .ro⟩, ⟨8, 7, .ro⟩, ⟨32, 32, .ro⟩]
  | .DMA_ABORT => [⟨0, 16, .wo⟩, ⟨16, 6, .wo⟩]
  | .DMA_ABORT_RES => [⟨0, 8, .ro⟩, ⟨8, 8, .ro⟩]
  | .THR_CFG => [⟨0, 16, .rwl⟩, ⟨16, 16, .rwl⟩, ⟨32, 8, .rwl⟩, ⟨63, 1, .w1s⟩]
  | .THR_MAXPIX => [⟨0, 26, .rwl⟩]
  | .THR_STATUS => [⟨0, 2, .ro⟩, ⟨8, 6, .ro⟩, ⟨14, 1, .ro⟩, ⟨32, 32, .ro⟩]
  | .THR_ABORT => [⟨0, 16, .wo⟩, ⟨16, 6, .wo⟩]
  | .THR_ABORT_RES => [⟨0, 8, .ro⟩, ⟨8, 8, .ro⟩]
  | .THR_FALLBACK => [⟨0, 32, .rw⟩, ⟨32, 32, .rw⟩]
  | .THR_REJECT => [⟨0, 32, .rw⟩, ⟨32, 32, .rw⟩]
  | .THR_BUSY => [⟨0, 64, .ro⟩]
  | .PERM_CTX_BASE => [⟨6, 46, .rw⟩]
  | .PERM_STATUS => [⟨0, 3, .ro⟩, ⟨8, 5, .ro⟩, ⟨16, 7, .ro⟩, ⟨23, 1, .ro⟩, ⟨32, 32, .ro⟩]
  | .PERM_ABORT => [⟨0, 16, .wo⟩, ⟨16, 6, .wo⟩]
  | .PERM_ABORT_RES => [⟨0, 8, .ro⟩, ⟨8, 7, .ro⟩]
  | .PERM_REPL => [⟨0, 32, .rw⟩, ⟨32, 32, .rw⟩]
  | .PERM_VOID => [⟨0, 32, .rw⟩, ⟨32, 32, .rw⟩]
  | .BALER_CTX_BASE => [⟨6, 46, .rw⟩]
  | .BALER_STATUS => [⟨0, 4, .ro⟩, ⟨8, 6, .ro⟩, ⟨16, 7, .ro⟩, ⟨23, 1, .ro⟩, ⟨32, 32, .ro⟩]
  | .BALER_ABORT => [⟨0, 16, .wo⟩, ⟨16, 6, .wo⟩]
  | .BALER_ABORT_RES => [⟨0, 8, .ro⟩, ⟨8, 7, .ro⟩]
  | .BALER_SLOTS => [⟨0, 32, .rw⟩, ⟨32, 32, .rw⟩]
  | .TOK_VOCAB => [⟨0, 1, .ro⟩, ⟨8, 19, .ro⟩, ⟨32, 9, .ro⟩]
  | .TOK_STATUS => [⟨0, 3, .ro⟩, ⟨8, 7, .ro⟩, ⟨15, 1, .ro⟩, ⟨16, 9, .ro⟩, ⟨32, 32, .ro⟩]
  | .TOK_ABORT => [⟨0, 16, .wo⟩, ⟨16, 6, .wo⟩]
  | .TOK_ABORT_RES => [⟨0, 8, .ro⟩, ⟨8, 7, .ro⟩]
  | .TOK_COUNT => [⟨0, 32, .rw⟩, ⟨32, 32, .rw⟩]
  | .FL_SUBMIT => [⟨6, 46, .wo⟩]
  | .FL_LAST => [⟨0, 8, .ro⟩, ⟨16, 10, .ro⟩, ⟨32, 32, .ro⟩]
  | .FL_STATUS => [⟨0, 13, .ro⟩, ⟨16, 13, .ro⟩, ⟨32, 32, .ro⟩]
  | .FL_ABORT => [⟨0, 16, .wo⟩, ⟨16, 6, .wo⟩]
  | .FL_ABORT_RES => [⟨0, 8, .ro⟩, ⟨8, 13, .ro⟩]
  | .FL_MAPCACHE => [⟨0, 7, .rw⟩, ⟨30, 22, .rw⟩]
  | .FL_AUX => [⟨20, 32, .rw⟩]
  | .FL_GC => [⟨0, 8, .rw⟩, ⟨8, 8, .rw⟩]
  | .FL_MAPMISS => [⟨0, 64, .ro⟩]
  | .FL_PARREC => [⟨0, 32, .rw⟩, ⟨32, 32, .rw⟩]
  | .FL_KEY_DATA => [⟨0, 64, .wo⟩]
  | .FL_KEY_CMD => [⟨0, 4, .wo⟩, ⟨8, 1, .wo⟩, ⟨9, 1, .wo⟩, ⟨16, 1, .ro⟩]
  | .FL_VOL_CFG => [⟨0, 6, .rw⟩, ⟨8, 7, .rw⟩, ⟨16, 1, .rw⟩, ⟨32, 16, .rw⟩]
  | .FL_VOL_STATE => [⟨0, 3, .ro⟩, ⟨8, 8, .ro⟩, ⟨16, 16, .ro⟩, ⟨32, 16, .ro⟩, ⟨48, 16, .ro⟩]
  | .FL_VOL_CAP => [⟨0, 32, .rw⟩, ⟨32, 32, .ro⟩]
  | .FL_VOL_CNT => [⟨0, 32, .ro⟩, ⟨32, 32, .rw⟩]
  | .MEM_IL => [⟨0, 24, .ro⟩, ⟨24, 5, .ro⟩, ⟨32, 4, .ro⟩, ⟨36, 1, .rwl⟩, ⟨63, 1, .w1s⟩]
  | .DRAM_ERR_CNT => [⟨0, 32, .rw⟩, ⟨32, 32, .rw⟩]
  | .DRAM_ERR_LAST => [⟨0, 46, .ro⟩, ⟨46, 4, .ro⟩, ⟨50, 2, .ro⟩, ⟨52, 2, .ro⟩, ⟨54, 1, .ro⟩]
  | .DRAM_MARK => [⟨0, 20, .rw⟩, ⟨24, 8, .rw⟩]
  | .DRAM_REFRESH => [⟨0, 32, .ro⟩, ⟨32, 32, .ro⟩]
  | .POOL_CFG => [⟨0, 5, .rw⟩, ⟨8, 1, .rw⟩, ⟨9, 1, .ro⟩, ⟨16, 24, .rw⟩]
  | .POOL_BASE => [⟨6, 46, .rw⟩]
  | .POOL_META => [⟨6, 46, .rw⟩]
  | .POOL_STAT => [⟨0, 24, .ro⟩, ⟨24, 20, .rw⟩, ⟨44, 20, .rw⟩]
  | .POOL_ABORT => [⟨0, 16, .wo⟩, ⟨16, 6, .wo⟩]
  | .POOL_ABORT_RES => [⟨0, 8, .ro⟩, ⟨8, 7, .ro⟩]
  | .STREAM_CFG => [⟨0, 12, .rwl⟩, ⟨16, 16, .rwl⟩, ⟨63, 1, .w1s⟩]
  | .STREAM_STATUS => [⟨0, 1, .ro⟩, ⟨8, 6, .ro⟩, ⟨14, 1, .ro⟩, ⟨32, 32, .ro⟩]
  | .STREAM_ABORT => [⟨0, 16, .wo⟩, ⟨16, 6, .wo⟩]
  | .STREAM_ABORT_RES => [⟨0, 8, .ro⟩, ⟨8, 6, .ro⟩]
  | .STREAM_COUNT => [⟨0, 32, .rw⟩, ⟨32, 32, .rw⟩]
  | .PORT_CFG => [⟨0, 2, .rw⟩, ⟨2, 1, .rw⟩, ⟨3, 1, .rw⟩, ⟨8, 8, .rw⟩]
  | .PORT_MAC => [⟨0, 48, .rw⟩]
  | .PORT_STATUS => [⟨0, 8, .ro⟩, ⟨8, 1, .ro⟩, ⟨9, 3, .ro⟩]
  | .PORT_CNT_FEC => [⟨0, 32, .rw⟩, ⟨32, 32, .rw⟩]
  | .PORT_CNT_FRAME => [⟨0, 16, .rw⟩, ⟨16, 16, .rw⟩, ⟨32, 16, .rw⟩, ⟨48, 16, .rw⟩]
  | .FUR_CFG => [⟨0, 16, .rw⟩, ⟨16, 16, .rw⟩, ⟨32, 5, .rw⟩, ⟨40, 16, .rw⟩]
  | .FUR_TIMER => [⟨0, 20, .rw⟩, ⟨20, 4, .rw⟩, ⟨24, 20, .rw⟩, ⟨44, 8, .rw⟩]
  | .FUR_RATE => [⟨0, 16, .rw⟩, ⟨16, 16, .rw⟩, ⟨32, 16, .rw⟩, ⟨48, 8, .rw⟩]
  | .FUR_RATE_GAP => [⟨0, 32, .rw⟩, ⟨32, 32, .rw⟩]
  | .FUR_ADDR_BASE => [⟨12, 40, .rw⟩]
  | .FUR_SUBMIT => [⟨6, 46, .wo⟩, ⟨52, 8, .ro⟩]
  | .FUR_KEY_CMD => [⟨0, 12, .rw⟩, ⟨12, 2, .wo⟩, ⟨16, 3, .rw⟩, ⟨19, 1, .rw⟩, ⟨20, 16, .rw⟩, ⟨36, 2, .ro⟩, ⟨39, 1, .ro⟩, ⟨40, 20, .ro⟩]
  | .FUR_KEY_BASE => [⟨0, 52, .rw⟩]
  | .FUR_KEY_LEN => [⟨0, 41, .rw⟩]
  | .FUR_EVQ => [⟨0, 5, .rw⟩, ⟨5, 1, .rw⟩, ⟨11, 37, .rw⟩, ⟨48, 16, .rw⟩]
  | .FUR_EVQ_PTR => [⟨0, 32, .ro⟩, ⟨32, 32, .rw⟩]
  | .FUR_ABORT => [⟨0, 16, .wo⟩, ⟨16, 6, .wo⟩]
  | .FUR_ABORT_RES => [⟨0, 8, .ro⟩, ⟨8, 14, .ro⟩]
  | .FUR_STATUS => [⟨0, 13, .ro⟩, ⟨16, 13, .ro⟩, ⟨29, 1, .ro⟩, ⟨32, 32, .ro⟩]
  | .FUR_CNT => [⟨0, 16, .rw⟩, ⟨16, 16, .rw⟩, ⟨32, 16, .rw⟩, ⟨48, 16, .rw⟩]
  | .FUR_SQ_CFG => [⟨0, 6, .rw⟩, ⟨6, 1, .rw⟩, ⟨8, 6, .rw⟩, ⟨16, 7, .ro⟩]
  | .FUR_RQ_BASE => [⟨0, 4, .rw⟩, ⟨4, 4, .rw⟩, ⟨8, 1, .rw⟩, ⟨12, 36, .rw⟩, ⟨48, 16, .rw⟩]
  | .FUR_RQ_PTR => [⟨0, 32, .ro⟩, ⟨32, 32, .rw⟩]
  | .ROCE_QPC_BASE => [⟨12, 40, .rw⟩]
  | .ROCE_GROUP_BASE => [⟨12, 40, .rw⟩]
  | .ROCE_QP_CMD => [⟨0, 11, .rw⟩, ⟨12, 2, .wo⟩, ⟨16, 2, .ro⟩, ⟨18, 1, .ro⟩, ⟨24, 8, .ro⟩]
  | .ROCE_CNT => [⟨0, 16, .rw⟩, ⟨16, 16, .rw⟩, ⟨32, 16, .rw⟩, ⟨48, 16, .rw⟩]
  | .SCHED_CFG => [⟨0, 8, .rw⟩, ⟨8, 6, .rw⟩]
  | .SCHED_PORT_SHAPE => [⟨0, 16, .rw⟩, ⟨16, 24, .rw⟩]
  | .SCHED_Q_CFG => [⟨0, 16, .rw⟩, ⟨16, 16, .rw⟩, ⟨32, 24, .rw⟩]
  | .SCHED_Q_STAT => [⟨0, 9, .ro⟩, ⟨32, 32, .rw⟩]
  | .POL_MAP => [⟨0, 3, .rw⟩, ⟨4, 3, .rw⟩, ⟨8, 3, .rw⟩, ⟨12, 3, .rw⟩, ⟨16, 3, .rw⟩, ⟨20, 3, .rw⟩, ⟨24, 3, .rw⟩, ⟨28, 3, .rw⟩]
  | .POL_CFG => [⟨0, 16, .rw⟩, ⟨16, 24, .rw⟩]
  | .POL_DROP => [⟨0, 32, .rw⟩]
  | .HL_STATUS => [⟨0, 2, .ro⟩, ⟨2, 1, .ro⟩, ⟨3, 1, .ro⟩]
  | .HL_CNT => [⟨0, 16, .rw⟩, ⟨16, 16, .rw⟩, ⟨32, 32, .rw⟩]
  | .MBOX_BIND => [⟨0, 10, .rwl⟩, ⟨16, 10, .rwl⟩, ⟨32, 5, .rwl⟩, ⟨40, 5, .rwl⟩, ⟨48, 1, .rwl⟩]
  | .MBOX_LOCK => [⟨0, 1, .w1s⟩]
  | .MBOX_DB => [⟨0, 32, .w1c⟩]
  | .MBOX_DB_MASK => [⟨0, 32, .rw⟩]
  | .MBOX_TX_ADDR => [⟨0, 52, .rw⟩]
  | .MBOX_TX_SEND => [⟨0, 32, .wo⟩]
  | .MBOX_RX_ADDR => [⟨0, 52, .ro⟩]
  | .MBOX_RX_LEN => [⟨0, 32, .ro⟩]
  | .MBOX_RX_POP => [⟨0, 32, .wo⟩]
  | .MBOX_CH_STAT => [⟨0, 1, .ro⟩, ⟨1, 1, .w1c⟩, ⟨32, 32, .ro⟩]
  | .INTC_PEND => [⟨0, 32, .rw⟩]
  | .INTC_MASK => [⟨0, 32, .rw⟩]
  | .INTC_GCTL => [⟨0, 20, .rw⟩, ⟨31, 1, .rw⟩, ⟨32, 20, .ro⟩]
  | .INTC_ROUTE => [⟨0, 3, .rw⟩, ⟨4, 3, .rw⟩, ⟨8, 3, .rw⟩, ⟨12, 3, .rw⟩, ⟨16, 3, .rw⟩, ⟨20, 3, .rw⟩, ⟨24, 3, .rw⟩, ⟨28, 3, .rw⟩,
    ⟨32, 3, .rw⟩, ⟨36, 3, .rw⟩, ⟨40, 3, .rw⟩, ⟨44, 3, .rw⟩, ⟨48, 3, .rw⟩, ⟨52, 3, .rw⟩, ⟨56, 3, .rw⟩, ⟨60, 3, .rw⟩]
  | .INTC_CLAIM => [⟨0, 10, .ro⟩, ⟨10, 1, .ro⟩]
  | .INTC_COMPLETE => [⟨0, 10, .wo⟩]
  | .INTC_HADDR => [⟨3, 49, .rw⟩, ⟨63, 1, .ro⟩]
  | .INTC_HDATA => [⟨0, 32, .rw⟩]
  | .ROPE_CFG => [⟨0, 11, .rw⟩, ⟨16, 6, .rw⟩, ⟨24, 6, .rw⟩, ⟨32, 4, .rw⟩, ⟨36, 4, .rw⟩, ⟨40, 4, .rw⟩, ⟨48, 16, .rw⟩]
  | .ROPE_STATUS => [⟨0, 1, .ro⟩, ⟨1, 1, .ro⟩, ⟨2, 1, .ro⟩, ⟨3, 1, .w1c⟩, ⟨4, 4, .ro⟩, ⟨8, 5, .ro⟩, ⟨16, 6, .ro⟩, ⟨32, 16, .ro⟩, ⟨48, 1, .ro⟩]
  | .ROPE_BYPASS => [⟨0, 2, .ro⟩, ⟨2, 1, .rw⟩, ⟨3, 1, .ro⟩, ⟨32, 32, .ro⟩]
  | .ROPE_TIMER => [⟨0, 24, .rw⟩, ⟨24, 4, .rw⟩, ⟨32, 16, .rw⟩, ⟨48, 16, .rw⟩]
  | .ROPE_TIMER2 => [⟨0, 32, .rw⟩, ⟨32, 32, .rw⟩]
  | .ROPE_MARGIN => [⟨6, 46, .rw⟩]
  | .ROPE_MARGIN_THR => [⟨0, 16, .rw⟩, ⟨16, 16, .rw⟩, ⟨32, 16, .rw⟩, ⟨48, 16, .rw⟩]
  | .ROPE_ROUTE => [⟨0, 32, .ro⟩]
  | .ROPE_COUNT => [⟨0, 16, .rw⟩, ⟨16, 16, .rw⟩, ⟨32, 16, .rw⟩]
  | .ROPE_FW_STATUS => [⟨0, 3, .ro⟩, ⟨16, 16, .ro⟩, ⟨32, 32, .ro⟩]
  | .ROPE_FW_CMD => [⟨0, 1, .wo⟩, ⟨1, 1, .wo⟩]
  | .ROPE_FW_CHILD => [⟨0, 64, .rw⟩]
  | .ROPE_MEMBER => [⟨0, 3, .ro⟩, ⟨3, 3, .ro⟩, ⟨16, 16, .ro⟩, ⟨32, 32, .ro⟩]
  | .BRINGUP_STEP => [⟨0, 4, .wo⟩, ⟨4, 1, .ro⟩, ⟨8, 4, .ro⟩, ⟨12, 4, .ro⟩, ⟨16, 8, .ro⟩, ⟨32, 32, .ro⟩]
  | .BRINGUP_CFG => [⟨0, 5, .rw⟩, ⟨8, 8, .rw⟩, ⟨16, 1, .rw⟩, ⟨24, 8, .rw⟩, ⟨32, 16, .rw⟩, ⟨48, 8, .rw⟩]
  | .RESET_CTL => [⟨0, 1, .wo⟩, ⟨1, 1, .wo⟩, ⟨4, 2, .ro⟩, ⟨32, 32, .ro⟩]
  | .FLOOR => [⟨0, 64, .w1s⟩]
  | .FP_GEN => [⟨0, 32, .ro⟩]
  | .LANE_RES => [⟨0, 64, .ro⟩]
  | .D2D_RES => [⟨0, 16, .ro⟩, ⟨32, 32, .ro⟩]
  | .PWR_REQ => [⟨0, 3, .wo⟩]
  | .PWR_STATUS => [⟨0, 3, .ro⟩, ⟨3, 1, .ro⟩, ⟨4, 2, .ro⟩, ⟨8, 4, .ro⟩, ⟨16, 4, .ro⟩, ⟨32, 1, .ro⟩]
  | .PWR_WAKE => [⟨0, 1, .rw⟩, ⟨1, 1, .rw⟩, ⟨16, 16, .rw⟩]
  | .PWR_REFUSE => [⟨0, 16, .rw⟩, ⟨16, 16, .rw⟩, ⟨32, 10, .ro⟩, ⟨44, 3, .ro⟩, ⟨47, 1, .ro⟩, ⟨48, 4, .ro⟩]
  | .ANCHOR_SERIAL => [⟨0, 64, .ro⟩]
  | .ANCHOR_LC => [⟨0, 3, .ro⟩, ⟨4, 3, .ro⟩, ⟨16, 12, .ro⟩]
  | .ANCHOR_BOOT => [⟨0, 2, .ro⟩, ⟨2, 2, .ro⟩, ⟨8, 7, .ro⟩, ⟨16, 7, .ro⟩, ⟨32, 32, .ro⟩]
  | .ANCHOR_FWREV => [⟨0, 32, .ro⟩]
  | .ANCHOR_IDKEY => [⟨0, 64, .ro⟩]
  | .ANCHOR_CMD => [⟨0, 4, .wo⟩, ⟨8, 4, .rw⟩, ⟨16, 1, .ro⟩, ⟨24, 8, .ro⟩]
  | .ANCHOR_ARG => [⟨0, 52, .rw⟩]
  | .ANCHOR_DATA => [⟨0, 64, .rw⟩]
  | .ANCHOR_RNG => [⟨0, 64, .ro⟩]
  | .ANCHOR_MEAS => [⟨0, 64, .ro⟩]
  | .DBG_LEVEL => [⟨0, 2, .ro⟩, ⟨16, 10, .ro⟩, ⟨32, 4, .ro⟩, ⟨36, 1, .ro⟩, ⟨48, 16, .ro⟩]
  | .DBG_UNLOCK => [⟨0, 1, .wo⟩, ⟨1, 1, .wo⟩, ⟨2, 1, .wo⟩, ⟨4, 2, .rw⟩, ⟨8, 8, .ro⟩]
  | .DBG_SEL => [⟨0, 11, .rw⟩, ⟨12, 1, .rw⟩]
  | .DBG_CTL => [⟨0, 1, .wo⟩, ⟨1, 1, .wo⟩, ⟨2, 1, .wo⟩, ⟨8, 1, .ro⟩, ⟨32, 12, .ro⟩]
  | .DBG_REG_SEL => [⟨0, 3, .rw⟩, ⟨4, 12, .rw⟩, ⟨16, 5, .rw⟩]
  | .DBG_BP_CTL => [⟨0, 1, .rw⟩, ⟨1, 2, .rw⟩, ⟨4, 4, .rw⟩, ⟨8, 6, .rw⟩]
  | .DBG_MEM_CMD => [⟨0, 2, .wo⟩, ⟨2, 1, .rw⟩, ⟨3, 1, .rw⟩, ⟨8, 1, .ro⟩, ⟨16, 8, .ro⟩]
  | .ERR_SUMMARY => [⟨0, 16, .w1c⟩]
  | .ERR_IRQ_EN => [⟨0, 16, .rw⟩]
  | .ERR_VIOL => [⟨0, 8, .w1c⟩, ⟨32, 32, .rw⟩]
  | .ERR_VIOL_FIRST => [⟨0, 50, .ro⟩, ⟨50, 10, .ro⟩, ⟨60, 3, .ro⟩, ⟨63, 1, .ro⟩]
  | .ERR_FAB => [⟨0, 32, .rw⟩, ⟨32, 32, .rw⟩]
  | .ERR_INJ => [⟨0, 4, .rw⟩, ⟨4, 4, .rw⟩, ⟨8, 10, .rw⟩, ⟨18, 2, .rw⟩, ⟨32, 1, .wo⟩, ⟨33, 1, .ro⟩, ⟨48, 16, .ro⟩]
  | .DBG_CHAL => [⟨0, 64, .ro⟩]
  | .DBG_TOKEN => [⟨0, 64, .wo⟩]
  | .DBG_REG_DATA => [⟨0, 64, .rw⟩]
  | .DBG_BP_ADDR => [⟨0, 64, .rw⟩]
  | .DBG_MEM_ADDR => [⟨0, 52, .rw⟩]
  | .DBG_MEM_DATA => [⟨0, 64, .rw⟩]
  | .P_COUNTER => [⟨0, 64, .rw⟩]
  | .X_COUNTER => [⟨0, 64, .rw⟩]
  | .ANCHOR_RCV => [⟨0, 64, .wo⟩]

/-- A named field of a register. -/
structure Fld where
  reg : Reg
  lo : Nat
  width : Nat
  deriving DecidableEq, Repr

/-! CQ_TABLE (01_sample_path.md). -/
/-- `CQ_TABLE.BASE`. -/
abbrev Fld.CQ_TABLE_BASE : Fld := ⟨.CQ_TABLE, 6, 46⟩
/-- `CQ_TABLE.ENABLE`. -/
abbrev Fld.CQ_TABLE_ENABLE : Fld := ⟨.CQ_TABLE, 63, 1⟩
/-! GAUGE_CFG (01_sample_path.md). -/
/-- `GAUGE_CFG.PERIOD`. -/
abbrev Fld.GAUGE_CFG_PERIOD : Fld := ⟨.GAUGE_CFG, 0, 24⟩
/-- `GAUGE_CFG.CLEAR`. -/
abbrev Fld.GAUGE_CFG_CLEAR : Fld := ⟨.GAUGE_CFG, 32, 1⟩
/-! GAUGE (01_sample_path.md). -/
/-- `GAUGE.CUR`. -/
abbrev Fld.GAUGE_CUR : Fld := ⟨.GAUGE, 0, 16⟩
/-- `GAUGE.AVG`. -/
abbrev Fld.GAUGE_AVG : Fld := ⟨.GAUGE, 16, 16⟩
/-- `GAUGE.SAT`. -/
abbrev Fld.GAUGE_SAT : Fld := ⟨.GAUGE, 32, 32⟩
/-! GAUGE_TILES (01_sample_path.md). -/
/-- `GAUGE_TILES.BUSY_CTX`. -/
abbrev Fld.GAUGE_TILES_BUSY_CTX : Fld := ⟨.GAUGE_TILES, 0, 10⟩
/-- `GAUGE_TILES.BUSY_TILES`. -/
abbrev Fld.GAUGE_TILES_BUSY_TILES : Fld := ⟨.GAUGE_TILES, 16, 8⟩
/-! HQ_BASE (01_sample_path.md). -/
/-- `HQ_BASE.BASE`. -/
abbrev Fld.HQ_BASE_BASE : Fld := ⟨.HQ_BASE, 6, 46⟩
/-! HQ_CFG (01_sample_path.md). -/
/-- `HQ_CFG.LOG2_ENTRIES`. -/
abbrev Fld.HQ_CFG_LOG2_ENTRIES : Fld := ⟨.HQ_CFG, 0, 4⟩
/-- `HQ_CFG.ENABLE`. -/
abbrev Fld.HQ_CFG_ENABLE : Fld := ⟨.HQ_CFG, 4, 1⟩
/-- `HQ_CFG.IRQ_EN`. -/
abbrev Fld.HQ_CFG_IRQ_EN : Fld := ⟨.HQ_CFG, 5, 1⟩
/-- `HQ_CFG.COUNTER`. -/
abbrev Fld.HQ_CFG_COUNTER : Fld := ⟨.HQ_CFG, 16, 16⟩
/-! HQ_POST (01_sample_path.md). -/
/-- `HQ_POST.POST`. -/
abbrev Fld.HQ_POST_POST : Fld := ⟨.HQ_POST, 0, 32⟩
/-! HQ_DONE (01_sample_path.md). -/
/-- `HQ_DONE.DONE`. -/
abbrev Fld.HQ_DONE_DONE : Fld := ⟨.HQ_DONE, 0, 32⟩
/-! TILE_CTL (03_tiles.md). -/
/-- `TILE_CTL.ACC_OWN`. -/
abbrev Fld.TILE_CTL_ACC_OWN : Fld := ⟨.TILE_CTL, 0, 8⟩
/-- `TILE_CTL.FAILED`. -/
abbrev Fld.TILE_CTL_FAILED : Fld := ⟨.TILE_CTL, 8, 1⟩
/-! TILE_PERR (03_tiles.md). -/
/-- `TILE_PERR.ADDR`. -/
abbrev Fld.TILE_PERR_ADDR : Fld := ⟨.TILE_PERR, 0, 20⟩
/-- `TILE_PERR.SOURCE`. -/
abbrev Fld.TILE_PERR_SOURCE : Fld := ⟨.TILE_PERR, 20, 3⟩
/-- `TILE_PERR.COUNT`. -/
abbrev Fld.TILE_PERR_COUNT : Fld := ⟨.TILE_PERR, 32, 32⟩
/-! CTX_CTL (03_tiles.md). -/
/-- `CTX_CTL.STATE`. -/
abbrev Fld.CTX_CTL_STATE : Fld := ⟨.CTX_CTL, 0, 3⟩
/-- `CTX_CTL.START`. -/
abbrev Fld.CTX_CTL_START : Fld := ⟨.CTX_CTL, 8, 1⟩
/-- `CTX_CTL.STOP`. -/
abbrev Fld.CTX_CTL_STOP : Fld := ⟨.CTX_CTL, 9, 1⟩
/-- `CTX_CTL.RESUME`. -/
abbrev Fld.CTX_CTL_RESUME : Fld := ⟨.CTX_CTL, 10, 1⟩
/-- `CTX_CTL.GLOBAL_EN`. -/
abbrev Fld.CTX_CTL_GLOBAL_EN : Fld := ⟨.CTX_CTL, 12, 1⟩
/-- `CTX_CTL.GCSR_EN`. -/
abbrev Fld.CTX_CTL_GCSR_EN : Fld := ⟨.CTX_CTL, 13, 1⟩
/-- `CTX_CTL.HALT_IRQ`. -/
abbrev Fld.CTX_CTL_HALT_IRQ : Fld := ⟨.CTX_CTL, 14, 1⟩
/-- `CTX_CTL.WAIT_SWITCH`. -/
abbrev Fld.CTX_CTL_WAIT_SWITCH : Fld := ⟨.CTX_CTL, 15, 1⟩
/-- `CTX_CTL.JOB`. -/
abbrev Fld.CTX_CTL_JOB : Fld := ⟨.CTX_CTL, 16, 6⟩
/-! CTX_PC (03_tiles.md). -/
/-- `CTX_PC.PC`. -/
abbrev Fld.CTX_PC_PC : Fld := ⟨.CTX_PC, 2, 62⟩
/-! CTX_CAUSE (03_tiles.md). -/
/-- `CTX_CAUSE.CAUSE`. -/
abbrev Fld.CTX_CAUSE_CAUSE : Fld := ⟨.CTX_CAUSE, 0, 8⟩
/-! CTX_BADADDR (03_tiles.md). -/
/-- `CTX_BADADDR.ADDR`. -/
abbrev Fld.CTX_BADADDR_ADDR : Fld := ⟨.CTX_BADADDR, 0, 64⟩
/-! CTX_WIN (03_tiles.md). -/
/-- `CTX_WIN.TILE_LO`. -/
abbrev Fld.CTX_WIN_TILE_LO : Fld := ⟨.CTX_WIN, 0, 8⟩
/-- `CTX_WIN.TILE_HI`. -/
abbrev Fld.CTX_WIN_TILE_HI : Fld := ⟨.CTX_WIN, 8, 8⟩
/-- `CTX_WIN.STOOK_LO`. -/
abbrev Fld.CTX_WIN_STOOK_LO : Fld := ⟨.CTX_WIN, 16, 7⟩
/-- `CTX_WIN.STOOK_HI`. -/
abbrev Fld.CTX_WIN_STOOK_HI : Fld := ⟨.CTX_WIN, 24, 7⟩
/-! CTX_SLICE (03_tiles.md). -/
/-- `CTX_SLICE.QUANTUM`. -/
abbrev Fld.CTX_SLICE_QUANTUM : Fld := ⟨.CTX_SLICE, 0, 32⟩
/-- `CTX_SLICE.LIST_LEN`. -/
abbrev Fld.CTX_SLICE_LIST_LEN : Fld := ⟨.CTX_SLICE, 32, 4⟩
/-- `CTX_SLICE.CUR`. -/
abbrev Fld.CTX_SLICE_CUR : Fld := ⟨.CTX_SLICE, 36, 3⟩
/-- `CTX_SLICE.SAVE_BASE`. -/
abbrev Fld.CTX_SLICE_SAVE_BASE : Fld := ⟨.CTX_SLICE, 40, 16⟩
/-! CTX_STEP (03_tiles.md). -/
/-- `CTX_STEP.ATTEMPT`. -/
abbrev Fld.CTX_STEP_ATTEMPT : Fld := ⟨.CTX_STEP, 0, 1⟩
/-- `CTX_STEP.MARKED`. -/
abbrev Fld.CTX_STEP_MARKED : Fld := ⟨.CTX_STEP, 1, 1⟩
/-- `CTX_STEP.MARK_PC`. -/
abbrev Fld.CTX_STEP_MARK_PC : Fld := ⟨.CTX_STEP, 2, 62⟩
/-! STOOK_IRQ_PEND (03_tiles.md). -/
/-- `STOOK_IRQ_PEND.PEND`. -/
abbrev Fld.STOOK_IRQ_PEND_PEND : Fld := ⟨.STOOK_IRQ_PEND, 0, 32⟩
/-! STOOK_IRQ_MASK (03_tiles.md). -/
/-- `STOOK_IRQ_MASK.MASK`. -/
abbrev Fld.STOOK_IRQ_MASK_MASK : Fld := ⟨.STOOK_IRQ_MASK, 0, 32⟩
/-! STOOK_PERR (03_tiles.md). -/
/-- `STOOK_PERR.ADDR`. -/
abbrev Fld.STOOK_PERR_ADDR : Fld := ⟨.STOOK_PERR, 0, 23⟩
/-- `STOOK_PERR.MASTER`. -/
abbrev Fld.STOOK_PERR_MASTER : Fld := ⟨.STOOK_PERR, 32, 10⟩
/-- `STOOK_PERR.COUNT`. -/
abbrev Fld.STOOK_PERR_COUNT : Fld := ⟨.STOOK_PERR, 48, 16⟩
/-! DMA_STATUS (03_tiles.md). -/
/-- `DMA_STATUS.IN_FLIGHT`. -/
abbrev Fld.DMA_STATUS_IN_FLIGHT : Fld := ⟨.DMA_STATUS, 0, 4⟩
/-- `DMA_STATUS.QUEUED`. -/
abbrev Fld.DMA_STATUS_QUEUED : Fld := ⟨.DMA_STATUS, 8, 7⟩
/-- `DMA_STATUS.DONE`. -/
abbrev Fld.DMA_STATUS_DONE : Fld := ⟨.DMA_STATUS, 32, 32⟩
/-! DMA_ABORT (03_tiles.md). -/
/-- `DMA_ABORT.TAG`. -/
abbrev Fld.DMA_ABORT_TAG : Fld := ⟨.DMA_ABORT, 0, 16⟩
/-- `DMA_ABORT.JOB`. -/
abbrev Fld.DMA_ABORT_JOB : Fld := ⟨.DMA_ABORT, 16, 6⟩
/-! DMA_ABORT_RES (03_tiles.md). -/
/-- `DMA_ABORT_RES.STATUS`. -/
abbrev Fld.DMA_ABORT_RES_STATUS : Fld := ⟨.DMA_ABORT_RES, 0, 8⟩
/-- `DMA_ABORT_RES.COUNT`. -/
abbrev Fld.DMA_ABORT_RES_COUNT : Fld := ⟨.DMA_ABORT_RES, 8, 8⟩
/-! THR_CFG (06_threshers.md). -/
/-- `THR_CFG.MAX_WIDTH`. -/
abbrev Fld.THR_CFG_MAX_WIDTH : Fld := ⟨.THR_CFG, 0, 16⟩
/-- `THR_CFG.MAX_HEIGHT`. -/
abbrev Fld.THR_CFG_MAX_HEIGHT : Fld := ⟨.THR_CFG, 16, 16⟩
/-- `THR_CFG.MIN_CTU_BITS`. -/
abbrev Fld.THR_CFG_MIN_CTU_BITS : Fld := ⟨.THR_CFG, 32, 8⟩
/-- `THR_CFG.LOCK`. -/
abbrev Fld.THR_CFG_LOCK : Fld := ⟨.THR_CFG, 63, 1⟩
/-! THR_MAXPIX (06_threshers.md). -/
/-- `THR_MAXPIX.MAX_PIXELS`. -/
abbrev Fld.THR_MAXPIX_MAX_PIXELS : Fld := ⟨.THR_MAXPIX, 0, 26⟩
/-! THR_STATUS (06_threshers.md). -/
/-- `THR_STATUS.IN_FLIGHT`. -/
abbrev Fld.THR_STATUS_IN_FLIGHT : Fld := ⟨.THR_STATUS, 0, 2⟩
/-- `THR_STATUS.QUEUED`. -/
abbrev Fld.THR_STATUS_QUEUED : Fld := ⟨.THR_STATUS, 8, 6⟩
/-- `THR_STATUS.FAILED`. -/
abbrev Fld.THR_STATUS_FAILED : Fld := ⟨.THR_STATUS, 14, 1⟩
/-- `THR_STATUS.DONE`. -/
abbrev Fld.THR_STATUS_DONE : Fld := ⟨.THR_STATUS, 32, 32⟩
/-! THR_ABORT (06_threshers.md). -/
/-- `THR_ABORT.TAG`. -/
abbrev Fld.THR_ABORT_TAG : Fld := ⟨.THR_ABORT, 0, 16⟩
/-- `THR_ABORT.JOB`. -/
abbrev Fld.THR_ABORT_JOB : Fld := ⟨.THR_ABORT, 16, 6⟩
/-! THR_ABORT_RES (06_threshers.md). -/
/-- `THR_ABORT_RES.STATUS`. -/
abbrev Fld.THR_ABORT_RES_STATUS : Fld := ⟨.THR_ABORT_RES, 0, 8⟩
/-- `THR_ABORT_RES.COUNT`. -/
abbrev Fld.THR_ABORT_RES_COUNT : Fld := ⟨.THR_ABORT_RES, 8, 8⟩
/-! THR_FALLBACK (06_threshers.md). -/
/-- `THR_FALLBACK.REGION`. -/
abbrev Fld.THR_FALLBACK_REGION : Fld := ⟨.THR_FALLBACK, 0, 32⟩
/-- `THR_FALLBACK.CLOSURE`. -/
abbrev Fld.THR_FALLBACK_CLOSURE : Fld := ⟨.THR_FALLBACK, 32, 32⟩
/-! THR_REJECT (06_threshers.md). -/
/-- `THR_REJECT.LIMIT`. -/
abbrev Fld.THR_REJECT_LIMIT : Fld := ⟨.THR_REJECT, 0, 32⟩
/-- `THR_REJECT.CORRUPT`. -/
abbrev Fld.THR_REJECT_CORRUPT : Fld := ⟨.THR_REJECT, 32, 32⟩
/-! THR_BUSY (06_threshers.md). -/
/-- `THR_BUSY.CYCLES`. -/
abbrev Fld.THR_BUSY_CYCLES : Fld := ⟨.THR_BUSY, 0, 64⟩
/-! PERM_CTX_BASE (07_permutation_and_granary.md). -/
/-- `PERM_CTX_BASE.BASE`. -/
abbrev Fld.PERM_CTX_BASE_BASE : Fld := ⟨.PERM_CTX_BASE, 6, 46⟩
/-! PERM_STATUS (07_permutation_and_granary.md). -/
/-- `PERM_STATUS.IN_FLIGHT`. -/
abbrev Fld.PERM_STATUS_IN_FLIGHT : Fld := ⟨.PERM_STATUS, 0, 3⟩
/-- `PERM_STATUS.HELD`. -/
abbrev Fld.PERM_STATUS_HELD : Fld := ⟨.PERM_STATUS, 8, 5⟩
/-- `PERM_STATUS.QUEUED`. -/
abbrev Fld.PERM_STATUS_QUEUED : Fld := ⟨.PERM_STATUS, 16, 7⟩
/-- `PERM_STATUS.FAILED`. -/
abbrev Fld.PERM_STATUS_FAILED : Fld := ⟨.PERM_STATUS, 23, 1⟩
/-- `PERM_STATUS.DONE`. -/
abbrev Fld.PERM_STATUS_DONE : Fld := ⟨.PERM_STATUS, 32, 32⟩
/-! PERM_ABORT (07_permutation_and_granary.md). -/
/-- `PERM_ABORT.TAG`. -/
abbrev Fld.PERM_ABORT_TAG : Fld := ⟨.PERM_ABORT, 0, 16⟩
/-- `PERM_ABORT.JOB`. -/
abbrev Fld.PERM_ABORT_JOB : Fld := ⟨.PERM_ABORT, 16, 6⟩
/-! PERM_ABORT_RES (07_permutation_and_granary.md). -/
/-- `PERM_ABORT_RES.STATUS`. -/
abbrev Fld.PERM_ABORT_RES_STATUS : Fld := ⟨.PERM_ABORT_RES, 0, 8⟩
/-- `PERM_ABORT_RES.COUNT`. -/
abbrev Fld.PERM_ABORT_RES_COUNT : Fld := ⟨.PERM_ABORT_RES, 8, 7⟩
/-! PERM_REPL (07_permutation_and_granary.md). -/
/-- `PERM_REPL.FIRST`. -/
abbrev Fld.PERM_REPL_FIRST : Fld := ⟨.PERM_REPL, 0, 32⟩
/-- `PERM_REPL.ALL`. -/
abbrev Fld.PERM_REPL_ALL : Fld := ⟨.PERM_REPL, 32, 32⟩
/-! PERM_VOID (07_permutation_and_granary.md). -/
/-- `PERM_VOID.REMOTE`. -/
abbrev Fld.PERM_VOID_REMOTE : Fld := ⟨.PERM_VOID, 0, 32⟩
/-- `PERM_VOID.VOID`. -/
abbrev Fld.PERM_VOID_VOID : Fld := ⟨.PERM_VOID, 32, 32⟩
/-! BALER_CTX_BASE (08_baler.md). -/
/-- `BALER_CTX_BASE.BASE`. -/
abbrev Fld.BALER_CTX_BASE_BASE : Fld := ⟨.BALER_CTX_BASE, 6, 46⟩
/-! BALER_STATUS (08_baler.md). -/
/-- `BALER_STATUS.IN_FLIGHT`. -/
abbrev Fld.BALER_STATUS_IN_FLIGHT : Fld := ⟨.BALER_STATUS, 0, 4⟩
/-- `BALER_STATUS.HELD`. -/
abbrev Fld.BALER_STATUS_HELD : Fld := ⟨.BALER_STATUS, 8, 6⟩
/-- `BALER_STATUS.QUEUED`. -/
abbrev Fld.BALER_STATUS_QUEUED : Fld := ⟨.BALER_STATUS, 16, 7⟩
/-- `BALER_STATUS.FAILED`. -/
abbrev Fld.BALER_STATUS_FAILED : Fld := ⟨.BALER_STATUS, 23, 1⟩
/-- `BALER_STATUS.DONE`. -/
abbrev Fld.BALER_STATUS_DONE : Fld := ⟨.BALER_STATUS, 32, 32⟩
/-! BALER_ABORT (08_baler.md). -/
/-- `BALER_ABORT.TAG`. -/
abbrev Fld.BALER_ABORT_TAG : Fld := ⟨.BALER_ABORT, 0, 16⟩
/-- `BALER_ABORT.JOB`. -/
abbrev Fld.BALER_ABORT_JOB : Fld := ⟨.BALER_ABORT, 16, 6⟩
/-! BALER_ABORT_RES (08_baler.md). -/
/-- `BALER_ABORT_RES.STATUS`. -/
abbrev Fld.BALER_ABORT_RES_STATUS : Fld := ⟨.BALER_ABORT_RES, 0, 8⟩
/-- `BALER_ABORT_RES.COUNT`. -/
abbrev Fld.BALER_ABORT_RES_COUNT : Fld := ⟨.BALER_ABORT_RES, 8, 7⟩
/-! BALER_SLOTS (08_baler.md). -/
/-- `BALER_SLOTS.FINAL`. -/
abbrev Fld.BALER_SLOTS_FINAL : Fld := ⟨.BALER_SLOTS, 0, 32⟩
/-- `BALER_SLOTS.BYTES`. -/
abbrev Fld.BALER_SLOTS_BYTES : Fld := ⟨.BALER_SLOTS, 32, 32⟩
/-! TOK_VOCAB (09_tokens.md). -/
/-- `TOK_VOCAB.VALID`. -/
abbrev Fld.TOK_VOCAB_VALID : Fld := ⟨.TOK_VOCAB, 0, 1⟩
/-- `TOK_VOCAB.TOKENS`. -/
abbrev Fld.TOK_VOCAB_TOKENS : Fld := ⟨.TOK_VOCAB, 8, 19⟩
/-- `TOK_VOCAB.SESSIONS`. -/
abbrev Fld.TOK_VOCAB_SESSIONS : Fld := ⟨.TOK_VOCAB, 32, 9⟩
/-! TOK_STATUS (09_tokens.md). -/
/-- `TOK_STATUS.IN_FLIGHT`. -/
abbrev Fld.TOK_STATUS_IN_FLIGHT : Fld := ⟨.TOK_STATUS, 0, 3⟩
/-- `TOK_STATUS.QUEUED`. -/
abbrev Fld.TOK_STATUS_QUEUED : Fld := ⟨.TOK_STATUS, 8, 7⟩
/-- `TOK_STATUS.FAILED`. -/
abbrev Fld.TOK_STATUS_FAILED : Fld := ⟨.TOK_STATUS, 15, 1⟩
/-- `TOK_STATUS.OPEN`. -/
abbrev Fld.TOK_STATUS_OPEN : Fld := ⟨.TOK_STATUS, 16, 9⟩
/-- `TOK_STATUS.DONE`. -/
abbrev Fld.TOK_STATUS_DONE : Fld := ⟨.TOK_STATUS, 32, 32⟩
/-! TOK_ABORT (09_tokens.md). -/
/-- `TOK_ABORT.TAG`. -/
abbrev Fld.TOK_ABORT_TAG : Fld := ⟨.TOK_ABORT, 0, 16⟩
/-- `TOK_ABORT.JOB`. -/
abbrev Fld.TOK_ABORT_JOB : Fld := ⟨.TOK_ABORT, 16, 6⟩
/-! TOK_ABORT_RES (09_tokens.md). -/
/-- `TOK_ABORT_RES.STATUS`. -/
abbrev Fld.TOK_ABORT_RES_STATUS : Fld := ⟨.TOK_ABORT_RES, 0, 8⟩
/-- `TOK_ABORT_RES.COUNT`. -/
abbrev Fld.TOK_ABORT_RES_COUNT : Fld := ⟨.TOK_ABORT_RES, 8, 7⟩
/-! TOK_COUNT (09_tokens.md). -/
/-- `TOK_COUNT.STORED`. -/
abbrev Fld.TOK_COUNT_STORED : Fld := ⟨.TOK_COUNT, 0, 32⟩
/-- `TOK_COUNT.EXHAUSTED`. -/
abbrev Fld.TOK_COUNT_EXHAUSTED : Fld := ⟨.TOK_COUNT, 32, 32⟩
/-! FL_SUBMIT (10_flash.md). -/
/-- `FL_SUBMIT.ADDR`. -/
abbrev Fld.FL_SUBMIT_ADDR : Fld := ⟨.FL_SUBMIT, 6, 46⟩
/-! FL_LAST (10_flash.md). -/
/-- `FL_LAST.STATUS`. -/
abbrev Fld.FL_LAST_STATUS : Fld := ⟨.FL_LAST, 0, 8⟩
/-- `FL_LAST.MASTER`. -/
abbrev Fld.FL_LAST_MASTER : Fld := ⟨.FL_LAST, 16, 10⟩
/-- `FL_LAST.SEQ`. -/
abbrev Fld.FL_LAST_SEQ : Fld := ⟨.FL_LAST, 32, 32⟩
/-! FL_STATUS (10_flash.md). -/
/-- `FL_STATUS.IN_FLIGHT`. -/
abbrev Fld.FL_STATUS_IN_FLIGHT : Fld := ⟨.FL_STATUS, 0, 13⟩
/-- `FL_STATUS.HELD`. -/
abbrev Fld.FL_STATUS_HELD : Fld := ⟨.FL_STATUS, 16, 13⟩
/-- `FL_STATUS.DONE`. -/
abbrev Fld.FL_STATUS_DONE : Fld := ⟨.FL_STATUS, 32, 32⟩
/-! FL_ABORT (10_flash.md). -/
/-- `FL_ABORT.TAG`. -/
abbrev Fld.FL_ABORT_TAG : Fld := ⟨.FL_ABORT, 0, 16⟩
/-- `FL_ABORT.JOB`. -/
abbrev Fld.FL_ABORT_JOB : Fld := ⟨.FL_ABORT, 16, 6⟩
/-! FL_ABORT_RES (10_flash.md). -/
/-- `FL_ABORT_RES.STATUS`. -/
abbrev Fld.FL_ABORT_RES_STATUS : Fld := ⟨.FL_ABORT_RES, 0, 8⟩
/-- `FL_ABORT_RES.COUNT`. -/
abbrev Fld.FL_ABORT_RES_COUNT : Fld := ⟨.FL_ABORT_RES, 8, 13⟩
/-! FL_MAPCACHE (10_flash.md). -/
/-- `FL_MAPCACHE.SIZE`. -/
abbrev Fld.FL_MAPCACHE_SIZE : Fld := ⟨.FL_MAPCACHE, 0, 7⟩
/-- `FL_MAPCACHE.BASE`. -/
abbrev Fld.FL_MAPCACHE_BASE : Fld := ⟨.FL_MAPCACHE, 30, 22⟩
/-! FL_AUX (10_flash.md). -/
/-- `FL_AUX.BASE`. -/
abbrev Fld.FL_AUX_BASE : Fld := ⟨.FL_AUX, 20, 32⟩
/-! FL_GC (10_flash.md). -/
/-- `FL_GC.LOW`. -/
abbrev Fld.FL_GC_LOW : Fld := ⟨.FL_GC, 0, 8⟩
/-- `FL_GC.HIGH`. -/
abbrev Fld.FL_GC_HIGH : Fld := ⟨.FL_GC, 8, 8⟩
/-! FL_MAPMISS (10_flash.md). -/
/-- `FL_MAPMISS.MISSES`. -/
abbrev Fld.FL_MAPMISS_MISSES : Fld := ⟨.FL_MAPMISS, 0, 64⟩
/-! FL_PARREC (10_flash.md). -/
/-- `FL_PARREC.PARITY`. -/
abbrev Fld.FL_PARREC_PARITY : Fld := ⟨.FL_PARREC, 0, 32⟩
/-- `FL_PARREC.REDIRECT`. -/
abbrev Fld.FL_PARREC_REDIRECT : Fld := ⟨.FL_PARREC, 32, 32⟩
/-! FL_KEY_DATA (10_flash.md). -/
/-- `FL_KEY_DATA.KEY`. -/
abbrev Fld.FL_KEY_DATA_KEY : Fld := ⟨.FL_KEY_DATA, 0, 64⟩
/-! FL_KEY_CMD (10_flash.md). -/
/-- `FL_KEY_CMD.VOL`. -/
abbrev Fld.FL_KEY_CMD_VOL : Fld := ⟨.FL_KEY_CMD, 0, 4⟩
/-- `FL_KEY_CMD.LOAD`. -/
abbrev Fld.FL_KEY_CMD_LOAD : Fld := ⟨.FL_KEY_CMD, 8, 1⟩
/-- `FL_KEY_CMD.CLEAR`. -/
abbrev Fld.FL_KEY_CMD_CLEAR : Fld := ⟨.FL_KEY_CMD, 9, 1⟩
/-- `FL_KEY_CMD.RESULT`. -/
abbrev Fld.FL_KEY_CMD_RESULT : Fld := ⟨.FL_KEY_CMD, 16, 1⟩
/-! FL_VOL_CFG (10_flash.md). -/
/-- `FL_VOL_CFG.FIRST_GROUP`. -/
abbrev Fld.FL_VOL_CFG_FIRST_GROUP : Fld := ⟨.FL_VOL_CFG, 0, 6⟩
/-- `FL_VOL_CFG.GROUP_COUNT`. -/
abbrev Fld.FL_VOL_CFG_GROUP_COUNT : Fld := ⟨.FL_VOL_CFG, 8, 7⟩
/-- `FL_VOL_CFG.ENCRYPT`. -/
abbrev Fld.FL_VOL_CFG_ENCRYPT : Fld := ⟨.FL_VOL_CFG, 16, 1⟩
/-- `FL_VOL_CFG.ERASE_LIMIT`. -/
abbrev Fld.FL_VOL_CFG_ERASE_LIMIT : Fld := ⟨.FL_VOL_CFG, 32, 16⟩
/-! FL_VOL_STATE (10_flash.md). -/
/-- `FL_VOL_STATE.STATE`. -/
abbrev Fld.FL_VOL_STATE_STATE : Fld := ⟨.FL_VOL_STATE, 0, 3⟩
/-- `FL_VOL_STATE.RO_CAUSE`. -/
abbrev Fld.FL_VOL_STATE_RO_CAUSE : Fld := ⟨.FL_VOL_STATE, 8, 8⟩
/-- `FL_VOL_STATE.FREE_SB`. -/
abbrev Fld.FL_VOL_STATE_FREE_SB : Fld := ⟨.FL_VOL_STATE, 16, 16⟩
/-- `FL_VOL_STATE.MIN_ERASE`. -/
abbrev Fld.FL_VOL_STATE_MIN_ERASE : Fld := ⟨.FL_VOL_STATE, 32, 16⟩
/-- `FL_VOL_STATE.MAX_ERASE`. -/
abbrev Fld.FL_VOL_STATE_MAX_ERASE : Fld := ⟨.FL_VOL_STATE, 48, 16⟩
/-! FL_VOL_CAP (10_flash.md). -/
/-- `FL_VOL_CAP.LC`. -/
abbrev Fld.FL_VOL_CAP_LC : Fld := ⟨.FL_VOL_CAP, 0, 32⟩
/-- `FL_VOL_CAP.GOOD`. -/
abbrev Fld.FL_VOL_CAP_GOOD : Fld := ⟨.FL_VOL_CAP, 32, 32⟩
/-! FL_VOL_CNT (10_flash.md). -/
/-- `FL_VOL_CNT.RETIRED`. -/
abbrev Fld.FL_VOL_CNT_RETIRED : Fld := ⟨.FL_VOL_CNT, 0, 32⟩
/-- `FL_VOL_CNT.UNCORR`. -/
abbrev Fld.FL_VOL_CNT_UNCORR : Fld := ⟨.FL_VOL_CNT, 32, 32⟩
/-! MEM_IL (11_memory_and_stream_engines.md). -/
/-- `MEM_IL.CH_MASK`. -/
abbrev Fld.MEM_IL_CH_MASK : Fld := ⟨.MEM_IL, 0, 24⟩
/-- `MEM_IL.NC`. -/
abbrev Fld.MEM_IL_NC : Fld := ⟨.MEM_IL, 24, 5⟩
/-- `MEM_IL.CAP_LOG2`. -/
abbrev Fld.MEM_IL_CAP_LOG2 : Fld := ⟨.MEM_IL, 32, 4⟩
/-- `MEM_IL.HASH`. -/
abbrev Fld.MEM_IL_HASH : Fld := ⟨.MEM_IL, 36, 1⟩
/-- `MEM_IL.LOCK`. -/
abbrev Fld.MEM_IL_LOCK : Fld := ⟨.MEM_IL, 63, 1⟩
/-! DRAM_ERR_CNT (11_memory_and_stream_engines.md). -/
/-- `DRAM_ERR_CNT.CORRECTED`. -/
abbrev Fld.DRAM_ERR_CNT_CORRECTED : Fld := ⟨.DRAM_ERR_CNT, 0, 32⟩
/-- `DRAM_ERR_CNT.UNCORR`. -/
abbrev Fld.DRAM_ERR_CNT_UNCORR : Fld := ⟨.DRAM_ERR_CNT, 32, 32⟩
/-! DRAM_ERR_LAST (11_memory_and_stream_engines.md). -/
/-- `DRAM_ERR_LAST.LINE`. -/
abbrev Fld.DRAM_ERR_LAST_LINE : Fld := ⟨.DRAM_ERR_LAST, 0, 46⟩
/-- `DRAM_ERR_LAST.DEVICE`. -/
abbrev Fld.DRAM_ERR_LAST_DEVICE : Fld := ⟨.DRAM_ERR_LAST, 46, 4⟩
/-- `DRAM_ERR_LAST.RANK`. -/
abbrev Fld.DRAM_ERR_LAST_RANK : Fld := ⟨.DRAM_ERR_LAST, 50, 2⟩
/-- `DRAM_ERR_LAST.TYPE`. -/
abbrev Fld.DRAM_ERR_LAST_TYPE : Fld := ⟨.DRAM_ERR_LAST, 52, 2⟩
/-- `DRAM_ERR_LAST.SUB`. -/
abbrev Fld.DRAM_ERR_LAST_SUB : Fld := ⟨.DRAM_ERR_LAST, 54, 1⟩
/-! DRAM_MARK (11_memory_and_stream_engines.md). -/
/-- `DRAM_MARK.MARKS`. -/
abbrev Fld.DRAM_MARK_MARKS : Fld := ⟨.DRAM_MARK, 0, 20⟩
/-- `DRAM_MARK.THRESH`. -/
abbrev Fld.DRAM_MARK_THRESH : Fld := ⟨.DRAM_MARK, 24, 8⟩
/-! DRAM_REFRESH (11_memory_and_stream_engines.md). -/
/-- `DRAM_REFRESH.ISSUED`. -/
abbrev Fld.DRAM_REFRESH_ISSUED : Fld := ⟨.DRAM_REFRESH, 0, 32⟩
/-- `DRAM_REFRESH.DELAYED`. -/
abbrev Fld.DRAM_REFRESH_DELAYED : Fld := ⟨.DRAM_REFRESH, 32, 32⟩
/-! POOL_CFG (11_memory_and_stream_engines.md). -/
/-- `POOL_CFG.CLASS`. -/
abbrev Fld.POOL_CFG_CLASS : Fld := ⟨.POOL_CFG, 0, 5⟩
/-- `POOL_CFG.ENABLE`. -/
abbrev Fld.POOL_CFG_ENABLE : Fld := ⟨.POOL_CFG, 8, 1⟩
/-- `POOL_CFG.READY`. -/
abbrev Fld.POOL_CFG_READY : Fld := ⟨.POOL_CFG, 9, 1⟩
/-- `POOL_CFG.COUNT`. -/
abbrev Fld.POOL_CFG_COUNT : Fld := ⟨.POOL_CFG, 16, 24⟩
/-! POOL_BASE (11_memory_and_stream_engines.md). -/
/-- `POOL_BASE.BASE`. -/
abbrev Fld.POOL_BASE_BASE : Fld := ⟨.POOL_BASE, 6, 46⟩
/-! POOL_META (11_memory_and_stream_engines.md). -/
/-- `POOL_META.META`. -/
abbrev Fld.POOL_META_META : Fld := ⟨.POOL_META, 6, 46⟩
/-! POOL_STAT (11_memory_and_stream_engines.md). -/
/-- `POOL_STAT.FREE`. -/
abbrev Fld.POOL_STAT_FREE : Fld := ⟨.POOL_STAT, 0, 24⟩
/-- `POOL_STAT.EMPTY`. -/
abbrev Fld.POOL_STAT_EMPTY : Fld := ⟨.POOL_STAT, 24, 20⟩
/-- `POOL_STAT.DOUBLE`. -/
abbrev Fld.POOL_STAT_DOUBLE : Fld := ⟨.POOL_STAT, 44, 20⟩
/-! POOL_ABORT (11_memory_and_stream_engines.md). -/
/-- `POOL_ABORT.TAG`. -/
abbrev Fld.POOL_ABORT_TAG : Fld := ⟨.POOL_ABORT, 0, 16⟩
/-- `POOL_ABORT.JOB`. -/
abbrev Fld.POOL_ABORT_JOB : Fld := ⟨.POOL_ABORT, 16, 6⟩
/-! POOL_ABORT_RES (11_memory_and_stream_engines.md). -/
/-- `POOL_ABORT_RES.STATUS`. -/
abbrev Fld.POOL_ABORT_RES_STATUS : Fld := ⟨.POOL_ABORT_RES, 0, 8⟩
/-- `POOL_ABORT_RES.COUNT`. -/
abbrev Fld.POOL_ABORT_RES_COUNT : Fld := ⟨.POOL_ABORT_RES, 8, 7⟩
/-! STREAM_CFG (11_memory_and_stream_engines.md). -/
/-- `STREAM_CFG.OUT_MAX`. -/
abbrev Fld.STREAM_CFG_OUT_MAX : Fld := ⟨.STREAM_CFG, 0, 12⟩
/-- `STREAM_CFG.RATIO`. -/
abbrev Fld.STREAM_CFG_RATIO : Fld := ⟨.STREAM_CFG, 16, 16⟩
/-- `STREAM_CFG.LOCK`. -/
abbrev Fld.STREAM_CFG_LOCK : Fld := ⟨.STREAM_CFG, 63, 1⟩
/-! STREAM_STATUS (11_memory_and_stream_engines.md). -/
/-- `STREAM_STATUS.IN_FLIGHT`. -/
abbrev Fld.STREAM_STATUS_IN_FLIGHT : Fld := ⟨.STREAM_STATUS, 0, 1⟩
/-- `STREAM_STATUS.QUEUED`. -/
abbrev Fld.STREAM_STATUS_QUEUED : Fld := ⟨.STREAM_STATUS, 8, 6⟩
/-- `STREAM_STATUS.FAILED`. -/
abbrev Fld.STREAM_STATUS_FAILED : Fld := ⟨.STREAM_STATUS, 14, 1⟩
/-- `STREAM_STATUS.DONE`. -/
abbrev Fld.STREAM_STATUS_DONE : Fld := ⟨.STREAM_STATUS, 32, 32⟩
/-! STREAM_ABORT (11_memory_and_stream_engines.md). -/
/-- `STREAM_ABORT.TAG`. -/
abbrev Fld.STREAM_ABORT_TAG : Fld := ⟨.STREAM_ABORT, 0, 16⟩
/-- `STREAM_ABORT.JOB`. -/
abbrev Fld.STREAM_ABORT_JOB : Fld := ⟨.STREAM_ABORT, 16, 6⟩
/-! STREAM_ABORT_RES (11_memory_and_stream_engines.md). -/
/-- `STREAM_ABORT_RES.STATUS`. -/
abbrev Fld.STREAM_ABORT_RES_STATUS : Fld := ⟨.STREAM_ABORT_RES, 0, 8⟩
/-- `STREAM_ABORT_RES.COUNT`. -/
abbrev Fld.STREAM_ABORT_RES_COUNT : Fld := ⟨.STREAM_ABORT_RES, 8, 6⟩
/-! STREAM_COUNT (11_memory_and_stream_engines.md). -/
/-- `STREAM_COUNT.OUTFULL`. -/
abbrev Fld.STREAM_COUNT_OUTFULL : Fld := ⟨.STREAM_COUNT, 0, 32⟩
/-- `STREAM_COUNT.MISMATCH`. -/
abbrev Fld.STREAM_COUNT_MISMATCH : Fld := ⟨.STREAM_COUNT, 32, 32⟩
/-! PORT_CFG (12_furrow.md). -/
/-- `PORT_CFG.MODE`. -/
abbrev Fld.PORT_CFG_MODE : Fld := ⟨.PORT_CFG, 0, 2⟩
/-- `PORT_CFG.REPLAY`. -/
abbrev Fld.PORT_CFG_REPLAY : Fld := ⟨.PORT_CFG, 2, 1⟩
/-- `PORT_CFG.AN`. -/
abbrev Fld.PORT_CFG_AN : Fld := ⟨.PORT_CFG, 3, 1⟩
/-- `PORT_CFG.ENABLE`. -/
abbrev Fld.PORT_CFG_ENABLE : Fld := ⟨.PORT_CFG, 8, 8⟩
/-! PORT_MAC (12_furrow.md). -/
/-- `PORT_MAC.MAC`. -/
abbrev Fld.PORT_MAC_MAC : Fld := ⟨.PORT_MAC, 0, 48⟩
/-! PORT_STATUS (12_furrow.md). -/
/-- `PORT_STATUS.LINK`. -/
abbrev Fld.PORT_STATUS_LINK : Fld := ⟨.PORT_STATUS, 0, 8⟩
/-- `PORT_STATUS.PRESENT`. -/
abbrev Fld.PORT_STATUS_PRESENT : Fld := ⟨.PORT_STATUS, 8, 1⟩
/-- `PORT_STATUS.CMIS_STATE`. -/
abbrev Fld.PORT_STATUS_CMIS_STATE : Fld := ⟨.PORT_STATUS, 9, 3⟩
/-! PORT_CNT_FEC (12_furrow.md). -/
/-- `PORT_CNT_FEC.CORRECTED`. -/
abbrev Fld.PORT_CNT_FEC_CORRECTED : Fld := ⟨.PORT_CNT_FEC, 0, 32⟩
/-- `PORT_CNT_FEC.UNCORR`. -/
abbrev Fld.PORT_CNT_FEC_UNCORR : Fld := ⟨.PORT_CNT_FEC, 32, 32⟩
/-! PORT_CNT_FRAME (12_furrow.md). -/
/-- `PORT_CNT_FRAME.FCS`. -/
abbrev Fld.PORT_CNT_FRAME_FCS : Fld := ⟨.PORT_CNT_FRAME, 0, 16⟩
/-- `PORT_CNT_FRAME.REPLAYED`. -/
abbrev Fld.PORT_CNT_FRAME_REPLAYED : Fld := ⟨.PORT_CNT_FRAME, 16, 16⟩
/-- `PORT_CNT_FRAME.REPLAY_LOST`. -/
abbrev Fld.PORT_CNT_FRAME_REPLAY_LOST : Fld := ⟨.PORT_CNT_FRAME, 32, 16⟩
/-- `PORT_CNT_FRAME.DISCARD`. -/
abbrev Fld.PORT_CNT_FRAME_DISCARD : Fld := ⟨.PORT_CNT_FRAME, 48, 16⟩
/-! FUR_CFG (12_furrow.md). -/
/-- `FUR_CFG.UDP_PORT`. -/
abbrev Fld.FUR_CFG_UDP_PORT : Fld := ⟨.FUR_CFG, 0, 16⟩
/-- `FUR_CFG.SPORT_BASE`. -/
abbrev Fld.FUR_CFG_SPORT_BASE : Fld := ⟨.FUR_CFG, 16, 16⟩
/-- `FUR_CFG.PATHS`. -/
abbrev Fld.FUR_CFG_PATHS : Fld := ⟨.FUR_CFG, 32, 5⟩
/-- `FUR_CFG.HOLD`. -/
abbrev Fld.FUR_CFG_HOLD : Fld := ⟨.FUR_CFG, 40, 16⟩
/-! FUR_TIMER (12_furrow.md). -/
/-- `FUR_TIMER.RTO`. -/
abbrev Fld.FUR_TIMER_RTO : Fld := ⟨.FUR_TIMER, 0, 20⟩
/-- `FUR_TIMER.RETRY_MAX`. -/
abbrev Fld.FUR_TIMER_RETRY_MAX : Fld := ⟨.FUR_TIMER, 20, 4⟩
/-- `FUR_TIMER.RNR_DELAY`. -/
abbrev Fld.FUR_TIMER_RNR_DELAY : Fld := ⟨.FUR_TIMER, 24, 20⟩
/-- `FUR_TIMER.RNR_MAX`. -/
abbrev Fld.FUR_TIMER_RNR_MAX : Fld := ⟨.FUR_TIMER, 44, 8⟩
/-! FUR_RATE (12_furrow.md). -/
/-- `FUR_RATE.START`. -/
abbrev Fld.FUR_RATE_START : Fld := ⟨.FUR_RATE, 0, 16⟩
/-- `FUR_RATE.MIN`. -/
abbrev Fld.FUR_RATE_MIN : Fld := ⟨.FUR_RATE, 16, 16⟩
/-- `FUR_RATE.INC`. -/
abbrev Fld.FUR_RATE_INC : Fld := ⟨.FUR_RATE, 32, 16⟩
/-- `FUR_RATE.DEC`. -/
abbrev Fld.FUR_RATE_DEC : Fld := ⟨.FUR_RATE, 48, 8⟩
/-! FUR_RATE_GAP (12_furrow.md). -/
/-- `FUR_RATE_GAP.DEC_GAP`. -/
abbrev Fld.FUR_RATE_GAP_DEC_GAP : Fld := ⟨.FUR_RATE_GAP, 0, 32⟩
/-- `FUR_RATE_GAP.INC_GAP`. -/
abbrev Fld.FUR_RATE_GAP_INC_GAP : Fld := ⟨.FUR_RATE_GAP, 32, 32⟩
/-! FUR_ADDR_BASE (12_furrow.md). -/
/-- `FUR_ADDR_BASE.BASE`. -/
abbrev Fld.FUR_ADDR_BASE_BASE : Fld := ⟨.FUR_ADDR_BASE, 12, 40⟩
/-! FUR_SUBMIT (12_furrow.md). -/
/-- `FUR_SUBMIT.ADDR`. -/
abbrev Fld.FUR_SUBMIT_ADDR : Fld := ⟨.FUR_SUBMIT, 6, 46⟩
/-- `FUR_SUBMIT.STATUS`. -/
abbrev Fld.FUR_SUBMIT_STATUS : Fld := ⟨.FUR_SUBMIT, 52, 8⟩
/-! FUR_KEY_CMD (12_furrow.md). -/
/-- `FUR_KEY_CMD.INDEX`. -/
abbrev Fld.FUR_KEY_CMD_INDEX : Fld := ⟨.FUR_KEY_CMD, 0, 12⟩
/-- `FUR_KEY_CMD.OP`. -/
abbrev Fld.FUR_KEY_CMD_OP : Fld := ⟨.FUR_KEY_CMD, 12, 2⟩
/-- `FUR_KEY_CMD.RIGHTS`. -/
abbrev Fld.FUR_KEY_CMD_RIGHTS : Fld := ⟨.FUR_KEY_CMD, 16, 3⟩
/-- `FUR_KEY_CMD.COUNT_EN`. -/
abbrev Fld.FUR_KEY_CMD_COUNT_EN : Fld := ⟨.FUR_KEY_CMD, 19, 1⟩
/-- `FUR_KEY_CMD.COUNTER`. -/
abbrev Fld.FUR_KEY_CMD_COUNTER : Fld := ⟨.FUR_KEY_CMD, 20, 16⟩
/-- `FUR_KEY_CMD.STATE`. -/
abbrev Fld.FUR_KEY_CMD_STATE : Fld := ⟨.FUR_KEY_CMD, 36, 2⟩
/-- `FUR_KEY_CMD.RESULT`. -/
abbrev Fld.FUR_KEY_CMD_RESULT : Fld := ⟨.FUR_KEY_CMD, 39, 1⟩
/-- `FUR_KEY_CMD.GEN`. -/
abbrev Fld.FUR_KEY_CMD_GEN : Fld := ⟨.FUR_KEY_CMD, 40, 20⟩
/-! FUR_KEY_BASE (12_furrow.md). -/
/-- `FUR_KEY_BASE.BASE`. -/
abbrev Fld.FUR_KEY_BASE_BASE : Fld := ⟨.FUR_KEY_BASE, 0, 52⟩
/-! FUR_KEY_LEN (12_furrow.md). -/
/-- `FUR_KEY_LEN.LEN`. -/
abbrev Fld.FUR_KEY_LEN_LEN : Fld := ⟨.FUR_KEY_LEN, 0, 41⟩
/-! FUR_EVQ (12_furrow.md). -/
/-- `FUR_EVQ.LOG2`. -/
abbrev Fld.FUR_EVQ_LOG2 : Fld := ⟨.FUR_EVQ, 0, 5⟩
/-- `FUR_EVQ.IRQ_EN`. -/
abbrev Fld.FUR_EVQ_IRQ_EN : Fld := ⟨.FUR_EVQ, 5, 1⟩
/-- `FUR_EVQ.BASE`. -/
abbrev Fld.FUR_EVQ_BASE : Fld := ⟨.FUR_EVQ, 11, 37⟩
/-- `FUR_EVQ.LOST`. -/
abbrev Fld.FUR_EVQ_LOST : Fld := ⟨.FUR_EVQ, 48, 16⟩
/-! FUR_EVQ_PTR (12_furrow.md). -/
/-- `FUR_EVQ_PTR.PROD`. -/
abbrev Fld.FUR_EVQ_PTR_PROD : Fld := ⟨.FUR_EVQ_PTR, 0, 32⟩
/-- `FUR_EVQ_PTR.CONS`. -/
abbrev Fld.FUR_EVQ_PTR_CONS : Fld := ⟨.FUR_EVQ_PTR, 32, 32⟩
/-! FUR_ABORT (12_furrow.md). -/
/-- `FUR_ABORT.TAG`. -/
abbrev Fld.FUR_ABORT_TAG : Fld := ⟨.FUR_ABORT, 0, 16⟩
/-- `FUR_ABORT.JOB`. -/
abbrev Fld.FUR_ABORT_JOB : Fld := ⟨.FUR_ABORT, 16, 6⟩
/-! FUR_ABORT_RES (12_furrow.md). -/
/-- `FUR_ABORT_RES.STATUS`. -/
abbrev Fld.FUR_ABORT_RES_STATUS : Fld := ⟨.FUR_ABORT_RES, 0, 8⟩
/-- `FUR_ABORT_RES.COUNT`. -/
abbrev Fld.FUR_ABORT_RES_COUNT : Fld := ⟨.FUR_ABORT_RES, 8, 14⟩
/-! FUR_STATUS (12_furrow.md). -/
/-- `FUR_STATUS.IN_FLIGHT`. -/
abbrev Fld.FUR_STATUS_IN_FLIGHT : Fld := ⟨.FUR_STATUS, 0, 13⟩
/-- `FUR_STATUS.QUEUED`. -/
abbrev Fld.FUR_STATUS_QUEUED : Fld := ⟨.FUR_STATUS, 16, 13⟩
/-- `FUR_STATUS.FAILED`. -/
abbrev Fld.FUR_STATUS_FAILED : Fld := ⟨.FUR_STATUS, 29, 1⟩
/-- `FUR_STATUS.DONE`. -/
abbrev Fld.FUR_STATUS_DONE : Fld := ⟨.FUR_STATUS, 32, 32⟩
/-! FUR_CNT (12_furrow.md). -/
/-- `FUR_CNT.RETRANSMIT`. -/
abbrev Fld.FUR_CNT_RETRANSMIT : Fld := ⟨.FUR_CNT, 0, 16⟩
/-- `FUR_CNT.DUPLICATE`. -/
abbrev Fld.FUR_CNT_DUPLICATE : Fld := ⟨.FUR_CNT, 16, 16⟩
/-- `FUR_CNT.NAK_SENT`. -/
abbrev Fld.FUR_CNT_NAK_SENT : Fld := ⟨.FUR_CNT, 32, 16⟩
/-- `FUR_CNT.DROPPED`. -/
abbrev Fld.FUR_CNT_DROPPED : Fld := ⟨.FUR_CNT, 48, 16⟩
/-! FUR_SQ_CFG (12_furrow.md). -/
/-- `FUR_SQ_CFG.EGRESS`. -/
abbrev Fld.FUR_SQ_CFG_EGRESS : Fld := ⟨.FUR_SQ_CFG, 0, 6⟩
/-- `FUR_SQ_CFG.ENABLE`. -/
abbrev Fld.FUR_SQ_CFG_ENABLE : Fld := ⟨.FUR_SQ_CFG, 6, 1⟩
/-- `FUR_SQ_CFG.DSCP`. -/
abbrev Fld.FUR_SQ_CFG_DSCP : Fld := ⟨.FUR_SQ_CFG, 8, 6⟩
/-- `FUR_SQ_CFG.PENDING`. -/
abbrev Fld.FUR_SQ_CFG_PENDING : Fld := ⟨.FUR_SQ_CFG, 16, 7⟩
/-! FUR_RQ_BASE (12_furrow.md). -/
/-- `FUR_RQ_BASE.LOG2_ENTRIES`. -/
abbrev Fld.FUR_RQ_BASE_LOG2_ENTRIES : Fld := ⟨.FUR_RQ_BASE, 0, 4⟩
/-- `FUR_RQ_BASE.SLOT_LOG2`. -/
abbrev Fld.FUR_RQ_BASE_SLOT_LOG2 : Fld := ⟨.FUR_RQ_BASE, 4, 4⟩
/-- `FUR_RQ_BASE.ENABLE`. -/
abbrev Fld.FUR_RQ_BASE_ENABLE : Fld := ⟨.FUR_RQ_BASE, 8, 1⟩
/-- `FUR_RQ_BASE.BASE`. -/
abbrev Fld.FUR_RQ_BASE_BASE : Fld := ⟨.FUR_RQ_BASE, 12, 36⟩
/-- `FUR_RQ_BASE.COUNTER`. -/
abbrev Fld.FUR_RQ_BASE_COUNTER : Fld := ⟨.FUR_RQ_BASE, 48, 16⟩
/-! FUR_RQ_PTR (12_furrow.md). -/
/-- `FUR_RQ_PTR.PROD`. -/
abbrev Fld.FUR_RQ_PTR_PROD : Fld := ⟨.FUR_RQ_PTR, 0, 32⟩
/-- `FUR_RQ_PTR.CONS`. -/
abbrev Fld.FUR_RQ_PTR_CONS : Fld := ⟨.FUR_RQ_PTR, 32, 32⟩
/-! ROCE_QPC_BASE (12_furrow.md). -/
/-- `ROCE_QPC_BASE.BASE`. -/
abbrev Fld.ROCE_QPC_BASE_BASE : Fld := ⟨.ROCE_QPC_BASE, 12, 40⟩
/-! ROCE_GROUP_BASE (12_furrow.md). -/
/-- `ROCE_GROUP_BASE.BASE`. -/
abbrev Fld.ROCE_GROUP_BASE_BASE : Fld := ⟨.ROCE_GROUP_BASE, 12, 40⟩
/-! ROCE_QP_CMD (12_furrow.md). -/
/-- `ROCE_QP_CMD.INDEX`. -/
abbrev Fld.ROCE_QP_CMD_INDEX : Fld := ⟨.ROCE_QP_CMD, 0, 11⟩
/-- `ROCE_QP_CMD.OP`. -/
abbrev Fld.ROCE_QP_CMD_OP : Fld := ⟨.ROCE_QP_CMD, 12, 2⟩
/-- `ROCE_QP_CMD.STATE`. -/
abbrev Fld.ROCE_QP_CMD_STATE : Fld := ⟨.ROCE_QP_CMD, 16, 2⟩
/-- `ROCE_QP_CMD.RESULT`. -/
abbrev Fld.ROCE_QP_CMD_RESULT : Fld := ⟨.ROCE_QP_CMD, 18, 1⟩
/-- `ROCE_QP_CMD.ERR_STATUS`. -/
abbrev Fld.ROCE_QP_CMD_ERR_STATUS : Fld := ⟨.ROCE_QP_CMD, 24, 8⟩
/-! ROCE_CNT (12_furrow.md). -/
/-- `ROCE_CNT.RETRANSMIT`. -/
abbrev Fld.ROCE_CNT_RETRANSMIT : Fld := ⟨.ROCE_CNT, 0, 16⟩
/-- `ROCE_CNT.CNP`. -/
abbrev Fld.ROCE_CNT_CNP : Fld := ⟨.ROCE_CNT, 16, 16⟩
/-- `ROCE_CNT.NAK`. -/
abbrev Fld.ROCE_CNT_NAK : Fld := ⟨.ROCE_CNT, 32, 16⟩
/-- `ROCE_CNT.DROPPED`. -/
abbrev Fld.ROCE_CNT_DROPPED : Fld := ⟨.ROCE_CNT, 48, 16⟩
/-! SCHED_CFG (13_egress_scheduling.md). -/
/-- `SCHED_CFG.OVERHEAD`. -/
abbrev Fld.SCHED_CFG_OVERHEAD : Fld := ⟨.SCHED_CFG, 0, 8⟩
/-- `SCHED_CFG.ACK_QUEUE`. -/
abbrev Fld.SCHED_CFG_ACK_QUEUE : Fld := ⟨.SCHED_CFG, 8, 6⟩
/-! SCHED_PORT_SHAPE (13_egress_scheduling.md). -/
/-- `SCHED_PORT_SHAPE.RATE`. -/
abbrev Fld.SCHED_PORT_SHAPE_RATE : Fld := ⟨.SCHED_PORT_SHAPE, 0, 16⟩
/-- `SCHED_PORT_SHAPE.BURST`. -/
abbrev Fld.SCHED_PORT_SHAPE_BURST : Fld := ⟨.SCHED_PORT_SHAPE, 16, 24⟩
/-! SCHED_Q_CFG (13_egress_scheduling.md). -/
/-- `SCHED_Q_CFG.WEIGHT`. -/
abbrev Fld.SCHED_Q_CFG_WEIGHT : Fld := ⟨.SCHED_Q_CFG, 0, 16⟩
/-- `SCHED_Q_CFG.RATE`. -/
abbrev Fld.SCHED_Q_CFG_RATE : Fld := ⟨.SCHED_Q_CFG, 16, 16⟩
/-- `SCHED_Q_CFG.BURST`. -/
abbrev Fld.SCHED_Q_CFG_BURST : Fld := ⟨.SCHED_Q_CFG, 32, 24⟩
/-! SCHED_Q_STAT (13_egress_scheduling.md). -/
/-- `SCHED_Q_STAT.DEPTH`. -/
abbrev Fld.SCHED_Q_STAT_DEPTH : Fld := ⟨.SCHED_Q_STAT, 0, 9⟩
/-- `SCHED_Q_STAT.SHAPED`. -/
abbrev Fld.SCHED_Q_STAT_SHAPED : Fld := ⟨.SCHED_Q_STAT, 32, 32⟩
/-! POL_MAP (13_egress_scheduling.md). -/
/-- `POL_MAP.CLASS`. -/
abbrev Fld.POL_MAP_CLASS : Fld := ⟨.POL_MAP, 0, 32⟩
/-! POL_CFG (13_egress_scheduling.md). -/
/-- `POL_CFG.RATE`. -/
abbrev Fld.POL_CFG_RATE : Fld := ⟨.POL_CFG, 0, 16⟩
/-- `POL_CFG.BURST`. -/
abbrev Fld.POL_CFG_BURST : Fld := ⟨.POL_CFG, 16, 24⟩
/-! POL_DROP (13_egress_scheduling.md). -/
/-- `POL_DROP.FRAMES`. -/
abbrev Fld.POL_DROP_FRAMES : Fld := ⟨.POL_DROP, 0, 32⟩
/-! HL_STATUS (14_host_link.md). -/
/-- `HL_STATUS.WIDTH`. -/
abbrev Fld.HL_STATUS_WIDTH : Fld := ⟨.HL_STATUS, 0, 2⟩
/-- `HL_STATUS.REVERSED`. -/
abbrev Fld.HL_STATUS_REVERSED : Fld := ⟨.HL_STATUS, 2, 1⟩
/-- `HL_STATUS.FAILED`. -/
abbrev Fld.HL_STATUS_FAILED : Fld := ⟨.HL_STATUS, 3, 1⟩
/-! HL_CNT (14_host_link.md). -/
/-- `HL_CNT.CRC_FAIL`. -/
abbrev Fld.HL_CNT_CRC_FAIL : Fld := ⟨.HL_CNT, 0, 16⟩
/-- `HL_CNT.REPLAY`. -/
abbrev Fld.HL_CNT_REPLAY : Fld := ⟨.HL_CNT, 16, 16⟩
/-- `HL_CNT.FEC_CORR`. -/
abbrev Fld.HL_CNT_FEC_CORR : Fld := ⟨.HL_CNT, 32, 32⟩
/-! MBOX_BIND (14_host_link.md). -/
/-- `MBOX_BIND.SENDER`. -/
abbrev Fld.MBOX_BIND_SENDER : Fld := ⟨.MBOX_BIND, 0, 10⟩
/-- `MBOX_BIND.RECEIVER`. -/
abbrev Fld.MBOX_BIND_RECEIVER : Fld := ⟨.MBOX_BIND, 16, 10⟩
/-- `MBOX_BIND.RX_DB`. -/
abbrev Fld.MBOX_BIND_RX_DB : Fld := ⟨.MBOX_BIND, 32, 5⟩
/-- `MBOX_BIND.TX_DB`. -/
abbrev Fld.MBOX_BIND_TX_DB : Fld := ⟨.MBOX_BIND, 40, 5⟩
/-- `MBOX_BIND.ENABLE`. -/
abbrev Fld.MBOX_BIND_ENABLE : Fld := ⟨.MBOX_BIND, 48, 1⟩
/-! MBOX_LOCK (14_host_link.md). -/
/-- `MBOX_LOCK.LOCK`. -/
abbrev Fld.MBOX_LOCK_LOCK : Fld := ⟨.MBOX_LOCK, 0, 1⟩
/-! MBOX_DB (14_host_link.md). -/
/-- `MBOX_DB.DB`. -/
abbrev Fld.MBOX_DB_DB : Fld := ⟨.MBOX_DB, 0, 32⟩
/-! MBOX_DB_MASK (14_host_link.md). -/
/-- `MBOX_DB_MASK.MASK`. -/
abbrev Fld.MBOX_DB_MASK_MASK : Fld := ⟨.MBOX_DB_MASK, 0, 32⟩
/-! MBOX_TX_ADDR (14_host_link.md). -/
/-- `MBOX_TX_ADDR.ADDR`. -/
abbrev Fld.MBOX_TX_ADDR_ADDR : Fld := ⟨.MBOX_TX_ADDR, 0, 52⟩
/-! MBOX_TX_SEND (14_host_link.md). -/
/-- `MBOX_TX_SEND.LEN`. -/
abbrev Fld.MBOX_TX_SEND_LEN : Fld := ⟨.MBOX_TX_SEND, 0, 32⟩
/-! MBOX_RX_ADDR (14_host_link.md). -/
/-- `MBOX_RX_ADDR.ADDR`. -/
abbrev Fld.MBOX_RX_ADDR_ADDR : Fld := ⟨.MBOX_RX_ADDR, 0, 52⟩
/-! MBOX_RX_LEN (14_host_link.md). -/
/-- `MBOX_RX_LEN.LEN`. -/
abbrev Fld.MBOX_RX_LEN_LEN : Fld := ⟨.MBOX_RX_LEN, 0, 32⟩
/-! MBOX_RX_POP (14_host_link.md). -/
/-- `MBOX_RX_POP.REPLY`. -/
abbrev Fld.MBOX_RX_POP_REPLY : Fld := ⟨.MBOX_RX_POP, 0, 32⟩
/-! MBOX_CH_STAT (14_host_link.md). -/
/-- `MBOX_CH_STAT.FULL`. -/
abbrev Fld.MBOX_CH_STAT_FULL : Fld := ⟨.MBOX_CH_STAT, 0, 1⟩
/-- `MBOX_CH_STAT.DROPPED`. -/
abbrev Fld.MBOX_CH_STAT_DROPPED : Fld := ⟨.MBOX_CH_STAT, 1, 1⟩
/-- `MBOX_CH_STAT.REPLY`. -/
abbrev Fld.MBOX_CH_STAT_REPLY : Fld := ⟨.MBOX_CH_STAT, 32, 32⟩
/-! INTC_PEND (14_host_link.md). -/
/-- `INTC_PEND.PEND`. -/
abbrev Fld.INTC_PEND_PEND : Fld := ⟨.INTC_PEND, 0, 32⟩
/-! INTC_MASK (14_host_link.md). -/
/-- `INTC_MASK.MASK`. -/
abbrev Fld.INTC_MASK_MASK : Fld := ⟨.INTC_MASK, 0, 32⟩
/-! INTC_GCTL (14_host_link.md). -/
/-- `INTC_GCTL.HOLDOFF`. -/
abbrev Fld.INTC_GCTL_HOLDOFF : Fld := ⟨.INTC_GCTL, 0, 20⟩
/-- `INTC_GCTL.HOLD`. -/
abbrev Fld.INTC_GCTL_HOLD : Fld := ⟨.INTC_GCTL, 31, 1⟩
/-- `INTC_GCTL.TIMER`. -/
abbrev Fld.INTC_GCTL_TIMER : Fld := ⟨.INTC_GCTL, 32, 20⟩
/-! INTC_ROUTE (14_host_link.md). -/
/-- `INTC_ROUTE.TARGET`. -/
abbrev Fld.INTC_ROUTE_TARGET : Fld := ⟨.INTC_ROUTE, 0, 64⟩
/-! INTC_CLAIM (14_host_link.md). -/
/-- `INTC_CLAIM.ID`. -/
abbrev Fld.INTC_CLAIM_ID : Fld := ⟨.INTC_CLAIM, 0, 10⟩
/-- `INTC_CLAIM.VALID`. -/
abbrev Fld.INTC_CLAIM_VALID : Fld := ⟨.INTC_CLAIM, 10, 1⟩
/-! INTC_COMPLETE (14_host_link.md). -/
/-- `INTC_COMPLETE.ID`. -/
abbrev Fld.INTC_COMPLETE_ID : Fld := ⟨.INTC_COMPLETE, 0, 10⟩
/-! INTC_HADDR (14_host_link.md). -/
/-- `INTC_HADDR.ADDR`. -/
abbrev Fld.INTC_HADDR_ADDR : Fld := ⟨.INTC_HADDR, 3, 49⟩
/-- `INTC_HADDR.ARMED`. -/
abbrev Fld.INTC_HADDR_ARMED : Fld := ⟨.INTC_HADDR, 63, 1⟩
/-! INTC_HDATA (14_host_link.md). -/
/-- `INTC_HDATA.DATA`. -/
abbrev Fld.INTC_HDATA_DATA : Fld := ⟨.INTC_HDATA, 0, 32⟩
/-! ROPE_CFG (15_rope.md). -/
/-- `ROPE_CFG.ID_BASE`. -/
abbrev Fld.ROPE_CFG_ID_BASE : Fld := ⟨.ROPE_CFG, 0, 11⟩
/-- `ROPE_CFG.PACE_JOB`. -/
abbrev Fld.ROPE_CFG_PACE_JOB : Fld := ⟨.ROPE_CFG, 16, 6⟩
/-- `ROPE_CFG.FWD_QUEUE`. -/
abbrev Fld.ROPE_CFG_FWD_QUEUE : Fld := ⟨.ROPE_CFG, 24, 6⟩
/-- `ROPE_CFG.STRAGGLE`. -/
abbrev Fld.ROPE_CFG_STRAGGLE : Fld := ⟨.ROPE_CFG, 32, 4⟩
/-- `ROPE_CFG.EXPEL_MAX`. -/
abbrev Fld.ROPE_CFG_EXPEL_MAX : Fld := ⟨.ROPE_CFG, 36, 4⟩
/-- `ROPE_CFG.TABLE_LEAD`. -/
abbrev Fld.ROPE_CFG_TABLE_LEAD : Fld := ⟨.ROPE_CFG, 40, 4⟩
/-- `ROPE_CFG.EXPEL_WINDOW`. -/
abbrev Fld.ROPE_CFG_EXPEL_WINDOW : Fld := ⟨.ROPE_CFG, 48, 16⟩
/-! ROPE_STATUS (15_rope.md). -/
/-- `ROPE_STATUS.LEAD`. -/
abbrev Fld.ROPE_STATUS_LEAD : Fld := ⟨.ROPE_STATUS, 0, 1⟩
/-- `ROPE_STATUS.FORMED`. -/
abbrev Fld.ROPE_STATUS_FORMED : Fld := ⟨.ROPE_STATUS, 1, 1⟩
/-- `ROPE_STATUS.OPEN`. -/
abbrev Fld.ROPE_STATUS_OPEN : Fld := ⟨.ROPE_STATUS, 2, 1⟩
/-- `ROPE_STATUS.LEAD_LOST`. -/
abbrev Fld.ROPE_STATUS_LEAD_LOST : Fld := ⟨.ROPE_STATUS, 3, 1⟩
/-- `ROPE_STATUS.FAULT`. -/
abbrev Fld.ROPE_STATUS_FAULT : Fld := ⟨.ROPE_STATUS, 4, 4⟩
/-- `ROPE_STATUS.POSITION`. -/
abbrev Fld.ROPE_STATUS_POSITION : Fld := ⟨.ROPE_STATUS, 8, 5⟩
/-- `ROPE_STATUS.MEMBERS`. -/
abbrev Fld.ROPE_STATUS_MEMBERS : Fld := ⟨.ROPE_STATUS, 16, 6⟩
/-- `ROPE_STATUS.MODULE_ID`. -/
abbrev Fld.ROPE_STATUS_MODULE_ID : Fld := ⟨.ROPE_STATUS, 32, 16⟩
/-- `ROPE_STATUS.ID_VALID`. -/
abbrev Fld.ROPE_STATUS_ID_VALID : Fld := ⟨.ROPE_STATUS, 48, 1⟩
/-! ROPE_BYPASS (15_rope.md). -/
/-- `ROPE_BYPASS.STATE`. -/
abbrev Fld.ROPE_BYPASS_STATE : Fld := ⟨.ROPE_BYPASS, 0, 2⟩
/-- `ROPE_BYPASS.INSERT`. -/
abbrev Fld.ROPE_BYPASS_INSERT : Fld := ⟨.ROPE_BYPASS, 2, 1⟩
/-- `ROPE_BYPASS.EXPELLED`. -/
abbrev Fld.ROPE_BYPASS_EXPELLED : Fld := ⟨.ROPE_BYPASS, 3, 1⟩
/-- `ROPE_BYPASS.MOVES`. -/
abbrev Fld.ROPE_BYPASS_MOVES : Fld := ⟨.ROPE_BYPASS, 32, 32⟩
/-! ROPE_TIMER (15_rope.md). -/
/-- `ROPE_TIMER.HB_PERIOD`. -/
abbrev Fld.ROPE_TIMER_HB_PERIOD : Fld := ⟨.ROPE_TIMER, 0, 24⟩
/-- `ROPE_TIMER.HB_MISS`. -/
abbrev Fld.ROPE_TIMER_HB_MISS : Fld := ⟨.ROPE_TIMER, 24, 4⟩
/-- `ROPE_TIMER.SETTLE`. -/
abbrev Fld.ROPE_TIMER_SETTLE : Fld := ⟨.ROPE_TIMER, 32, 16⟩
/-- `ROPE_TIMER.FORM_WAIT`. -/
abbrev Fld.ROPE_TIMER_FORM_WAIT : Fld := ⟨.ROPE_TIMER, 48, 16⟩
/-! ROPE_TIMER2 (15_rope.md). -/
/-- `ROPE_TIMER2.MARGIN_PERIOD`. -/
abbrev Fld.ROPE_TIMER2_MARGIN_PERIOD : Fld := ⟨.ROPE_TIMER2, 0, 32⟩
/-- `ROPE_TIMER2.FW_WAIT`. -/
abbrev Fld.ROPE_TIMER2_FW_WAIT : Fld := ⟨.ROPE_TIMER2, 32, 32⟩
/-! ROPE_MARGIN (15_rope.md). -/
/-- `ROPE_MARGIN.BASE`. -/
abbrev Fld.ROPE_MARGIN_BASE : Fld := ⟨.ROPE_MARGIN, 6, 46⟩
/-! ROPE_MARGIN_THR (15_rope.md). -/
/-- `ROPE_MARGIN_THR.SUPPLY`. -/
abbrev Fld.ROPE_MARGIN_THR_SUPPLY : Fld := ⟨.ROPE_MARGIN_THR, 0, 16⟩
/-- `ROPE_MARGIN_THR.EYE`. -/
abbrev Fld.ROPE_MARGIN_THR_EYE : Fld := ⟨.ROPE_MARGIN_THR, 16, 16⟩
/-- `ROPE_MARGIN_THR.DRAM`. -/
abbrev Fld.ROPE_MARGIN_THR_DRAM : Fld := ⟨.ROPE_MARGIN_THR, 32, 16⟩
/-- `ROPE_MARGIN_THR.OPTICAL`. -/
abbrev Fld.ROPE_MARGIN_THR_OPTICAL : Fld := ⟨.ROPE_MARGIN_THR, 48, 16⟩
/-! ROPE_ROUTE (15_rope.md). -/
/-- `ROPE_ROUTE.WEST`. -/
abbrev Fld.ROPE_ROUTE_WEST : Fld := ⟨.ROPE_ROUTE, 0, 32⟩
/-! ROPE_COUNT (15_rope.md). -/
/-- `ROPE_COUNT.EXPELLED`. -/
abbrev Fld.ROPE_COUNT_EXPELLED : Fld := ⟨.ROPE_COUNT, 0, 16⟩
/-- `ROPE_COUNT.REFUSED`. -/
abbrev Fld.ROPE_COUNT_REFUSED : Fld := ⟨.ROPE_COUNT, 16, 16⟩
/-- `ROPE_COUNT.TABLES`. -/
abbrev Fld.ROPE_COUNT_TABLES : Fld := ⟨.ROPE_COUNT, 32, 16⟩
/-! ROPE_FW_STATUS (15_rope.md). -/
/-- `ROPE_FW_STATUS.STATE`. -/
abbrev Fld.ROPE_FW_STATUS_STATE : Fld := ⟨.ROPE_FW_STATUS, 0, 3⟩
/-- `ROPE_FW_STATUS.REPAIRED`. -/
abbrev Fld.ROPE_FW_STATUS_REPAIRED : Fld := ⟨.ROPE_FW_STATUS, 16, 16⟩
/-- `ROPE_FW_STATUS.IMAGE_ID`. -/
abbrev Fld.ROPE_FW_STATUS_IMAGE_ID : Fld := ⟨.ROPE_FW_STATUS, 32, 32⟩
/-! ROPE_FW_CMD (15_rope.md). -/
/-- `ROPE_FW_CMD.ACTIVATE`. -/
abbrev Fld.ROPE_FW_CMD_ACTIVATE : Fld := ⟨.ROPE_FW_CMD, 0, 1⟩
/-- `ROPE_FW_CMD.DISCARD`. -/
abbrev Fld.ROPE_FW_CMD_DISCARD : Fld := ⟨.ROPE_FW_CMD, 1, 1⟩
/-! ROPE_FW_CHILD (15_rope.md). -/
/-- `ROPE_FW_CHILD.CHILD`. -/
abbrev Fld.ROPE_FW_CHILD_CHILD : Fld := ⟨.ROPE_FW_CHILD, 0, 64⟩
/-! ROPE_MEMBER (15_rope.md). -/
/-- `ROPE_MEMBER.STATE`. -/
abbrev Fld.ROPE_MEMBER_STATE : Fld := ⟨.ROPE_MEMBER, 0, 3⟩
/-- `ROPE_MEMBER.CAUSE`. -/
abbrev Fld.ROPE_MEMBER_CAUSE : Fld := ⟨.ROPE_MEMBER, 3, 3⟩
/-- `ROPE_MEMBER.MODULE_ID`. -/
abbrev Fld.ROPE_MEMBER_MODULE_ID : Fld := ⟨.ROPE_MEMBER, 16, 16⟩
/-- `ROPE_MEMBER.DELIVERED`. -/
abbrev Fld.ROPE_MEMBER_DELIVERED : Fld := ⟨.ROPE_MEMBER, 32, 32⟩
/-! BRINGUP_STEP (16_bringup.md). -/
/-- `BRINGUP_STEP.STEP`. -/
abbrev Fld.BRINGUP_STEP_STEP : Fld := ⟨.BRINGUP_STEP, 0, 4⟩
/-- `BRINGUP_STEP.READY`. -/
abbrev Fld.BRINGUP_STEP_READY : Fld := ⟨.BRINGUP_STEP, 4, 1⟩
/-- `BRINGUP_STEP.DONE`. -/
abbrev Fld.BRINGUP_STEP_DONE : Fld := ⟨.BRINGUP_STEP, 8, 4⟩
/-- `BRINGUP_STEP.RUNNING`. -/
abbrev Fld.BRINGUP_STEP_RUNNING : Fld := ⟨.BRINGUP_STEP, 12, 4⟩
/-- `BRINGUP_STEP.STATUS`. -/
abbrev Fld.BRINGUP_STEP_STATUS : Fld := ⟨.BRINGUP_STEP, 16, 8⟩
/-- `BRINGUP_STEP.ELAPSED`. -/
abbrev Fld.BRINGUP_STEP_ELAPSED : Fld := ⟨.BRINGUP_STEP, 32, 32⟩
/-! BRINGUP_CFG (16_bringup.md). -/
/-- `BRINGUP_CFG.MEMTEST`. -/
abbrev Fld.BRINGUP_CFG_MEMTEST : Fld := ⟨.BRINGUP_CFG, 0, 5⟩
/-- `BRINGUP_CFG.BER_EXP`. -/
abbrev Fld.BRINGUP_CFG_BER_EXP : Fld := ⟨.BRINGUP_CFG, 8, 8⟩
/-- `BRINGUP_CFG.NO_ROPE`. -/
abbrev Fld.BRINGUP_CFG_NO_ROPE : Fld := ⟨.BRINGUP_CFG, 16, 1⟩
/-- `BRINGUP_CFG.ROPE_WAIT`. -/
abbrev Fld.BRINGUP_CFG_ROPE_WAIT : Fld := ⟨.BRINGUP_CFG, 24, 8⟩
/-- `BRINGUP_CFG.LANE_SKIP`. -/
abbrev Fld.BRINGUP_CFG_LANE_SKIP : Fld := ⟨.BRINGUP_CFG, 32, 16⟩
/-- `BRINGUP_CFG.LANE_GBIT`. -/
abbrev Fld.BRINGUP_CFG_LANE_GBIT : Fld := ⟨.BRINGUP_CFG, 48, 8⟩
/-! RESET_CTL (16_bringup.md). -/
/-- `RESET_CTL.FULL`. -/
abbrev Fld.RESET_CTL_FULL : Fld := ⟨.RESET_CTL, 0, 1⟩
/-- `RESET_CTL.PDIE`. -/
abbrev Fld.RESET_CTL_PDIE : Fld := ⟨.RESET_CTL, 1, 1⟩
/-- `RESET_CTL.PSTATE`. -/
abbrev Fld.RESET_CTL_PSTATE : Fld := ⟨.RESET_CTL, 4, 2⟩
/-- `RESET_CTL.PCOUNT`. -/
abbrev Fld.RESET_CTL_PCOUNT : Fld := ⟨.RESET_CTL, 32, 32⟩
/-! FLOOR (16_bringup.md). -/
/-- `FLOOR.FAILED`. -/
abbrev Fld.FLOOR_FAILED : Fld := ⟨.FLOOR, 0, 64⟩
/-! FP_GEN (16_bringup.md). -/
/-- `FP_GEN.GEN`. -/
abbrev Fld.FP_GEN_GEN : Fld := ⟨.FP_GEN, 0, 32⟩
/-! LANE_RES (16_bringup.md). -/
/-- `LANE_RES.RESULT`. -/
abbrev Fld.LANE_RES_RESULT : Fld := ⟨.LANE_RES, 0, 64⟩
/-! D2D_RES (16_bringup.md). -/
/-- `D2D_RES.RESULT`. -/
abbrev Fld.D2D_RES_RESULT : Fld := ⟨.D2D_RES, 0, 16⟩
/-- `D2D_RES.ERRORS`. -/
abbrev Fld.D2D_RES_ERRORS : Fld := ⟨.D2D_RES, 32, 32⟩
/-! PWR_REQ (17_power_states.md). -/
/-- `PWR_REQ.TARGET`. -/
abbrev Fld.PWR_REQ_TARGET : Fld := ⟨.PWR_REQ, 0, 3⟩
/-! PWR_STATUS (17_power_states.md). -/
/-- `PWR_STATUS.STATE`. -/
abbrev Fld.PWR_STATUS_STATE : Fld := ⟨.PWR_STATUS, 0, 3⟩
/-- `PWR_STATUS.BUSY`. -/
abbrev Fld.PWR_STATUS_BUSY : Fld := ⟨.PWR_STATUS, 3, 1⟩
/-- `PWR_STATUS.PHASE`. -/
abbrev Fld.PWR_STATUS_PHASE : Fld := ⟨.PWR_STATUS, 4, 2⟩
/-- `PWR_STATUS.WAKE_CAUSE`. -/
abbrev Fld.PWR_STATUS_WAKE_CAUSE : Fld := ⟨.PWR_STATUS, 8, 4⟩
/-- `PWR_STATUS.WAKE_PORT`. -/
abbrev Fld.PWR_STATUS_WAKE_PORT : Fld := ⟨.PWR_STATUS, 16, 4⟩
/-- `PWR_STATUS.SERVICE`. -/
abbrev Fld.PWR_STATUS_SERVICE : Fld := ⟨.PWR_STATUS, 32, 1⟩
/-! PWR_WAKE (17_power_states.md). -/
/-- `PWR_WAKE.FURROW`. -/
abbrev Fld.PWR_WAKE_FURROW : Fld := ⟨.PWR_WAKE, 0, 1⟩
/-- `PWR_WAKE.FRAME`. -/
abbrev Fld.PWR_WAKE_FRAME : Fld := ⟨.PWR_WAKE, 1, 1⟩
/-- `PWR_WAKE.KEY`. -/
abbrev Fld.PWR_WAKE_KEY : Fld := ⟨.PWR_WAKE, 16, 16⟩
/-! PWR_REFUSE (17_power_states.md). -/
/-- `PWR_REFUSE.REFUSED`. -/
abbrev Fld.PWR_REFUSE_REFUSED : Fld := ⟨.PWR_REFUSE, 0, 16⟩
/-- `PWR_REFUSE.ABORTED`. -/
abbrev Fld.PWR_REFUSE_ABORTED : Fld := ⟨.PWR_REFUSE, 16, 16⟩
/-- `PWR_REFUSE.LAST_ID`. -/
abbrev Fld.PWR_REFUSE_LAST_ID : Fld := ⟨.PWR_REFUSE, 32, 10⟩
/-- `PWR_REFUSE.LAST_TARGET`. -/
abbrev Fld.PWR_REFUSE_LAST_TARGET : Fld := ⟨.PWR_REFUSE, 44, 3⟩
/-- `PWR_REFUSE.LAST_KIND`. -/
abbrev Fld.PWR_REFUSE_LAST_KIND : Fld := ⟨.PWR_REFUSE, 47, 1⟩
/-- `PWR_REFUSE.LAST_CHECK`. -/
abbrev Fld.PWR_REFUSE_LAST_CHECK : Fld := ⟨.PWR_REFUSE, 48, 4⟩
/-! ANCHOR_SERIAL (18_security_debug_errors.md). -/
/-- `ANCHOR_SERIAL.SERIAL`. -/
abbrev Fld.ANCHOR_SERIAL_SERIAL : Fld := ⟨.ANCHOR_SERIAL, 0, 64⟩
/-! ANCHOR_LC (18_security_debug_errors.md). -/
/-- `ANCHOR_LC.CURRENT`. -/
abbrev Fld.ANCHOR_LC_CURRENT : Fld := ⟨.ANCHOR_LC, 0, 3⟩
/-- `ANCHOR_LC.PENDING`. -/
abbrev Fld.ANCHOR_LC_PENDING : Fld := ⟨.ANCHOR_LC, 4, 3⟩
/-- `ANCHOR_LC.FLAGS`. -/
abbrev Fld.ANCHOR_LC_FLAGS : Fld := ⟨.ANCHOR_LC, 16, 12⟩
/-! ANCHOR_BOOT (18_security_debug_errors.md). -/
/-- `ANCHOR_BOOT.SLOT`. -/
abbrev Fld.ANCHOR_BOOT_SLOT : Fld := ⟨.ANCHOR_BOOT, 0, 2⟩
/-- `ANCHOR_BOOT.KEY`. -/
abbrev Fld.ANCHOR_BOOT_KEY : Fld := ⟨.ANCHOR_BOOT, 2, 2⟩
/-- `ANCHOR_BOOT.SVN`. -/
abbrev Fld.ANCHOR_BOOT_SVN : Fld := ⟨.ANCHOR_BOOT, 8, 7⟩
/-- `ANCHOR_BOOT.MIN_SVN`. -/
abbrev Fld.ANCHOR_BOOT_MIN_SVN : Fld := ⟨.ANCHOR_BOOT, 16, 7⟩
/-- `ANCHOR_BOOT.IMAGE_ID`. -/
abbrev Fld.ANCHOR_BOOT_IMAGE_ID : Fld := ⟨.ANCHOR_BOOT, 32, 32⟩
/-! ANCHOR_FWREV (18_security_debug_errors.md). -/
/-- `ANCHOR_FWREV.REVISION`. -/
abbrev Fld.ANCHOR_FWREV_REVISION : Fld := ⟨.ANCHOR_FWREV, 0, 32⟩
/-! ANCHOR_IDKEY (18_security_debug_errors.md). -/
/-- `ANCHOR_IDKEY.DIGEST`. -/
abbrev Fld.ANCHOR_IDKEY_DIGEST : Fld := ⟨.ANCHOR_IDKEY, 0, 64⟩
/-! ANCHOR_CMD (18_security_debug_errors.md). -/
/-- `ANCHOR_CMD.OP`. -/
abbrev Fld.ANCHOR_CMD_OP : Fld := ⟨.ANCHOR_CMD, 0, 4⟩
/-- `ANCHOR_CMD.INDEX`. -/
abbrev Fld.ANCHOR_CMD_INDEX : Fld := ⟨.ANCHOR_CMD, 8, 4⟩
/-- `ANCHOR_CMD.BUSY`. -/
abbrev Fld.ANCHOR_CMD_BUSY : Fld := ⟨.ANCHOR_CMD, 16, 1⟩
/-- `ANCHOR_CMD.STATUS`. -/
abbrev Fld.ANCHOR_CMD_STATUS : Fld := ⟨.ANCHOR_CMD, 24, 8⟩
/-! ANCHOR_ARG (18_security_debug_errors.md). -/
/-- `ANCHOR_ARG.ADDR`. -/
abbrev Fld.ANCHOR_ARG_ADDR : Fld := ⟨.ANCHOR_ARG, 0, 52⟩
/-! ANCHOR_DATA (18_security_debug_errors.md). -/
/-- `ANCHOR_DATA.DATA`. -/
abbrev Fld.ANCHOR_DATA_DATA : Fld := ⟨.ANCHOR_DATA, 0, 64⟩
/-! ANCHOR_RNG (18_security_debug_errors.md). -/
/-- `ANCHOR_RNG.RANDOM`. -/
abbrev Fld.ANCHOR_RNG_RANDOM : Fld := ⟨.ANCHOR_RNG, 0, 64⟩
/-! ANCHOR_MEAS (18_security_debug_errors.md). -/
/-- `ANCHOR_MEAS.VALUE`. -/
abbrev Fld.ANCHOR_MEAS_VALUE : Fld := ⟨.ANCHOR_MEAS, 0, 64⟩
/-! DBG_LEVEL (18_security_debug_errors.md). -/
/-- `DBG_LEVEL.LEVEL`. -/
abbrev Fld.DBG_LEVEL_LEVEL : Fld := ⟨.DBG_LEVEL, 0, 2⟩
/-- `DBG_LEVEL.OWNER`. -/
abbrev Fld.DBG_LEVEL_OWNER : Fld := ⟨.DBG_LEVEL, 16, 10⟩
/-- `DBG_LEVEL.FAILS`. -/
abbrev Fld.DBG_LEVEL_FAILS : Fld := ⟨.DBG_LEVEL, 32, 4⟩
/-- `DBG_LEVEL.LOCKOUT`. -/
abbrev Fld.DBG_LEVEL_LOCKOUT : Fld := ⟨.DBG_LEVEL, 36, 1⟩
/-- `DBG_LEVEL.UNLOCKS`. -/
abbrev Fld.DBG_LEVEL_UNLOCKS : Fld := ⟨.DBG_LEVEL, 48, 16⟩
/-! DBG_UNLOCK (18_security_debug_errors.md). -/
/-- `DBG_UNLOCK.NEW`. -/
abbrev Fld.DBG_UNLOCK_NEW : Fld := ⟨.DBG_UNLOCK, 0, 1⟩
/-- `DBG_UNLOCK.SUBMIT`. -/
abbrev Fld.DBG_UNLOCK_SUBMIT : Fld := ⟨.DBG_UNLOCK, 1, 1⟩
/-- `DBG_UNLOCK.LOCK`. -/
abbrev Fld.DBG_UNLOCK_LOCK : Fld := ⟨.DBG_UNLOCK, 2, 1⟩
/-- `DBG_UNLOCK.TARGET`. -/
abbrev Fld.DBG_UNLOCK_TARGET : Fld := ⟨.DBG_UNLOCK, 4, 2⟩
/-- `DBG_UNLOCK.STATUS`. -/
abbrev Fld.DBG_UNLOCK_STATUS : Fld := ⟨.DBG_UNLOCK, 8, 8⟩
/-! DBG_SEL (18_security_debug_errors.md). -/
/-- `DBG_SEL.ID`. -/
abbrev Fld.DBG_SEL_ID : Fld := ⟨.DBG_SEL, 0, 11⟩
/-- `DBG_SEL.KIND`. -/
abbrev Fld.DBG_SEL_KIND : Fld := ⟨.DBG_SEL, 12, 1⟩
/-! DBG_CTL (18_security_debug_errors.md). -/
/-- `DBG_CTL.HALT`. -/
abbrev Fld.DBG_CTL_HALT : Fld := ⟨.DBG_CTL, 0, 1⟩
/-- `DBG_CTL.RESUME`. -/
abbrev Fld.DBG_CTL_RESUME : Fld := ⟨.DBG_CTL, 1, 1⟩
/-- `DBG_CTL.STEP`. -/
abbrev Fld.DBG_CTL_STEP : Fld := ⟨.DBG_CTL, 2, 1⟩
/-- `DBG_CTL.HELD`. -/
abbrev Fld.DBG_CTL_HELD : Fld := ⟨.DBG_CTL, 8, 1⟩
/-- `DBG_CTL.HELD_COUNT`. -/
abbrev Fld.DBG_CTL_HELD_COUNT : Fld := ⟨.DBG_CTL, 32, 12⟩
/-! DBG_REG_SEL (18_security_debug_errors.md). -/
/-- `DBG_REG_SEL.FILE`. -/
abbrev Fld.DBG_REG_SEL_FILE : Fld := ⟨.DBG_REG_SEL, 0, 3⟩
/-- `DBG_REG_SEL.INDEX`. -/
abbrev Fld.DBG_REG_SEL_INDEX : Fld := ⟨.DBG_REG_SEL, 4, 12⟩
/-- `DBG_REG_SEL.LANE`. -/
abbrev Fld.DBG_REG_SEL_LANE : Fld := ⟨.DBG_REG_SEL, 16, 5⟩
/-! DBG_BP_CTL (18_security_debug_errors.md). -/
/-- `DBG_BP_CTL.EN`. -/
abbrev Fld.DBG_BP_CTL_EN : Fld := ⟨.DBG_BP_CTL, 0, 1⟩
/-- `DBG_BP_CTL.KIND`. -/
abbrev Fld.DBG_BP_CTL_KIND : Fld := ⟨.DBG_BP_CTL, 1, 2⟩
/-- `DBG_BP_CTL.CTXMASK`. -/
abbrev Fld.DBG_BP_CTL_CTXMASK : Fld := ⟨.DBG_BP_CTL, 4, 4⟩
/-- `DBG_BP_CTL.RANGE`. -/
abbrev Fld.DBG_BP_CTL_RANGE : Fld := ⟨.DBG_BP_CTL, 8, 6⟩
/-! DBG_MEM_CMD (18_security_debug_errors.md). -/
/-- `DBG_MEM_CMD.OP`. -/
abbrev Fld.DBG_MEM_CMD_OP : Fld := ⟨.DBG_MEM_CMD, 0, 2⟩
/-- `DBG_MEM_CMD.SIZE`. -/
abbrev Fld.DBG_MEM_CMD_SIZE : Fld := ⟨.DBG_MEM_CMD, 2, 1⟩
/-- `DBG_MEM_CMD.INC`. -/
abbrev Fld.DBG_MEM_CMD_INC : Fld := ⟨.DBG_MEM_CMD, 3, 1⟩
/-- `DBG_MEM_CMD.BUSY`. -/
abbrev Fld.DBG_MEM_CMD_BUSY : Fld := ⟨.DBG_MEM_CMD, 8, 1⟩
/-- `DBG_MEM_CMD.STATUS`. -/
abbrev Fld.DBG_MEM_CMD_STATUS : Fld := ⟨.DBG_MEM_CMD, 16, 8⟩
/-! ERR_SUMMARY (18_security_debug_errors.md). -/
/-- `ERR_SUMMARY.DETECTED`. -/
abbrev Fld.ERR_SUMMARY_DETECTED : Fld := ⟨.ERR_SUMMARY, 0, 16⟩
/-! ERR_IRQ_EN (18_security_debug_errors.md). -/
/-- `ERR_IRQ_EN.EN`. -/
abbrev Fld.ERR_IRQ_EN_EN : Fld := ⟨.ERR_IRQ_EN, 0, 16⟩
/-! ERR_VIOL (18_security_debug_errors.md). -/
/-- `ERR_VIOL.CLASS`. -/
abbrev Fld.ERR_VIOL_CLASS : Fld := ⟨.ERR_VIOL, 0, 8⟩
/-- `ERR_VIOL.COUNT`. -/
abbrev Fld.ERR_VIOL_COUNT : Fld := ⟨.ERR_VIOL, 32, 32⟩
/-! ERR_VIOL_FIRST (18_security_debug_errors.md). -/
/-- `ERR_VIOL_FIRST.ADDR`. -/
abbrev Fld.ERR_VIOL_FIRST_ADDR : Fld := ⟨.ERR_VIOL_FIRST, 0, 50⟩
/-- `ERR_VIOL_FIRST.MASTER`. -/
abbrev Fld.ERR_VIOL_FIRST_MASTER : Fld := ⟨.ERR_VIOL_FIRST, 50, 10⟩
/-- `ERR_VIOL_FIRST.CLASS`. -/
abbrev Fld.ERR_VIOL_FIRST_CLASS : Fld := ⟨.ERR_VIOL_FIRST, 60, 3⟩
/-- `ERR_VIOL_FIRST.WRITE`. -/
abbrev Fld.ERR_VIOL_FIRST_WRITE : Fld := ⟨.ERR_VIOL_FIRST, 63, 1⟩
/-! ERR_FAB (18_security_debug_errors.md). -/
/-- `ERR_FAB.FABRIC`. -/
abbrev Fld.ERR_FAB_FABRIC : Fld := ⟨.ERR_FAB, 0, 32⟩
/-- `ERR_FAB.D2D`. -/
abbrev Fld.ERR_FAB_D2D : Fld := ⟨.ERR_FAB, 32, 32⟩
/-! ERR_INJ (18_security_debug_errors.md). -/
/-- `ERR_INJ.DETECTOR`. -/
abbrev Fld.ERR_INJ_DETECTOR : Fld := ⟨.ERR_INJ, 0, 4⟩
/-- `ERR_INJ.PARAM`. -/
abbrev Fld.ERR_INJ_PARAM : Fld := ⟨.ERR_INJ, 4, 4⟩
/-- `ERR_INJ.TARGET`. -/
abbrev Fld.ERR_INJ_TARGET : Fld := ⟨.ERR_INJ, 8, 10⟩
/-- `ERR_INJ.MODE`. -/
abbrev Fld.ERR_INJ_MODE : Fld := ⟨.ERR_INJ, 18, 2⟩
/-- `ERR_INJ.ARM`. -/
abbrev Fld.ERR_INJ_ARM : Fld := ⟨.ERR_INJ, 32, 1⟩
/-- `ERR_INJ.ARMED`. -/
abbrev Fld.ERR_INJ_ARMED : Fld := ⟨.ERR_INJ, 33, 1⟩
/-- `ERR_INJ.FIRED`. -/
abbrev Fld.ERR_INJ_FIRED : Fld := ⟨.ERR_INJ, 48, 16⟩
/-! DBG_CHAL (18_security_debug_errors.md). -/
/-- `DBG_CHAL.VALUE`. -/
abbrev Fld.DBG_CHAL_VALUE : Fld := ⟨.DBG_CHAL, 0, 64⟩
/-! DBG_TOKEN (18_security_debug_errors.md). -/
/-- `DBG_TOKEN.VALUE`. -/
abbrev Fld.DBG_TOKEN_VALUE : Fld := ⟨.DBG_TOKEN, 0, 64⟩
/-! DBG_REG_DATA (18_security_debug_errors.md). -/
/-- `DBG_REG_DATA.VALUE`. -/
abbrev Fld.DBG_REG_DATA_VALUE : Fld := ⟨.DBG_REG_DATA, 0, 64⟩
/-! DBG_BP_ADDR (18_security_debug_errors.md). -/
/-- `DBG_BP_ADDR.VALUE`. -/
abbrev Fld.DBG_BP_ADDR_VALUE : Fld := ⟨.DBG_BP_ADDR, 0, 64⟩
/-! DBG_MEM_ADDR (18_security_debug_errors.md). -/
/-- `DBG_MEM_ADDR.ADDR`. -/
abbrev Fld.DBG_MEM_ADDR_ADDR : Fld := ⟨.DBG_MEM_ADDR, 0, 52⟩
/-! DBG_MEM_DATA (18_security_debug_errors.md). -/
/-- `DBG_MEM_DATA.VALUE`. -/
abbrev Fld.DBG_MEM_DATA_VALUE : Fld := ⟨.DBG_MEM_DATA, 0, 64⟩
/-! P_COUNTER (01_sample_path.md). -/
/-- `P_COUNTER.VALUE`. -/
abbrev Fld.P_COUNTER_VALUE : Fld := ⟨.P_COUNTER, 0, 64⟩
/-! X_COUNTER (01_sample_path.md). -/
/-- `X_COUNTER.VALUE`. -/
abbrev Fld.X_COUNTER_VALUE : Fld := ⟨.X_COUNTER, 0, 64⟩
/-! ANCHOR_RCV (18_security_debug_errors.md). -/
/-- `ANCHOR_RCV.DATA`. -/
abbrev Fld.ANCHOR_RCV_DATA : Fld := ⟨.ANCHOR_RCV, 0, 64⟩

/-- How many copies the dimensions make. -/
def dimsCount : List Dim → Nat
  | [] => 1
  | .die :: r => 6 * dimsCount r
  | .step n _ :: r => n * dimsCount r

/-- The offset of copy `i` within the dimensions; the copies are numbered outermost first. Die `d` of DIE_CTL is
P-die `d` for 0 to 3 and X-die `d - 4` for 4 and 5 (R7, R47). -/
def dimsOff : List Dim → Nat → Nat
  | [], _ => 0
  | .die :: r, i =>
    let d := i / dimsCount r
    (if d < 4 then d + 1 else d + 4) * 0x1000000 + dimsOff r (i % dimsCount r)
  | .step _ st :: r, i => i / dimsCount r * st + dimsOff r (i % dimsCount r)

/-- The copy that stands at offset `o` within the dimensions. -/
def dimsFind : List Dim → Nat → Option Nat
  | [], o => if o = 0 then some 0 else none
  | .die :: r, o =>
    let q := o / 0x1000000
    let d := if q ≤ 4 then q - 1 else q - 4
    if q = 0 ∨ (4 < q ∧ q < 8) ∨ 9 < q then none
    else (dimsFind r (o % 0x1000000)).map (fun j => d * dimsCount r + j)
  | .step n st :: r, o =>
    if o / st < n then (dimsFind r (o % st)).map (fun j => o / st * dimsCount r + j) else none

/-- The number of copies of a register. -/
def Reg.count (r : Reg) : Nat := dimsCount r.dims

/-- The CSR offset of copy `i` of a register. -/
def Reg.off (r : Reg) (i : Nat) : Nat := r.base + dimsOff r.dims i

/-- The register and copy at an 8-byte aligned CSR offset. -/
def Reg.at? (o : Nat) : Option (Reg × Nat) :=
  Reg.all.findSome? (fun r => if o < r.base then none else (dimsFind r.dims (o - r.base)).map (fun i => (r, i)))

/-- The key under which State holds copy `i` of a register (a model's own numbering: register, then copy). -/
def Reg.key (r : Reg) (i : Nat) : Nat := r.ctorIdx * 65536 + i

/-- What an unlisted CSR key reads as: the register's reset value. -/
def csrDefault (k : Nat) : Word :=
  match Reg.all[k / 65536]? with
  | some r => r.reset (k % 65536)
  | none => 0

/-- The bits of one field, as a mask of a 64-bit word. -/
def FieldRow.mask (f : FieldRow) : Word := BitVec.ofNat 64 ((2 ^ f.width - 1) <<< f.lo)

/-- The bits of a register that carry an access code. -/
def Reg.maskOf (r : Reg) (a : Access) : Word :=
  (r.fields.filter (fun f => f.access == a)).foldl (fun m f => m ||| f.mask) 0

end Sys2Proof.Machine
end

