-- ==== Sys2Proof/Machine/State.lean ====
section
/-!
DEFINITION. The state of the DN7240 block: plain data only. Each group cites the chapter that names it.
-/
namespace Sys2Proof.Machine

/-- The reasons a run stops with a fault. The spec describes none for this part (every refused access, failed job and
stopped context is a next state), so no command raises one. -/
inductive Fault where
  /-- Raised by no command; kept so that the type is not empty. Safe. -/
  | none
  deriving DecidableEq, Repr

/-- The reasons a command has no meaning. -/
inductive Refusal where
  /-- Raised only by an arm of `exec` whose command has no meaning yet. Safe. -/
  | notModelled (mnemonic : String)
  deriving DecidableEq, Repr

/-! ## Tiles and management cores (chapters 03, 04, 05) -/

/-- `CTX_CTL.STATE` (03_tiles, Context states). -/
inductive CtxState where
  | idle | running | waiting | stopped | replaying
  deriving DecidableEq, Repr

/-- The step mark of R87: the address of the next instruction and a copy of s1 to s15. -/
structure Mark where
  pc : Word
  regs : List Word
  deriving DecidableEq, Repr

/-- What a WAITING context waits for (R144, R151). -/
inductive Wait where
  | counter (name target : Nat)
  | barrier (id : Nat)
  deriving DecidableEq, Repr

/-- A hardware context (R80, R87, R98, R114). `out` lists the engine jobs enqueued since the mark and not ended;
`stopReq` is a STOP not yet in effect (R94); `quantumEnd` a quantum end waiting for its boundary (R102);
`reread` is 1 while a code line must be read again and 2 once it has been (R90); `failAddr` the address of the failed
read or fetch (R88, R90, R98); `skipBp` the one instruction issued without KIND 0 tests (R509);
`held` the debug hold (R508), `byMatch` that a comparator's match made it (R509); `haltReq` says that the stop requested is a HALT (R508). -/
structure Ctx where
  st : CtxState := .idle
  s : Cells Word := []
  v : Cells (BitVec 1024) := []
  p : Cells (BitVec 32) := []
  pc : Word := 0
  cause : Nat := 0
  badaddr : Word := 0
  mark : Option Mark := none
  attempt : Nat := 0
  out : List Nat := []
  wait : Option Wait := none
  stopReq : Bool := false
  quantumEnd : Bool := false
  reread : Nat := 0
  failAddr : Word := 0
  held : Bool := false
  byMatch : Bool := false
  haltReq : Bool := false
  skipBp : Bool := false
  deriving DecidableEq, Repr

/-- A weight buffer (R160 to R162): format and mode, the stored element rows, the 2:4 index rows, the scale rows, the
sub-blocks that exist, and the zero mark of an absent block. -/
structure WBuf where
  fmt : Nat := 0
  mode : Nat := 0
  zero : Bool := false
  sub : Nat := 15
  rows : List (List Byte) := List.replicate 32 (List.replicate 32 0)
  meta24 : List (List Byte) := []
  scales : List (List Byte) := []
  deriving DecidableEq, Repr

/-- A stook barrier (R151): the fixed mask and the contexts that have arrived; idle when `mask` is 0. -/
structure Barrier where
  mask : Nat := 0
  arrived : Nat := 0
  deriving DecidableEq, Repr

/-- A management core (R153 to R155). `inReset` is set until the anchor releases the core (R495) or while R470 holds
it; `waiting` is the counter and target of a waitc; `held` and `byMatch` as of a context. -/
structure Mc where
  s : Cells Word := []
  pc : Word := 0
  tvec : Word := 0
  epc : Word := 0
  ecause : Nat := 0
  ebadaddr : Word := 0
  ie : Nat := 0
  waiting : Option (Nat × Nat) := none
  inReset : Bool := true
  held : Bool := false
  byMatch : Bool := false
  skipBp : Bool := false
  deriving DecidableEq, Repr

/-- A debug comparator (R509): its ADDR and its control word. -/
structure Bp where
  addr : Word := 0
  ctl : Word := 0
  deriving DecidableEq, Repr

/-- A program image that firmware placed (R25, R90): job and program, tile, load offset, length, DRAM address, offset of the
argument area. -/
structure CodeImage where
  job : Nat
  prog : Nat
  tile : Nat
  load : Nat
  len : Nat
  dram : Nat
  arg : Nat
  deriving DecidableEq, Repr

/-! ## Engine jobs (R49, R140, R141) -/

/-- Where a job stands: waiting to start, held by a gate, running, or with a final outcome whose record and increment
are still to come (an aborted job, or a job of a failed unit). -/
inductive JobPhase where
  | waiting | held | running | ended
  deriving DecidableEq, Repr

/-- One job: its model number, the descriptor copy, the context that enqueued it, whether it has started, and, once
started, the outcome: status, transferred length, the 16 engine-specific record bytes, the writes still to be
performed in order (`cut`: only a free first part of each), SRAM words then stored with inverted parity (`inv`, R324),
and engine notes (`aux`) that its end uses. -/
structure Job where
  seq : Nat
  desc : List Byte
  origin : Option Nat := none
  phase : JobPhase := .waiting
  status : Nat := 0
  xfer : Nat := 0
  eng : List Byte := []
  writes : List (Nat × List Byte) := []
  cut : Bool := false
  inv : List Nat := []
  aux : List Nat := []
  deriving DecidableEq, Repr

/-! ## Host link (chapter 14) -/

/-- A message of Adeop Link (R406) that the device has sent. -/
structure HostMsg where
  link : Nat
  opcode : Nat
  tag : Nat
  addr : Nat
  mask : Nat := 0
  granted : Nat := 0
  poison : Bool := false
  status : Nat := 0
  data : List Byte := []
  deriving DecidableEq, Repr

/-- An outstanding device request to host memory (R406, R408): RD_UC (0x03) or WR_UC (0x05), with the master that
waits for a read. -/
structure DevReq where
  link : Nat
  tag : Nat
  opcode : Nat
  line : Nat
  master : Nat
  deriving DecidableEq, Repr

/-- A host line that a device read has received and not yet used. -/
structure HostLine where
  master : Nat
  line : Nat
  poison : Bool
  data : List Byte
  deriving DecidableEq, Repr

/-- A snoop filter entry (R409): the line, whether the host holds it E or M (else S), its place in the order of
allocation. -/
structure SnoopEntry where
  line : Nat
  excl : Bool
  order : Nat
  deriving DecidableEq, Repr

/-- An outstanding snoop (R409 to R411): SNP_INV (0x21) or SNP_DATA (0x22), the link whose first request waits for it to
free a way, if one does, and whether it waits for the writeback of the line. -/
structure Snoop where
  link : Nat
  tag : Nat
  opcode : Nat
  line : Nat
  waiter : Option Nat := none
  wbWait : Bool := false
  deriving DecidableEq, Repr

/-- A message of the device that waits for a tag (R406): a request to host memory (0x03, 0x05) with its master, qword mask
and data, or a snoop (0x21, 0x22) with the link whose request waits for it. -/
structure TagWait where
  opcode : Nat
  line : Nat
  link : Option Nat := none
  master : Nat := 0
  mask : Nat := 0
  data : List Byte := []
  waiter : Option Nat := none
  deriving DecidableEq, Repr

/-- A flit the device sends (R403): its TYPE, its SEQ, the highest SEQ received in order, the REQ credits it returns, and the
message a payload flit holds. `ack` of a REPLAY_REQ is the SEQ asked for. -/
structure HostFlit where
  link : Nat
  type : Nat
  seq : Nat := 0
  ack : Option Nat := none
  req : Nat := 0
  msg : Option HostMsg := none
  deriving DecidableEq, Repr

/-- The flit layer of one link (R403 to R407): the next payload SEQ, the retry buffer, messages waiting for a credit or
for room, the next SEQ expected and whether one has come, whether flits are being discarded until it comes, the slots of a
message that is not whole yet, the requests received and not yet performed in order, the credits left, the REQ credits to be
returned, and whether an acknowledgement is due. -/
structure LinkSt where
  txSeq : Nat := 0
  retry : List HostFlit := []
  txWait : List HostMsg := []
  rxExpect : Nat := 0
  rxAny : Bool := false
  discarding : Bool := false
  rxPart : List Byte := []
  rxQueue : List HostMsg := []
  reqCred : Nat := 0
  snpCred : Nat := 0
  reqOwed : Nat := 0
  ackDue : Bool := false
  deriving DecidableEq, Repr

/-! ## Jobs and replacement (chapters 01 and 07) -/

/-- An instance of a program (R23 to R25): program, instance number, hardware context and slice. -/
structure Placed where
  prog : Nat
  inst : Nat
  ctx : Nat
  slice : Nat
  deriving DecidableEq, Repr

/-- An instance that firmware slicing has switched out (R25, R101): job, program, instance, the hardware context that it
shares, its context, the tile SRAM that is its own (offset and bytes) with the words of it that have bad parity, the accumulators. -/
structure Parked where
  job : Nat
  prog : Nat
  inst : Nat
  ctx : Nat
  saved : Ctx
  win : Word
  ctl : Word
  sram : List (Nat × List Byte)
  acc : List (Nat × List Byte)
  badWords : List Nat := []
  deriving DecidableEq, Repr

/-- A loaded job (R20 to R25): its ID, the descriptor's address and bytes, the instances placed on contexts, and those
left to firmware slicing (program, instance). -/
structure LoadedJob where
  id : Nat
  addr : Nat
  desc : List Byte
  placed : List Placed := []
  sliced : List (Nat × Nat) := []
  deriving DecidableEq, Repr

/-- Where a replacement attempt stands (R229, R231, R232): to be computed, a request sent, processed by this module, or
all 15 failed. -/
inductive TryPhase where
  | due | sent | here | void
  deriving DecidableEq, Repr

/-- A replacement attempt in progress (R229): at most one per position. -/
structure ReplTry where
  job : Nat
  position : Nat
  attempt : Nat
  phase : TryPhase
  tag : Nat := 0
  dest : Nat := 0
  alternate : Option Nat := none
  index : Nat := 0
  deriving DecidableEq, Repr

/-- A slot whose replacement is final (R46, R232): filled, or void. -/
structure ReplSlot where
  job : Nat
  position : Nat
  filled : Bool
  deriving DecidableEq, Repr

/-! ## Network (chapters 12 and 13) -/

/-- A RoCE v2 request packet as sent (R386): place in its message, PSN, remote QPN, and for a first or only packet the
address, key and DMA length; immediate; payload; P_Key. -/
structure RocePkt where
  first : Bool
  last : Bool
  psn : Nat
  qpn : Nat
  va : Nat
  rkey : Nat
  dmaLen : Nat
  imm : Option Nat
  data : List Byte
  pkey : Nat := 0
  deriving DecidableEq, Repr

/-- What a frame carries. -/
inductive Packet where
  | furrow (h : FurHdr) (payload : List Byte)
  | roce (p : RocePkt)
  | rope (h : RopeHdr) (payload : List Byte)
  /-- A neighbour's report to the lead that the segment eastward of a position is down or up (R443). The spec gives it no format. -/
  | segment (pos : Nat) (down : Bool)
  deriving DecidableEq, Repr

/-- A frame on its way out: X-die, scheduler, interface, egress queue, bytes from destination MAC through FCS, IP
version, next-hop MAC, destination IP, UDP source port, DSCP; `cross` marks a frame that crosses the fabric path to the
rope port of the other X-die (R436). Source IP, own MAC, UDP destination port (R356, R357); the key of the source that waits
while a frame of it waits (R391); the seven bytes of link-level replay, where the interface runs it (R353); a CE mark in place of
ECT(0), on a frame that goes on as it came (R436). -/
structure Frame where
  x : Nat
  sched : Nat
  iface : Nat
  queue : Nat
  len : Nat
  v6 : Bool
  mac : List Byte
  dst : List Byte
  sport : Nat
  dscp : Nat
  pkt : Packet
  cross : Bool := false
  src : List Byte := []
  smac : List Byte := []
  dport : Nat := 0
  source : Nat := 0
  pre : List Byte := []
  ce : Bool := false
  ackQ : Bool := false
  deriving DecidableEq, Repr

/-- How the route of a packet is found: from the destination's interface mask (R360); by the fabric path of R367; out of the rope
port of its X-die to a member (R434, R437) or hop by hop to ff02::1; or onward out of the other X-die's rope port with the
addresses, the UDP source port and the CE mark it came with (R436). -/
inductive RouteSel where
  | mask
  | fabric
  | rope
  | hop
  | onward (src dst : List Byte) (sport : Nat) (ce : Bool)
  deriving DecidableEq, Repr

/-- A Furrow or rope packet on its way to an egress queue: X-die, destination and its engine, route, egress queue (none for the
ACK queue of the route's scheduler, R390), DSCP, message ID + packet + resends (R360), packet, source (R391). -/
structure PktOut where
  x : Nat
  dst : Nat
  engine : Bool
  route : RouteSel
  queue : Option Nat
  dscp : Nat
  n : Nat
  pkt : Packet
  source : Nat
  deriving DecidableEq, Repr

/-- What the device does that nothing waits for and that itself waits for a snoop response, a host line or the end of a partial
reset (R408, R410, R474): a write of a master, an event of an X-die's ring (R385), a packet whose address-table lines are to
be read (R356). -/
inductive HeldWrite where
  | put (master addr : Nat) (data : List Byte)
  | event (x : Nat) (data : List Byte)
  | packet (p : PktOut)
  | submit (x w master addr : Nat)
  | furrow (x addr : Nat)
  deriving DecidableEq, Repr

/-- An egress queue (R390 to R397): frames, head tag, Fq, Dq, shaper tokens in centibytes. -/
structure SchedQ where
  frames : List Frame := []
  tag : Nat := 0
  fq : Nat := 0
  dq : Nat := 0
  tokens : Int := 0
  deriving DecidableEq, Repr

/-- A scheduler: virtual time V, the queue of the rotation last visited and whether its visit goes on, port tokens. -/
structure SchedSt where
  v : Nat := 0
  cur : Nat := 63
  visiting : Bool := false
  tokens : Int := 0
  deriving DecidableEq, Repr

/-- An interface (R352, R353): next sequence number, retry buffer, next number expected, discarding until it comes, and
XCLK cycles since its last FEC_UNCORRECTABLE event. -/
structure PortIf where
  txSeq : Nat := 0
  retry : List (Nat × Frame) := []
  rxExpect : Nat := 0
  discarding : Bool := false
  quiet : Nat := 1250000
  deriving DecidableEq, Repr

/-- A request of a queue pair (R249, R388): the baler and job that issued it, first PSN, packets, address, key, data,
immediate. -/
structure RoceReq where
  die : Nat
  seq : Nat
  psn : Nat
  count : Nat
  va : Nat
  rkey : Nat
  data : List Byte
  imm : Option Nat
  deriving DecidableEq, Repr

/-- A queue pair (R387, R388): 0 RESET, 1 RTS, 2 ERROR; the status that led to ERROR; the context read at ACTIVATE; the
next PSN, requests not acknowledged, retries left, whether it waits for an RNR timer, and the pacing rate of R383; next-hop
MAC and own IP address as read at ACTIVATE. -/
structure Qp where
  st : Nat := 0
  err : Nat := 0
  ctx : List Byte := []
  mac : List Byte := []
  src : List Byte := []
  psn : Nat := 0
  una : Nat := 0
  reqs : List RoceReq := []
  retry : Nat := 0
  rnr : Nat := 0
  rnrWait : Bool := false
  rate : Nat := 0
  deriving DecidableEq, Repr

/-- A Furrow key (R368 to R370): 0 FREE, 1 VALID, 2 REVOKING. -/
structure FurKey where
  st : Nat := 0
  gen : Nat := 0
  rights : Nat := 0
  countEn : Bool := false
  counter : Nat := 0
  base : Nat := 0
  len : Nat := 0
  inFlight : Nat := 0
  deriving DecidableEq, Repr

/-- A data packet of a message at its sender (R361 to R363): times resent for want of an ACK, NO_BUFFER and NOT_READY NAKs drawn,
whether it waits for RNR_DELAY, times resent for any cause (R360). -/
structure TxPkt where
  k : Nat
  acked : Bool := false
  resent : Nat := 0
  rnr : Nat := 0
  waiting : Bool := false
  again : Nat := 0
  deriving DecidableEq, Repr

/-- A message at its sender (R360 to R364, R379): for a READ the packets are its READ_REQ, and `got` the response
packets written. `resp` marks a message that answers a READ_REQ, `unsent` one that waits for room in the destination table
(R382), `repl` a replacement request or reply (R230). -/
structure FurMsg where
  id : Nat
  type : Nat
  dst : Nat
  dstEngine : Bool
  seq : Nat
  total : Nat
  key : Nat := 0
  remote : Nat := 0
  rq : Nat := 0
  job : Nat := 0
  sq : Nat := 0
  payload : List Byte := []
  pkts : List TxPkt := []
  got : Nat := 0
  old : Nat := 0
  resends : Nat := 0
  notReady : Bool := false
  resp : Bool := false
  unsent : Bool := false
  repl : Bool := false
  deriving DecidableEq, Repr

/-- A receive entry (R364 to R366, R372): its message, bitmap, DONE, the old value of an ATOMIC_ADD, and whether a packet of its
source engine has carried a low mark that its message precedes. -/
structure RxEntry where
  src : Nat
  eng : Bool
  msg : Nat
  type : Nat
  total : Nat
  bitmap : Nat := 0
  done : Bool := false
  old : Nat := 0
  passed : Bool := false
  deriving DecidableEq, Repr

/-- A write of a received packet that has passed its checks and is not yet performed (R361, R369). -/
structure RxWrite where
  hdr : FurHdr
  port : Nat
  addr : Nat
  data : List Byte
  deriving DecidableEq, Repr

/-- A Furrow engine (R360 to R385): next message ID, open messages, receive entries, writes to perform, CE counts by source
engine, destinations with their rates, next event number, destinations owed a SYNC. -/
structure FurSt where
  next : Nat := 0
  msgs : List FurMsg := []
  entries : List RxEntry := []
  writes : List RxWrite := []
  ce : Cells Nat := []
  dests : List (Nat × Nat) := []
  evSeq : Nat := 0
  syncDue : List (Nat × Bool) := []
  fabric : List (FurHdr × List Byte) := []
  deriving DecidableEq, Repr

/-- A RDMA WRITE of a running baler job that the RoCE engine has not sent yet (R249): P-die, job number, group, address,
key, data, immediate. -/
structure BaleWrite where
  die : Nat
  seq : Nat
  group : Nat
  va : Nat
  rkey : Nat
  data : List Byte
  imm : Option Nat
  deriving DecidableEq, Repr

/-! ## Rope (chapter 15) -/

/-- A member's shard-table staging buffer (R435 JOIN, R447): key ID and length. -/
structure Staging where
  key : Nat := 0
  len : Nat := 0
  deriving DecidableEq, Repr

/-- A shard table that the lead has sent (R447, R448): job, generation, effective step, bytes, times sent to each
position, positions that have acknowledged. -/
structure TableOut where
  job : Nat
  gen : Nat
  effective : Nat
  bytes : List Byte
  sent : List (Nat × Nat) := []
  acked : List Nat := []
  deriving DecidableEq, Repr

/-- A planned change that waits for SETTLE (R443): an expulsion or an insertion, and its position. -/
structure Planned where
  expel : Bool
  pos : Nat
  cause : Nat
  deriving DecidableEq, Repr

/-- What firmware counts of a loaded job for its CAIRNs (R445): replacement slots written for other modules, voids written,
DELIVERED as last reported, and the SAT periods of the threshers at that time. -/
structure JobTally where
  replaced : Nat := 0
  voids : Nat := 0
  told : Nat := 0
  sat : Nat := 0
  deriving DecidableEq, Repr

/-- A distribution of firmware in progress (R452 to R455): where chunks come from (the X-die of the rope port, or 2 for
a field port) and the module ID that sent the first, chunks held, counts told, whether the signature passed, which image chunks are verified, repeats of FW_NACK, failed
signatures, chunks owed downstream (image chunk, number, module ID), chunks asked for (image chunk, number). -/
structure FwDist where
  image : Nat := 0
  from_ : Nat := 2
  parent : Nat := 0
  manifest : Cells (List Byte) := []
  chunks : Cells (List Byte) := []
  nManifest : Nat := 0
  nChunks : Nat := 0
  signed : Bool := false
  verified : List Nat := []
  nacks : Nat := 0
  sigFails : Nat := 0
  owed : List (Bool × Nat × Nat) := []
  asked : List (Bool × Nat) := []
  deriving DecidableEq, Repr

/-- The rope as firmware keeps it (R430 to R455): nonce, whether DISCOVER was also sent west, the position that the
latest DISCOVER gave, whether a second waits for ASSIGN, positions of the ring, JOINs received, staging buffers, own staging buffer, margin key, ring-state
generation and mask of segments down, heartbeats sent, latest DELIVERED + 1 by job × 32 + position, largest DELIVERED by
job, stragglers found, tables out, planned changes, members sent an EXPEL, rope steps of the expulsions made, HB_PERIOD
periods, margin record number, the distribution of firmware, where the bypass moves to, the causes for which a member is suspect, oldest first. -/
structure RopeSt where
  nonce : Nat := 0
  west : Bool := false
  seen : Nat := 0
  await : Bool := false
  size : Nat := 0
  joined : List Nat := []
  staging : Cells Staging := []
  ownStage : Staging := {}
  marginKey : Nat := 0
  ringGen : Nat := 0
  segDown : Nat := 0
  hbCount : Nat := 0
  delivered : Cells Nat := []
  dMax : Cells Nat := []
  straggled : List Nat := []
  tables : List TableOut := []
  planned : List Planned := []
  expelling : List Nat := []
  expulsions : List Nat := []
  periods : Nat := 0
  marginSeq : Nat := 0
  fw : FwDist := {}
  moveTo : Nat := 0
  causes : Cells (List Nat) := []
  deriving DecidableEq, Repr

/-! ## Power, pins, anchor, debug (chapters 17 to 19) -/

/-- The power controller (R481 to R487): the target of an entry in progress (0 none), whether it has been aborted and is
settling, and a wake event held during CUT (cause, port). -/
structure Pwr where
  target : Nat := 0
  aborting : Bool := false
  held : Option (Nat × Nat) := none
  exitFrom : Nat := 0
  deriving DecidableEq, Repr

/-- The contacts of R519 to R524 and R530, the latched trip, and whether full reset is asserted. -/
structure Pins where
  vin : Bool := true
  pwrGood : Bool := true
  sysRstN : Bool := true
  modeLead : Bool := false
  offReqN : Bool := true
  thermN : Bool := true
  wakeSense : Bool := false
  trip : Bool := false
  inReset : Bool := false
  deriving DecidableEq, Repr

/-- What the controller sets a powered SRAM to (R490): write assist and read underdrive in millivolts, or retention at a
voltage in millivolts with assist off. -/
inductive SramSupply where
  | assist (write underdrive : Nat)
  | retention (millivolts : Nat)
  deriving DecidableEq, Repr

/-- What the controller supplies a domain with (R490): nothing, or a body bias in millivolts (negative: reverse) and an
SRAM setting. -/
inductive Supply where
  | unpowered
  | powered (bias : Int) (sram : SramSupply)
  deriving DecidableEq, Repr

/-- The fuse array (R491): lifecycle as burnt, serial, identity seed, key-slot digests, slot flags, minimum security
version, forward body bias codes by die. -/
structure Fuses where
  lifecycle : Nat := 0
  serial : List Byte := List.replicate 16 0
  seed : Option (List Byte) := none
  keys : List (Option (List Byte)) := [none, none, none, none]
  flags : Nat := 0
  minSvn : Nat := 0
  fbb : List Nat := [0, 0, 0, 0, 0, 0]
  deriving DecidableEq, Repr

/-- The anchor (R493 to R500, R517): boot store (slot × 2^24 + offset) and active slot; the command in progress (OP, its
status, slot to make active + 1); whether the next full reset boots recovery, and whether this boot is one; reports
made; the running image's slot and manifest; the recovery window, manifest chunks and image chunks accepted; whether this boot is over;
whether the command still has to read its operand in memory; the fuses' value before the command burnt them. -/
structure Anchor where
  store : Cells Byte := []
  active : Nat := 0
  cmd : Option (Nat × Nat × Nat) := none
  recoverNext : Bool := false
  recovery : Bool := false
  reports : Nat := 0
  runSlot : Nat := 0
  manifest : List Byte := []
  rcv : Cells Byte := []
  rcvManifest : List Byte := []
  rcvChunks : Nat := 0
  booted : Bool := false
  due : Bool := false
  was : Option Nat := none
  deriving DecidableEq, Repr

/-- An unlock in progress (R506): the challenge drawn and not discarded, the writer, the level asked for, the token
bytes, whether it is being verified. -/
structure Unlock where
  challenge : Option (List Byte) := none
  writer : Nat := 0x3FF
  target : Nat := 0
  token : List Byte := []
  verifying : Bool := false
  deriving DecidableEq, Repr

/-- The TAP (R502, R503): instruction register, result of the previous DBG_ACCESS read, the value that the selected data register
captured where it is not the boundary register, boundary cells captured by SAMPLE, the values that PRELOAD left in them, whether the
loaded instruction holds the module in full reset. -/
structure Tap where
  ir : Nat := 0x01
  prev : Word := 0
  dr : Nat := 0
  cells : List Bool := []
  latch : List Bool := []
  holds : Bool := false
  deriving DecidableEq, Repr

/-! ## Token engines (chapter 09) -/

/-- A loaded vocabulary (R259): header address, V, M, L, offsets of the index, of the strings and of the hash. -/
structure Vocab where
  addr : Nat
  tokens : Nat
  merges : Nat
  lg : Nat
  index : Nat
  strings : Nat
  hash : Nat
  deriving DecidableEq, Repr

/-- A session (R267 to R274): its slot, session block and stop strings as OPEN copied them, the hold buffer H, the force
node while the force is active, tokens stored, bytes released, the end reason once it has ended. -/
structure Session where
  slot : Nat
  block : List Byte
  stops : List (List Byte) := []
  hold : List Byte := []
  node : Option Nat := none
  tokens : Nat := 0
  released : Nat := 0
  ended : Option Nat := none
  deriving DecidableEq, Repr

/-- What a running token job does to its engine when it ends with a status (R278): a slot and its new content, a session
and its new state. -/
structure TokEffect where
  seq : Nat
  status : Nat
  slot : Option (Nat × Option Vocab) := none
  sess : Option (Nat × Option Session) := none
  deriving DecidableEq, Repr

/-- A token engine: slots, sessions, and what its running jobs will do. -/
structure TokSt where
  slots : Cells (Option Vocab) := []
  sess : Cells (Option Session) := []
  effects : List TokEffect := []
  deriving DecidableEq, Repr

/-! ## Flash (chapter 10) -/

/-- A programmed NAND page: its logical header (volume, LGN or map page, write sequence), its data as stored, and whether
it was damaged by a loss of power while its superblock was open (R309). -/
structure FlPage where
  vol : Nat
  lgn : Nat
  isMap : Bool := false
  seq : Nat := 0
  data : List Byte := []
  torn : Bool := false
  deriving DecidableEq, Repr

/-- Where a superblock stands (R298 to R304): free, open in a stream, filled and waiting for verification, closed. -/
inductive SbPhase where
  | free | opened | filled | closed
  deriving DecidableEq, Repr

/-- A superblock: phase, erase count, retired positions. -/
structure FlSb where
  phase : SbPhase := .free
  erase : Nat := 0
  bad : Nat := 0
  deriving DecidableEq, Repr

/-- A write stream's open superblock: the positions skipped in this use and the next page (row × 16 + position). -/
structure FlStream where
  sb : Nat
  skip : Nat
  next : Nat
  deriving DecidableEq, Repr

/-- Volume metadata on flash (R308, R466): groups, capacity, state and cause as recorded, map, map pages by place,
superblocks. -/
structure FlMeta where
  first : Nat
  count : Nat
  lc : Nat
  st : Nat
  cause : Nat
  map : Cells Nat := []
  mapLoc : Cells Nat := []
  sbs : Cells FlSb := []
  deriving DecidableEq, Repr

/-- A volume as its controller holds it: key, map from LGN to physical granule, place of each map page, superblocks,
streams, garbage collection and its victim, write sequence, tasks that ended with a failure and ORDERED tasks that ended
(R291), map pages changed while not cached (R305), damaged pages that a stream (host or relocation) still has to write again and
the pages so written (R294, R300). -/
structure FlVol where
  key : Option (List Byte) := none
  map : Cells Nat := []
  mapLoc : Cells Nat := []
  sbs : Cells FlSb := []
  host : Option FlStream := none
  reloc : Option FlStream := none
  gc : Bool := false
  victim : Option Nat := none
  seq : Nat := 0
  fails : List Nat := []
  ordered : List Nat := []
  changed : List Nat := []
  repair : List (Bool × Nat) := []
  rebuilt : Nat := 0
  deriving DecidableEq, Repr

/-- A task (R286 to R294): acceptance number + 1, descriptor copy, phase, whether its work is done, outcome, granules
completed, misses and the map pages that caused them, one plus the first LGN that failed, pages recovered, buffer writes
to perform. -/
structure FlTask where
  seq : Nat
  desc : List Byte
  phase : JobPhase := .waiting
  finished : Bool := false
  status : Nat := 0
  check : Nat := 0
  done : Nat := 0
  misses : Nat := 0
  missed : List Nat := []
  failed : Nat := 0
  recovered : Nat := 0
  writes : List (Nat × List Byte) := []
  deriving DecidableEq, Repr

/-- A map page in the map cache (R296): volume, page, dirty. -/
structure MapPg where
  vol : Nat
  q : Nat
  dirty : Bool := false
  deriving DecidableEq, Repr

/-- NAND geometry of an X-die (R283): pages per block, blocks per die, factory bad blocks (die, block, local channel). -/
structure NandGeo where
  ppb : Nat := 0
  bpd : Nat := 0
  bad : List (Nat × Nat × Nat) := []
  deriving DecidableEq, Repr

/-- Flash: the media (pages by place, metadata and the map changes since it was written, by X-die, volume and die groups), and what
the controllers hold: volumes, tasks and the next acceptance number by X-die, map caches oldest use first, map page reads
in progress, geometries, and the parity pages of the parity sets by page row (R298). -/
structure FlashSt where
  pages : Cells FlPage := []
  metas : Cells (Option FlMeta) := []
  logs : Cells (List (Nat × Nat)) := []
  vols : Cells FlVol := []
  tasks : Cells (List FlTask) := []
  next : Cells Nat := []
  cache : Cells (List MapPg) := []
  fills : Cells (List (Nat × Nat)) := []
  geo : Cells NandGeo := []
  parity : Cells (List Byte) := []
  deriving DecidableEq, Repr

/-- What the debug module still has to do (R508, R510): step a held target (a context, or a core when `core`), or the
memory access in progress. -/
inductive DbgReq where
  | step (core : Bool) (id : Nat)
  | mem (write : Bool)
  deriving DecidableEq, Repr


/-- The state of the block. -/
structure State where
  /-- The commands that wait, first in first out. -/
  pending : List Instr := []
  /-- The model's counter of free values (log entry 2). -/
  free : Nat := 0
  /-- CSRs by register and copy (`Reg.key`). -/
  csr : Cells Word := []
  /-- Bytes by device physical address: DRAM and, through their aliases, stook and tile SRAM. -/
  mem : Cells Byte := []
  /-- How often DRAM has lost its contents (R465, R471, M3): what an unlisted DRAM byte reads as depends on it. -/
  memGen : Nat := 0
  /-- SRAM words (physical address / 4) whose parity fails (R86). -/
  badPar : Cells Bool := []
  /-- DRAM lines (physical address / 64) with symbol errors: position and error value (R320 to R322). -/
  lineErr : Cells (List (Nat × Byte)) := []
  /-- Corrected lines waiting for their write-back (R323). -/
  wbPend : List Nat := []
  /-- Corrections of a rank within one device since the rank's mark was cleared: channel × 64 + rank × 16 + device. -/
  markCnt : Cells Nat := []
  /-- Ranks' refresh interval: set while the sensor of a channel reports above 85 °C (R327). -/
  hot : Cells Bool := []
  /-- Hardware contexts by tile ID × 4 + context. -/
  ctx : Cells Ctx := []
  /-- Bytes of tile SRAM as a context still fetches them: context × 2^20 + tile SRAM offset, the byte before the stores
  that no fence.i of the context has followed (R150). -/
  fetchOld : Cells (Option (Byte × Bool)) := []
  /-- Jobs outstanding since the mark of a switched-out software context: context × 8 + area. -/
  sliceOut : Cells (List Nat) := []
  /-- Accumulator elements: ((tile × 4 + i) × 32 + m) × 32 + n. -/
  acc : Cells (BitVec 32) := []
  /-- Weight buffers: (tile × 4 + i) × 2 + B. -/
  wbuf : Cells WBuf := []
  /-- Barriers: stook × 8 + id. -/
  bar : Cells Barrier := []
  /-- Management cores MC0 to MC3. -/
  mc : Cells Mc := []
  /-- Private SRAM of the management cores: core × 0x40000 + address. -/
  mcMem : Cells Byte := []
  /-- Comparators: target × 4 + k, target a tile ID or 512 + core. -/
  bp : Cells Bp := []
  /-- Engine queues by unit key. -/
  eng : Cells (List Job) := []
  /-- The model number of the next job. -/
  jobSeq : Nat := 1
  /-- Request lines of the level sources as the interrupt controller sees them. -/
  lines : Cells Bool := []
  /-- Level sources in service: the claiming target + 1. -/
  inServ : Cells Nat := []
  /-- Actions recorded under HOLD: 1 set, 2 clear (R426). -/
  holdRec : Cells Nat := []
  /-- Target outputs that were asserted after the last change (R425). -/
  outHigh : Cells Bool := []
  /-- Flits the device has sent on the host links, oldest first. -/
  hostOut : List HostFlit := []
  /-- Outstanding device requests. -/
  devReq : List DevReq := []
  /-- Host lines received for device reads. -/
  hostBuf : List HostLine := []
  /-- Device writes that wait for the host, oldest first. -/
  heldPuts : List HeldWrite := []
  /-- Snoop filter entries, oldest allocation first. -/
  snoop : List SnoopEntry := []
  /-- Outstanding snoops. -/
  snps : List Snoop := []
  /-- What firmware counts of each job for its CAIRNs. -/
  tally : Cells JobTally := []
  /-- The delay settings that the DRAM PHYs have stored, by channel (R461). -/
  phy : Cells (Option Nat) := []
  /-- Messages that wait for a tag, oldest first. -/
  tagWait : List TagWait := []
  /-- Accesses that have arrived at the home of a DRAM line and wait (R411), in order: line and master. -/
  homeQ : List (Nat × Nat) := []
  /-- The order number of the next snoop filter allocation. -/
  snoopSeq : Nat := 0
  /-- The flit layer of the links. -/
  link : Cells LinkSt := []
  /-- Program images placed on tiles (R25, R90). -/
  images : List CodeImage := []
  /-- Position of the head of each pool's free ring: P-die × 64 + pool (R328). -/
  poolHead : Cells Nat := []
  /-- Loaded jobs (R22). -/
  jobs : List LoadedJob := []
  /-- What the loaded jobs have used (R470): job ID, and a unit's key or 1024 + P-die × 64 + pool. -/
  jobUse : List (Nat × Nat) := []
  /-- Instances of loaded jobs that firmware has switched out (R25), in rotation order. -/
  parked : List Parked := []
  /-- Jobs that firmware has stopped and their end status (R448, R451, R456), oldest first. -/
  jobEnds : List (Nat × Nat) := []
  /-- Replacement attempts in progress. -/
  repl : List ReplTry := []
  /-- Slots whose replacement is final. -/
  slots : List ReplSlot := []
  /-- How many replacement requests have been sent (R230): the next tag. -/
  replSeq : Nat := 0
  /-- Egress queues: (X-die × 9 + scheduler) × 64 + queue. -/
  schedQ : Cells SchedQ := []
  /-- Schedulers: X-die × 9 + scheduler. -/
  sched : Cells SchedSt := []
  /-- Policer tokens: (X-die × 8 + port) × 8 + class. -/
  polTokens : Cells Int := []
  /-- Frames that wait for room in their egress queue (R391), oldest first. -/
  egressWait : List Frame := []
  /-- The Application that firmware has selected in the module of a field port (R355), by X-die × 8 + port; 0 for none. -/
  cmisApp : Cells Nat := []
  /-- Interfaces: X-die × 64 + port × 8 + interface. -/
  portIf : Cells PortIf := []
  /-- Frames sent, oldest first. -/
  wire : List Frame := []
  /-- NOT_READY buckets that are empty: X-die × 9 + port (R384). -/
  nrEmpty : Cells Bool := []
  /-- Queue pairs: X-die × 2048 + index. -/
  qps : Cells Qp := []
  /-- Furrow keys by index. -/
  keys : Cells FurKey := []
  /-- Furrow engines by X-die. -/
  fur : Cells FurSt := []
  /-- RDMA WRITEs not sent yet, oldest first. -/
  outbox : List BaleWrite := []
  /-- Bytes that the consumers of each baler have acknowledged, modulo 2^48 (`BALER_SLOTS.BYTES`). -/
  baleBytes : Cells Nat := []
  /-- The rope. -/
  rope : RopeSt := {}
  /-- The power controller. -/
  pwr : Pwr := {}
  /-- The status with which the bring-up step in progress will end (R460). -/
  stepStatus : Nat := 0
  /-- A write over the bus has started a bring-up step whose work is still to come: the step's own row brings it. -/
  stepDue : Bool := false
  /-- Gated stooks, one bit each (R476). -/
  gated : Nat := 0
  /-- Has READY been set since the last full reset (R489)? -/
  everReady : Bool := false
  /-- Contacts. -/
  pins : Pins := {}
  /-- Fuses. -/
  fuses : Fuses := {}
  /-- The anchor. -/
  anchor : Anchor := {}
  /-- The unlock in progress. -/
  unlock : Unlock := {}
  /-- The TAP. -/
  tap : Tap := {}
  /-- Token engines by P-die. -/
  tok : Cells TokSt := []
  /-- Flash. -/
  flash : FlashSt := {}
  /-- Requests of the debug module in progress, oldest first. -/
  dbg : List DbgReq := []
  deriving DecidableEq, Repr

/-- The machine right after reset: every field at its default. -/
def State.reset : State := {}

end Sys2Proof.Machine
end

