-- ==== Sys2Proof/Machine/Csr.lean ====
section
/-!
DEFINITION. Reading and writing CSRs as stored, and the access codes of R10, R13 and R14.
-/
namespace Sys2Proof.Machine

/-- The stored value of copy `i` of a register. -/
def State.rd (s : State) (r : Reg) (i : Nat) : Word := Cells.get csrDefault s.csr (r.key i)

/-- The state with one register's stored value changed. -/
def State.wr (s : State) (r : Reg) (i : Nat) (v : Word) : State :=
  { s with csr := Cells.put csrDefault s.csr (r.key i) v }

/-- A field of a register, as a number. -/
def State.fld (s : State) (f : Fld) (i : Nat) : Nat := field (s.rd f.reg i) f.lo f.width

/-- A one-bit field. -/
def State.flag (s : State) (f : Fld) (i : Nat) : Bool := s.fld f i == 1

/-- The state with one field of a register changed. -/
def State.setFld (s : State) (f : Fld) (i : Nat) (v : Nat) : State :=
  s.wr f.reg i (withField (s.rd f.reg i) f.lo f.width v)

/-- A field that counts up and stays at its greatest value. -/
def State.satAdd (s : State) (f : Fld) (i n : Nat) : State := s.setFld f i (min (2 ^ f.width - 1) (s.fld f i + n))

/-- A field that counts up modulo its width. -/
def State.modAdd (s : State) (f : Fld) (i n : Nat) : State := s.setFld f i (s.fld f i + n)

/-- The bits an aligned access addresses (R10). -/
def accMask : CsrAcc → Word
  | .full _ => 0xFFFFFFFFFFFFFFFF
  | .low _ => 0xFFFFFFFF
  | .high _ => 0xFFFFFFFF00000000

/-- The value an access presents, at the place of its half (R10). -/
def accValue : CsrAcc → Word
  | .full v => v
  | .low v => v.setWidth 64
  | .high v => v.setWidth 64 <<< 32

/-- The value of a register after a write, by the access codes of its fields (R10, R13, R14): RW and, while unlocked,
RWL bits take the written value; W1C and W1S bits act where 1 is written; every other bit stays. -/
def Reg.applyWrite (r : Reg) (locked : Bool) (old : Word) (a : CsrAcc) : Word :=
  let set := (r.maskOf .rw ||| (if locked then 0 else r.maskOf .rwl)) &&& accMask a
  let v := accValue a
  ((((old &&& ~~~set) ||| (v &&& set)) &&& ~~~(v &&& r.maskOf .w1c)) ||| (v &&& r.maskOf .w1s))

/-- The plain write of a register. -/
def State.plainWrite (s : State) (r : Reg) (i : Nat) (locked : Bool) (a : CsrAcc) : State :=
  s.wr r i (r.applyWrite locked (s.rd r i) a)

/-- The written value of one field, when the access covers the whole field; a field outside the addressed half reads
as the stored value (R10). -/
def State.written (s : State) (f : Fld) (i : Nat) (a : CsrAcc) : Nat :=
  field ((s.rd f.reg i &&& ~~~(accMask a)) ||| accValue a) f.lo f.width

/-- The bits of an action field that the access presents: zero where the access does not reach (R10, R13). -/
def Fld.presented (f : Fld) (a : CsrAcc) : Nat := field (accValue a) f.lo f.width

/-- Does the access reach the field's first bit? -/
def Fld.reached (f : Fld) (a : CsrAcc) : Bool := (accMask a).getLsbD f.lo

/-- A new free value of `w` bits (log entry 2). -/
def State.fresh (s : State) (w : Nat) : BitVec w × State := (Config.freeValue w s.free, { s with free := s.free + 1 })

/-- The next free value of a kind that `Config` names (log entry 123). -/
def State.draw {α : Type} (s : State) (f : Nat → α) : α × State := (f s.free, { s with free := s.free + 1 })

/-- A status code that reports a failure (R16 to R18): neither OK nor a reserved code. -/
def isFailure (c : Nat) : Bool := (1 ≤ c && c ≤ 0x14) || (0x80 ≤ c && c ≤ 0xFF)

/-- A failure whose status no rule gives: a free one of the failure codes (R17, R18). -/
def anyFailure (s : State) : Nat × State :=
  let (f, s) := s.fresh 8
  let k := f.toNat % 148
  (if k < 20 then k + 1 else k - 20 + 0x80, s)

/-- A failure status that a report gives, or a free one where the report is no failure code (R17, R18). -/
def asFailure (s : State) (c : Nat) : Nat × State := if isFailure c then (c, s) else anyFailure s

end Sys2Proof.Machine
end

