-- ==== Sys2Proof/Machine/Intc.lean ====
section
/-!
DEFINITION. Sending on the host links (R403 to R407), the interrupt controller (R420 to R427), detectors (R514, R515),
violations (R512, R513) and the floor plan's bits (R468).
-/
namespace Sys2Proof.Machine

/-! ## Host links -/

/-- Default readings of the state's maps. -/
def linkAt (s : State) (x : Nat) : LinkSt := Cells.get (fun _ => {}) s.link x

/-- The state with one link's flit layer changed. -/
def setLink (s : State) (x : Nat) (l : LinkSt) : State := { s with link := Cells.put (fun _ => {}) s.link x l }

/-- A link is up while its width is not 0 (R402). -/
def linkUp (s : State) (x : Nat) : Bool := s.fld Fld.HL_STATUS_WIDTH x != 0

/-- The link that a device request to host memory travels on (R407): by address bit 12 when both are up. -/
def linkFor (s : State) (a : Nat) : Option Nat :=
  match linkUp s 0, linkUp s 1 with
  | true, true => some ((a / 4096) % 2)
  | true, false => some 0
  | false, true => some 1
  | false, false => none

/-- The credit channel of an opcode (R406): 0 REQ, 1 SNP, 2 RSP. -/
def msgChannel (op : Nat) : Nat := if op < 0x20 then 0 else if op < 0x30 then 1 else 2

/-- May the message go now: a credit of its channel and room in the retry buffer (R405, R406). -/
def canSend (l : LinkSt) (m : HostMsg) : Bool :=
  l.retry.length < 512 &&
    (match msgChannel m.opcode with
     | 0 => l.reqCred > 0
     | 1 => l.snpCred > 0
     | _ => true)

/-- The highest SEQ received in order, if one has come (R403). -/
def linkAck (l : LinkSt) : Option Nat := if l.rxAny then some ((l.rxExpect + 1023) % 1024) else none

/-- The payload flit that carries a message: its header acknowledges and returns credits (R403, R405). -/
def payloadFlit (l : LinkSt) (m : HostMsg) : HostFlit :=
  { link := m.link, type := 0, seq := l.txSeq, ack := linkAck l, req := min 15 l.reqOwed, msg := some m }

/-- A flit's header has acknowledged and returned credits. -/
def headerSent (l : LinkSt) : LinkSt := { l with reqOwed := l.reqOwed - min 15 l.reqOwed, ackDue := false }

/-- The flit layer with one message sent in the next payload flit. -/
def afterSend (l : LinkSt) (m : HostMsg) : LinkSt :=
  { headerSent l with
    txSeq := (l.txSeq + 1) % 1024, retry := l.retry ++ [payloadFlit l m],
    reqCred := if msgChannel m.opcode = 0 then l.reqCred - 1 else l.reqCred,
    snpCred := if msgChannel m.opcode = 1 then l.snpCred - 1 else l.snpCred }

/-- Send a message on its link, or keep it waiting for a credit or for room; on a link that is down it is lost (R414). -/
def sendMsg (s : State) (m : HostMsg) : State :=
  let l := linkAt s m.link
  if !linkUp s m.link then s
  else if canSend l m then
    { setLink s m.link (afterSend l m) with hostOut := s.hostOut ++ [payloadFlit l m] }
  else setLink s m.link { l with txWait := l.txWait ++ [m] }

/-- Send every waiting message of a link that may go, in order. -/
def pumpLink (s : State) (x : Nat) : State :=
  let ms := (linkAt s x).txWait
  ms.foldl sendMsg (setLink s x { linkAt s x with txWait := [] })

/-- The lowest tag the device does not use on a link (R406 allows 4,096; the choice of tag is the model's). -/
def freeTag (s : State) (x : Nat) : Option Nat :=
  (List.range 4096).find? (fun t => !(s.devReq.any (fun r => r.link == x && r.tag == t))
    && !(s.snps.any (fun r => r.link == x && r.tag == t)))

/-- A device request to host memory (R407, R408): RD_UC (0x03) or WR_UC (0x05) of one line. The address sent is the
host physical address. With 4,096 tags outstanding it waits for one, of this very link where `fixed`. -/
def devRequest (s : State) (link opcode line master mask : Nat) (data : List Byte) (fixed : Bool := false) : State :=
  match freeTag s link with
  | none =>
    { s with tagWait := s.tagWait ++ [{ opcode := opcode, line := line, link := if fixed then some link else none, master := master,
                                        mask := mask, data := data }] }
  | some t =>
    sendMsg { s with devReq := s.devReq ++ [⟨link, t, opcode, line, master⟩] }
      { link := link, opcode := opcode, tag := t, addr := line * 64 - 0x8000000000000, mask := mask, data := data }

/-! ## Interrupt controller -/

/-- Level sources (R420). -/
def isLevel (src : Nat) : Bool :=
  (64 ≤ src && src ≤ 95) || src == 384 || src == 448 || (512 ≤ src && src ≤ 575)

/-- A source that the table of R8 lists. -/
def isSource (src : Nat) : Bool :=
  src ≤ 4 || (8 ≤ src && src ≤ 10) || (32 ≤ src && src ≤ 40) || (64 ≤ src && src ≤ 95)
    || (128 ≤ src && src < 384 && src % 64 < 6) || src == 384 || src == 448 || src == 392 || src == 456
    || (400 ≤ src && src ≤ 447) || (464 ≤ src && src ≤ 479) || (512 ≤ src && src ≤ 575)

/-- The pending bit of a source. -/
def pendOf (s : State) (src : Nat) : Bool := (s.rd .INTC_PEND (src / 32)).getLsbD (src % 32)

/-- The state with a source's pending bit at `b`. -/
def setPend (s : State) (src : Nat) (b : Bool) : State :=
  s.wr .INTC_PEND (src / 32) (withField (s.rd .INTC_PEND (src / 32)) (src % 32) 1 (b2n b))

/-- The target a source is routed to (R422); 6 and 7 route nowhere. -/
def routeOf (s : State) (src : Nat) : Nat := field (s.rd .INTC_ROUTE (src / 16)) (4 * (src % 16)) 3

/-- Is the source masked? -/
def maskedOf (s : State) (src : Nat) : Bool := (s.rd .INTC_MASK (src / 32)).getLsbD (src % 32)

/-- Sources of the groups with a pending bit, lowest first. -/
def pendingSources (s : State) : List Nat :=
  (List.range 32).flatMap (fun g =>
    if s.rd .INTC_PEND g = 0 then [] else
      ((List.range 32).filter (fun i => (s.rd .INTC_PEND g).getLsbD i)).map (fun i => 32 * g + i))

/-- Target `t`'s output (R422): a pending, unmasked source routed to it whose group's timer is zero. -/
def outputOf (s : State) (t : Nat) : Bool :=
  (pendingSources s).any (fun src =>
    routeOf s src == t && !maskedOf s src && s.fld Fld.INTC_GCTL_TIMER (src / 32) == 0)

/-- The host memory window of the device physical map. -/
def inHostWindow (a n : Nat) : Bool := 0x8000000000000 ≤ a && a + n ≤ 0xC000000000000

/-- The rise of a host target's output (R425): a WR_UC of `INTC_HDATA_t` to `INTC_HADDR_t` on link `t`, and ARMED. -/
def hostInterrupt (s : State) (t : Nat) : State :=
  let a := s.fld Fld.INTC_HADDR_ADDR t * 8
  if s.flag Fld.INTC_HADDR_ARMED t || !inHostWindow a 8 || !linkUp s t then s
  else
    let data := List.replicate (a % 64) (0 : Byte) ++ leBytes 8 (s.fld Fld.INTC_HDATA_DATA t)
      ++ List.replicate (56 - a % 64) 0
    (devRequest s t 0x05 (a / 64) (if t = 0 then 1 else 2) (2 ^ (a % 64 / 8)) data true).setFld
      Fld.INTC_HADDR_ARMED t 1

/-- Bring the target outputs up to date after a change; a host output that rises sends its message. -/
def refreshIntc (s : State) : State :=
  [0, 1].foldl (fun s t =>
    let o := outputOf s t
    let was := Cells.get (fun _ => false) s.outHigh t
    let s := { s with outHigh := Cells.put (fun _ => false) s.outHigh t o }
    if o && !was then hostInterrupt s t else s) s

/-- A hardware action on a pending bit: applied, or recorded while the group's HOLD is set (R426). A fall is a withdrawal, and so an
action, only while the bit is set or a set is recorded (R421). -/
def hwPend (s : State) (src : Nat) (b : Bool) : State :=
  if s.flag Fld.INTC_GCTL_HOLD (src / 32) then
    if !b && !pendOf s src && Cells.get (fun _ => 0) s.holdRec src != 1 then s
    else { s with holdRec := Cells.put (fun _ => 0) s.holdRec src (if b then 1 else 2) }
  else refreshIntc (setPend s src b)

/-- A source is raised: one cycle of an event source's request (R420, R421). -/
def raiseSource (s : State) (src : Nat) : State := hwPend s src true

/-- Does the block behind a level source request (R385, R419, R99)? -/
def levelRequest (s : State) (src : Nat) : Bool :=
  if 64 ≤ src ∧ src ≤ 95 then
    (s.rd .MBOX_DB 0).getLsbD (src - 64) && !(s.rd .MBOX_DB_MASK 0).getLsbD (src - 64)
  else if src = 384 ∨ src = 448 then
    let x := (src - 384) / 64
    s.flag Fld.FUR_EVQ_IRQ_EN x && s.fld Fld.FUR_EVQ_PTR_PROD x != s.fld Fld.FUR_EVQ_PTR_CONS x
  else if 512 ≤ src ∧ src ≤ 575 then
    (s.rd .STOOK_IRQ_PEND (src - 512) &&& ~~~(s.rd .STOOK_IRQ_MASK (src - 512))) != 0
  else false

/-- The request line of a level source as the controller last saw it. -/
def lineOf (s : State) (src : Nat) : Bool := Cells.get (fun _ => false) s.lines src

/-- The state with a request line changed. -/
def setLine (s : State) (src : Nat) (b : Bool) : State := { s with lines := Cells.put (fun _ => false) s.lines src b }

/-- The target that holds a level source in service, plus 1; 0 for none. -/
def serviceOf (s : State) (src : Nat) : Nat := Cells.get (fun _ => 0) s.inServ src

/-- The state with a source's service changed. -/
def setService (s : State) (src v : Nat) : State := { s with inServ := Cells.put (fun _ => 0) s.inServ src v }

/-- The request line of a level source follows its block's condition (R420, R421): a rise sets the pending bit, unless the
source is in service; a fall clears it. -/
def relevel (s : State) (src : Nat) : State :=
  if levelRequest s src = lineOf s src then s
  else if levelRequest s src then
    let s := setLine s src true
    if serviceOf s src = 0 then hwPend s src true else s
  else hwPend (setLine s src false) src false

/-! ## Detectors and violations -/

/-- Is the master one of the management cores? -/
def isCoreMaster (m : Nat) : Bool := 0x10 ≤ m && m ≤ 0x13

/-- A detector sets its summary bit and, on a change from 0 to 1 with its enable set, raises source 2 (R514, R515). -/
def detect (s : State) (bit : Nat) : State :=
  let was := (s.rd .ERR_SUMMARY 0).getLsbD bit
  let s1 := s.wr .ERR_SUMMARY 0 (s.rd .ERR_SUMMARY 0 ||| BitVec.ofNat 64 (2 ^ bit))
  if !was && (s.rd .ERR_IRQ_EN 0).getLsbD bit then raiseSource s1 2 else s1

/-- A violation (R512, R513): class bit, count, first capture, summary bit 13. -/
def violation (s : State) (cls master addr : Nat) (write : Bool) : State :=
  let first := s.fld Fld.ERR_VIOL_CLASS 0 == 0
  let s1 := if first then
      s.wr .ERR_VIOL_FIRST 0 (BitVec.ofNat 64
        (bits addr 2 50 + (master % 1024) * 2 ^ 50 + (cls % 8) * 2 ^ 60 + b2n write * 2 ^ 63))
    else s
  let s2 := s1.setFld Fld.ERR_VIOL_CLASS 0 (s1.fld Fld.ERR_VIOL_CLASS 0 ||| 2 ^ cls)
  detect (s2.satAdd Fld.ERR_VIOL_COUNT 0 1) 13

/-- An armed injection that matches a detector and target: the PARAM, and the state after it fires (R516). -/
def injFire (s : State) (det target : Nat) : Option (Nat × State) :=
  let mode := s.fld Fld.ERR_INJ_MODE 0
  if s.flag Fld.ERR_INJ_ARMED 0 && s.fld Fld.ERR_INJ_DETECTOR 0 == det && s.fld Fld.ERR_INJ_TARGET 0 == target
      && (mode == 1 || mode == 2) then
    let s1 := s.satAdd Fld.ERR_INJ_FIRED 0 1
    some (s.fld Fld.ERR_INJ_PARAM 0, if mode == 1 then s1.setFld Fld.ERR_INJ_ARMED 0 0 else s1)
  else none

/-! ## Floor plan bits (R468) -/

/-- Bit `n` of floor plan word `w`. -/
def floorBit (s : State) (w n : Nat) : Bool := (s.rd .FLOOR w).getLsbD n

/-- P-die `d` is marked failed as a whole. -/
def pdieFailed (s : State) (d : Nat) : Bool := floorBit s 14 (32 + d)

/-- A stook's SRAM is marked failed (R97). -/
def stookFailed (s : State) (k : Nat) : Bool := floorBit s 47 k || pdieFailed s (k / 16)

/-- A tile is marked failed (R96, R97). -/
def tileFailed (s : State) (t : Nat) : Bool := floorBit s (t / 64) (t % 64) || stookFailed s (t / 8)

/-- A stook's thresher is marked failed (R187). -/
def thrFailed (s : State) (k : Nat) : Bool := floorBit s 8 k || stookFailed s k

/-- A stook's DMA engine is marked failed (R111). -/
def dmaFailed (s : State) (k : Nat) : Bool := floorBit s 9 k || stookFailed s k

/-- The baler (0), permutation unit (1), token engine (2) or pool manager (3) of a P-die is marked failed. -/
def pUnitFailed (s : State) (d u : Nat) : Bool := floorBit s 10 (4 * d + u) || pdieFailed s d

/-- Stream engine `e` of P-die `d`, as 4d + e, is marked failed. -/
def streamFailed (s : State) (i : Nat) : Bool := floorBit s 10 (16 + i) || pdieFailed s (i / 4)

/-- DRAM channel `k` by global number is marked failed (R318). -/
def chanFailed (s : State) (k : Nat) : Bool := floorBit s 11 k || pdieFailed s (k / 6)

/-- NAND channel `c` is marked failed. -/
def nandFailed (s : State) (c : Nat) : Bool := floorBit s 11 (32 + c)

/-- The flash controller (0), Furrow engine (1), RoCE engine (2), Adeop Link (3) or management core (4, 5) of X-die
`x` is marked failed. -/
def xUnitFailed (s : State) (x u : Nat) : Bool := floorBit s 14 (8 * x + u)

/-- Every lane of a port is marked failed (R354). -/
def laneFailed (s : State) (x p l : Nat) : Bool := floorBit s (12 + x) (8 * p + l)

end Sys2Proof.Machine
end

