-- ==== Sys2Proof/Machine/ReedSolomon.lean ====
section
/-!
DEFINITION. Reed-Solomon codes over GF(2^8) with field polynomial 0x11D: the lines of DRAM (R320) and the flits of the host
links (R404).
-/
namespace Sys2Proof.Machine

/-- Multiplication in GF(2^8) with field polynomial 0x11D (R320, R404). -/
def gfMul (a b : Nat) : Nat :=
  (List.range 8).foldl (fun r i =>
    let r := r * 2
    let r := if r ≥ 256 then r ^^^ 0x11D else r
    if b.testBit (7 - i) then r ^^^ a else r) 0

/-- α to a power, α = 0x02. -/
def gfPow (n : Nat) : Nat := (List.range n).foldl (fun p _ => gfMul p 2) 1

/-- The generator (x − α^0)(x − α^1)…(x − α^(n − 1)), its lowest coefficient first. -/
def rsGenerator (n : Nat) : List Nat :=
  (List.range n).foldl (fun g i => List.zipWith (· ^^^ ·) (0 :: g) (g.map (gfMul (gfPow i)) ++ [0])) [1]

/-- One step of the division by a generator `g` of degree `n`: the remainder, lowest coefficient first, after one more
information symbol. -/
def rsStep (g : List Nat) (n : Nat) (rem : List Nat) (v : Nat) : List Nat :=
  let f := v ^^^ rem.getD (n - 1) 0
  List.zipWith (fun r c => r ^^^ gfMul f c) (0 :: rem.take (n - 1)) (g.take n)

/-- The `n` check symbols of information symbols given from the highest power down: the coefficients of x^0 to x^(n − 1) that
make the codeword divisible by the generator. -/
def rsCheck (n : Nat) (info : List Nat) : List Nat := info.foldl (rsStep (rsGenerator n) n) (List.replicate n 0)

/-- The value of a word, its symbols from the highest power down, at α^j. -/
def rsSyndrome (j : Nat) (word : List Nat) : Nat := word.foldl (fun a v => gfMul a (gfPow j) ^^^ v) 0

/-- Is a word, from the highest power down, divisible by the generator of degree `n`? -/
def rsValid (n : Nat) (word : List Nat) : Bool := (List.range n).all (fun j => rsSyndrome j word == 0)

/-- The RS(80,64) codeword of a DRAM line (R320): the coefficient of x^i at position i, line byte b at position 16 + b. -/
def lineWord (data : List Byte) : List Nat :=
  let info := (sliceB data 0 64).map BitVec.toNat
  rsCheck 16 info.reverse ++ info

end Sys2Proof.Machine
end

