-- ==== Sys2Proof/Machine/Mem.lean ====
section
/-!
DEFINITION. Device physical memory: DRAM with its interleave, error correction and poison (R314 to R326), SRAM with
parity (R85, R86), the host memory window (R407 to R414) and the snoop filter's hold on device accesses (R410).
-/
namespace Sys2Proof.Machine

/-! ## The address map -/

/-- The rows of the device physical address table, with DRAM split at populated DRAM (R315, R316). -/
inductive Region where
  | dram
  | above
  | stook (k : Nat)
  | tile (t : Nat)
  | host
  | csr
  | unmapped
  deriving DecidableEq, Repr

/-- The size of populated DRAM, Nc × Cch (R315). -/
def dramSize (s : State) : Nat := s.fld Fld.MEM_IL_NC 0 * 2 ^ (s.fld Fld.MEM_IL_CAP_LOG2 0 + 30)

/-- Base of the stook SRAMs. -/
def stookBase : Nat := 0xE000000000000
/-- Base of the tile SRAM aliases. -/
def tileBase : Nat := 0xE000100000000
/-- Base of CSR space. -/
def csrBase : Nat := 0xFF00000000000
/-- One past the DRAM range. -/
def dramEnd : Nat := 0x060000000000

/-- Where a device physical address lies (00_scope.md, R533). -/
def regionOf (s : State) (a : Nat) : Region :=
  if a < dramEnd then (if a < dramSize s then .dram else .above)
  else if 0x8000000000000 ≤ a ∧ a < 0xC000000000000 then .host
  else if stookBase ≤ a ∧ a < stookBase + 64 * 0x800000 then .stook ((a - stookBase) / 0x800000)
  else if tileBase ≤ a ∧ a < tileBase + 512 * 0x100000 then .tile ((a - tileBase) / 0x100000)
  else if csrBase ≤ a ∧ a < csrBase + 0x10000000 then .csr
  else .unmapped

/-- Does a span of `n` bytes lie wholly in populated DRAM? -/
def inDram (s : State) (a n : Nat) : Bool := a + n ≤ dramSize s && a + n ≤ dramEnd

/-- Does a span lie wholly in one memory region of the map (populated DRAM, one stook SRAM, one tile alias, the host
window)? -/
def inOneMemory (s : State) (a n : Nat) : Bool :=
  match regionOf s a with
  | .dram => inDram s a n
  | .stook k => a + n ≤ stookBase + (k + 1) * 0x800000
  | .tile t => a + n ≤ tileBase + (t + 1) * 0x100000
  | .host => inHostWindow a n
  | _ => false

/-- Does the address lie in memory that the floor plan marks failed (R536)? -/
def inFailedMemory (s : State) (a : Nat) : Bool :=
  match regionOf s a with
  | .stook k => stookFailed s k
  | .tile t => tileFailed s t
  | _ => false

/-- The lines of 64 bytes that a span touches, as line numbers. -/
def linesOf (a n : Nat) : List Nat :=
  if n = 0 then [] else (List.range ((a + n - 1) / 64 - a / 64 + 1)).map (· + a / 64)

/-! ## DRAM channels -/

/-- The positions of the set bits of `m` below 24, lowest first. -/
def setBits24 (m : Nat) : List Nat := (List.range 24).filter (fun i => m.testBit i)

/-- The channel and channel-local address of a DRAM address (R315). -/
def dramMap (s : State) (a : Nat) : Nat × Nat :=
  let nc := s.fld Fld.MEM_IL_NC 0
  let g := a / 4096
  let r := g / nc
  let i := g % nc
  let i := if s.flag Fld.MEM_IL_HASH 0 then (i + (r ^^^ (r >>> 7) ^^^ (r >>> 17)) % nc) % nc else i
  ((setBits24 (s.fld Fld.MEM_IL_CH_MASK 0)).getD i 0, r * 4096 + a % 4096)

/-- The symbol errors of a line. -/
def errsOf (s : State) (line : Nat) : List (Nat × Byte) := Cells.get (fun _ => []) s.lineErr line

/-- The state with a line's symbol errors replaced. -/
def setErrs (s : State) (line : Nat) (e : List (Nat × Byte)) : State :=
  { s with lineErr := Cells.put (fun _ => []) s.lineErr line e }

/-- The device mark of a rank: VALID with a device of 0 to 9 (R322). -/
def markOf (s : State) (ch rank : Nat) : Option Nat :=
  let m := field (s.rd .DRAM_MARK ch) (5 * rank) 5
  if m / 16 = 1 ∧ m % 16 ≤ 9 then some (m % 16) else none

/-- How a line decodes under RS(80,64) with its rank's mark (R320 to R322). -/
inductive LineRead where
  | clean
  | corrected (devices : List Nat)
  | uncorrectable
  deriving DecidableEq, Repr

/-- Decode a line with the given error positions (R322): up to 8 errors unmarked; marked, the device's symbols as
erasures and up to 4 further errors. -/
def decodeErrs (mark : Option Nat) (pos : List Nat) : LineRead :=
  match pos with
  | [] => .clean
  | _ =>
    match mark with
    | none => if pos.length ≤ 8 then .corrected (pos.map (· / 8)) else .uncorrectable
    | some m =>
      if (pos.filter (fun i => i / 8 ≠ m)).length ≤ 4 then .corrected (pos.map (· / 8)) else .uncorrectable

/-- Decode a line of the current state. -/
def decodeLine (s : State) (line : Nat) : LineRead :=
  let (ch, loc) := dramMap s (line * 64)
  decodeErrs (markOf s ch (Config.rankOf ch loc).val) ((errsOf s line).map Prod.fst)

/-- The stored word of a line, position i at the coefficient of x^i (R320): the codeword of its data with its symbol errors. -/
def storedLine (s : State) (line : Nat) (data : List Byte) : List Nat :=
  (errsOf s line).foldl (fun w e => w.set e.1 (w.getD e.1 0 ^^^ e.2.toNat)) (lineWord data)

/-- The place of a line: channel, rank, sub-channel, and the line number its record gives. -/
structure LinePlace where
  ch : Nat
  rank : Nat
  sub : Nat
  line : Nat

/-- The place of a line of device physical memory. -/
def placeOf (s : State) (line : Nat) : LinePlace :=
  let (ch, loc) := dramMap s (line * 64)
  ⟨ch, (Config.rankOf ch loc).val, (Config.subOf ch loc).val, line⟩

/-- Record an error of a line (R326): TYPE 1 corrected, 2 uncorrectable read, 3 dropped write; the source is raised
for types 2 and 3. -/
def recordDram (s : State) (p : LinePlace) (type device : Nat) : State :=
  let s := if type = 1 then s.satAdd Fld.DRAM_ERR_CNT_CORRECTED p.ch 1 else s.satAdd Fld.DRAM_ERR_CNT_UNCORR p.ch 1
  let s := s.wr .DRAM_ERR_LAST p.ch (BitVec.ofNat 64
    (p.line % 2 ^ 46 + (device % 16) * 2 ^ 46 + p.rank * 2 ^ 50 + type * 2 ^ 52 + p.sub * 2 ^ 54))
  let s := detect s (if type = 1 then 5 else 6)
  if type = 1 then s else raiseSource s (128 + 64 * (p.ch / 6) + p.ch % 6)

/-- Count a correction within one device and set the rank's mark when THRESH is reached (R322, R326). -/
def countCorrection (s : State) (ch rank device : Nat) : State :=
  let key := ch * 64 + rank * 16 + device
  let n := Cells.get (fun _ => 0) s.markCnt key + 1
  let s := { s with markCnt := Cells.put (fun _ => 0) s.markCnt key n }
  let th := s.fld Fld.DRAM_MARK_THRESH ch
  if th ≠ 0 ∧ n ≥ th ∧ markOf s ch rank = none then
    raiseSource (s.wr .DRAM_MARK ch (withField (s.rd .DRAM_MARK ch) (5 * rank) 5 (16 + device)))
      (128 + 64 * (ch / 6) + ch % 6)
  else s

/-- The one device that holds every position, or 15 (R326). -/
def oneDevice : List Nat → Nat
  | [] => 15
  | d :: r => if r.all (· == d) then d else 15

/-- The records of a read that decoded as `r` (R322, R326). -/
def recordRead (s : State) (p : LinePlace) : LineRead → State
  | .clean => s
  | .corrected ds =>
    let d := oneDevice ds
    let s := recordDram s p 1 d
    if d = 15 then s else countCorrection s p.ch p.rank d
  | .uncorrectable =>
    let (f, s) := s.fresh 4
    recordDram s p 2 f.toNat

/-- A read of one line: its records, and whether the data is poisoned (R322 to R324). -/
def noteLineRead (s : State) (line : Nat) : Bool × State :=
  let r := decodeLine s line
  let s := recordRead s (placeOf s line) r
  match r with
  | .clean => (false, s)
  | .corrected _ => (false, { s with wbPend := if s.wbPend.contains line then s.wbPend else s.wbPend ++ [line] })
  | .uncorrectable => (true, s)

/-- Is the line on a channel that the floor plan marks failed (R318)? -/
def lineOnFailed (s : State) (line : Nat) : Bool := chanFailed s (dramMap s (line * 64)).1

/-- Is any channel of the interleave set failed? -/
def anyChanFailed (s : State) : Bool :=
  (setBits24 (s.fld Fld.MEM_IL_CH_MASK 0)).any (fun k => chanFailed s k)

/-- The lines of a span whose read needs attention: those with symbol errors. -/
def errLines (s : State) (a n : Nat) : List Nat :=
  if n = 0 then [] else
    (s.lineErr.map Prod.fst).filter (fun l => a / 64 ≤ l && l ≤ (a + n - 1) / 64)

/-- What a byte of memory that is not listed reads as: 0, but in DRAM a free value once its contents have been lost. -/
def memDefault (g a : Nat) : Byte := if g = 0 ∨ 0x060000000000 ≤ a then 0 else Config.dramContent g a

/-- The byte stored at an address, as a read returns it: an uncorrectable line keeps its error values. -/
def rawByte (s : State) (a : Nat) : Byte := Cells.get (memDefault s.memGen) s.mem a

/-- The bytes stored in a span. -/
def rawBytes (s : State) (a n : Nat) : List Byte := (List.range n).map (fun i => rawByte s (a + i))

/-- The bytes of a span with the error values of its uncorrectable lines. -/
def damagedBytes (s : State) (a n : Nat) : List Byte :=
  (List.range n).map (fun i =>
    let x := a + i
    let line := x / 64
    let b := rawByte s x
    if decodeLine s line = .uncorrectable then
      ((errsOf s line).find? (fun e => e.1 == 16 + x % 64)).elim b (fun e => b ^^^ e.2)
    else b)

/-- The result of a read: the bytes, whether the data is bad (poison or parity), and the state with its records. -/
structure ReadRes where
  data : List Byte
  bad : Bool
  st : State
  deriving DecidableEq

/-- A read of populated DRAM (R315, R318, R322 to R324). -/
def dramRead (s : State) (a n : Nat) : ReadRes :=
  let ls := errLines s a n
  let data := if ls.isEmpty then rawBytes s a n else damagedBytes s a n
  let (bad, s1) := ls.foldl (fun (p : Bool × State) l => let (b, t) := noteLineRead p.2 l; (p.1 || b, t)) (false, s)
  let bad := bad || (anyChanFailed s && (linesOf a n).any (lineOnFailed s))
  ⟨data, bad, s1⟩

/-- Store bytes at consecutive addresses. -/
def rawWrite (s : State) (a : Nat) (bs : List Byte) : State :=
  { s with mem := (bs.zip (List.range bs.length)).foldl (fun m e => Cells.put (memDefault s.memGen) m (a + e.2) e.1) s.mem }

/-- The part of a span that lies in one line: offset within the bytes and count. -/
def linePart (a n line : Nat) : Nat × Nat :=
  let lo := max a (line * 64)
  let hi := min (a + n) (line * 64 + 64)
  (lo - a, hi - lo)

/-- A write of one line's part (R325): a whole line replaces it and clears its errors; a part merges, unless the line
is uncorrectable, when it is dropped and recorded; a line on a failed channel is not written (R318). -/
def dramWriteLine (s : State) (a : Nat) (bs : List Byte) (line : Nat) : State :=
  let (o, n) := linePart a bs.length line
  let part := (bs.drop o).take n
  if anyChanFailed s && lineOnFailed s line then s
  else if n = 64 then
    let s := { setErrs s line [] with wbPend := s.wbPend.filter (· ≠ line) }
    let s := rawWrite s (a + o) part
    let ch := (dramMap s (line * 64)).1
    match injFire s 5 ch with
    | some (dev, s1) => setErrs s1 line [(dev * 8, 0xFF)]
    | none =>
      match injFire s 6 ch with
      | some (dev, s1) =>
        let ps := (List.range 8).map (fun i => dev * 8 + i) ++ (List.range 8).map (fun i => ((dev + 1) % 10) * 8 + i)
        setErrs s1 line ((sortBy (· ≤ ·) ps).map (fun p => (p, (0xFF : Byte))))
      | none => s
  else
    match decodeLine s line with
    | .clean => rawWrite s (a + o) part
    | .corrected _ =>
      let (_, s) := noteLineRead s line
      rawWrite { setErrs s line [] with wbPend := s.wbPend.filter (· ≠ line) } (a + o) part
    | .uncorrectable =>
      let (f, s) := s.fresh 4
      recordDram s (placeOf s line) 3 f.toNat

/-- Is an injection of DRAM errors armed? Then every line is written on its own. -/
def dramSpecial (s : State) : Bool :=
  s.flag Fld.ERR_INJ_ARMED 0 && (s.fld Fld.ERR_INJ_DETECTOR 0 == 5 || s.fld Fld.ERR_INJ_DETECTOR 0 == 6)

/-- A write of populated DRAM. -/
def dramWrite (s : State) (a : Nat) (bs : List Byte) : State :=
  if dramSpecial s || anyChanFailed s || !(errLines s a bs.length).isEmpty then
    (linesOf a bs.length).foldl (fun s l => dramWriteLine s a bs l) s
  else rawWrite s a bs

/-! ## SRAM -/

/-- The bad words of a span, by word number (physical address / 4). -/
def badWords (s : State) (a n : Nat) : List Nat :=
  if n = 0 then [] else (s.badPar.map Prod.fst).filter (fun w => a / 4 ≤ w && w ≤ (a + n - 1) / 4)

/-- The state with a word's parity mark at `b`. -/
def setBad (s : State) (w : Nat) (b : Bool) : State := { s with badPar := Cells.put (fun _ => false) s.badPar w b }

/-- A bad word found in an SRAM by a reader (R88, `TILE_PERR`, `STOOK_PERR`; R514 detectors 0 and 1). `src` is the
SOURCE code of `TILE_PERR`. -/
def recordBadWord (s : State) (master src w : Nat) : State :=
  let a := w * 4
  if a < tileBase then
    let k := (a - stookBase) / 0x800000
    let s := s.setFld Fld.STOOK_PERR_ADDR k ((a - stookBase) % 0x800000)
    let s := s.setFld Fld.STOOK_PERR_MASTER k master
    detect (s.satAdd Fld.STOOK_PERR_COUNT k 1) 1
  else
    let t := (a - tileBase) / 0x100000
    let s := s.setFld Fld.TILE_PERR_ADDR t ((a - tileBase) % 0x100000)
    let s := s.setFld Fld.TILE_PERR_SOURCE t src
    detect (s.satAdd Fld.TILE_PERR_COUNT t 1) 0

/-- A read of a working SRAM (R86, R88). -/
def sramRead (s : State) (master src a n : Nat) : ReadRes :=
  let ws := badWords s a n
  ⟨rawBytes s a n, !ws.isEmpty, ws.foldl (fun s w => recordBadWord s master src w) s⟩

/-- A write of whole words stores new parity, unless an injection inverts it (R86, R514 detectors 0 and 1). -/
def newParity (s : State) (w : Nat) : State :=
  let a := w * 4
  let f := if a < tileBase then injFire s 1 ((a - stookBase) / 0x800000) else injFire s 0 ((a - tileBase) / 0x100000)
  match f with
  | some (_, s1) => setBad s1 w true
  | none => setBad s w false

/-- Is an SRAM parity injection armed? -/
def sramSpecial (s : State) : Bool :=
  s.flag Fld.ERR_INJ_ARMED 0 && s.fld Fld.ERR_INJ_DETECTOR 0 ≤ 1

/-- The words of a span that the write covers whole. -/
def wholeWords (a n : Nat) : List Nat :=
  ((List.range ((a + n) / 4 - ceilDiv a 4)).map (· + ceilDiv a 4))

/-- The words at the ends of a span that the write covers in part. -/
def partWords (a n : Nat) : List Nat :=
  if n = 0 then [] else
  let f := if a % 4 ≠ 0 then [a / 4] else []
  let l := if (a + n) % 4 ≠ 0 then [(a + n) / 4] else []
  if f = l then f else f ++ l

/-- The result of a write: whether a merge met a bad word (R86), and the state. -/
structure WriteRes where
  bad : Bool
  st : State
  deriving DecidableEq

/-- What a context still fetches where tile SRAM is written: the bytes before the write and their parity, unless an earlier write has left
older ones (R150). A context that is IDLE has fetched nothing. -/
def keepFetched (s : State) (a n : Nat) : State :=
  if a < tileBase then s
  else
    let o := (a - tileBase) % 0x100000
    ((List.range 4).map (fun i => (a - tileBase) / 0x100000 * 4 + i)).foldl (fun s c =>
      if (Cells.get (fun _ => ({} : Ctx)) s.ctx c).st = .idle then s
      else { s with fetchOld := (List.range n).foldl (fun m i =>
        let k := c * 0x100000 + o + i
        if (Cells.get (fun _ => none) m k).isSome then m
        else Cells.put (fun _ => none) m k
          (some (rawByte s (a + i), Cells.get (fun _ => false) s.badPar ((a + i) / 4)))) s.fetchOld }) s

/-- The instruction fetch of a context takes what tile SRAM holds now (R150). -/
def dropFetched (s : State) (c : Nat) : State :=
  { s with fetchOld := Cells.drop (fun k => k / 0x100000 == c) s.fetchOld }

/-- A byte of tile SRAM as a context's instruction fetch reads it (R150). -/
def fetchByte (s : State) (c o : Nat) : Byte :=
  ((Cells.get (fun _ => none) s.fetchOld (c * 0x100000 + o)).map Prod.fst).getD (rawByte s (tileBase + c / 4 * 0x100000 + o))

/-- Has the word at offset `4 * w` of tile SRAM bad parity as a context's instruction fetch reads it (R150)? -/
def fetchBad (s : State) (c w : Nat) : Bool :=
  match (List.range 4).filterMap (fun i => Cells.get (fun _ => none) s.fetchOld (c * 0x100000 + 4 * w + i)) with
  | [] => Cells.get (fun _ => false) s.badPar ((tileBase + c / 4 * 0x100000) / 4 + w)
  | old => old.any Prod.snd

/-- A write of a working SRAM (R86): a merge that finds bad parity writes nothing. With `poison`, every word is stored
with inverted parity (R324). -/
def sramWrite (s : State) (master src a : Nat) (bs : List Byte) (poison : Bool) : WriteRes :=
  let badParts := (partWords a bs.length).filter (fun w => Cells.get (fun _ => false) s.badPar w)
  if !badParts.isEmpty then ⟨true, badParts.foldl (fun s w => recordBadWord s master src w) s⟩
  else
    let whole := wholeWords a bs.length
    let s := rawWrite (keepFetched s a bs.length) a bs
    let s := if sramSpecial s then whole.foldl newParity s
      else { s with badPar := Cells.drop (fun w => ceilDiv a 4 ≤ w && w < (a + bs.length) / 4) s.badPar }
    ⟨false, if poison then (whole ++ partWords a bs.length).foldl (fun s w => setBad s w true) s else s⟩

/-! ## The host memory window -/

/-- The received line of a master. -/
def hostLineOf (s : State) (master line : Nat) : Option HostLine :=
  s.hostBuf.find? (fun h => h.master == master && h.line == line)

/-- A read of the host window, from the lines received; with both links down it completes poisoned, a violation of
class 5 (R413, R414). -/
def hostRead (s : State) (master a n : Nat) : ReadRes :=
  let data := (List.range n).map (fun i =>
    match hostLineOf s master ((a + i) / 64) with
    | some h => h.data.getD ((a + i) % 64) 0
    | none => 0)
  let bad := (linesOf a n).any (fun l => (hostLineOf s master l).elim true (·.poison))
  ⟨data, bad, if linkFor s a = none then violation s 5 master a false else s⟩

/-- The qword mask of the bytes `o .. o + n - 1` of a line (R406). -/
def qwordMask (o n : Nat) : Nat := ((List.range 8).filter (fun q => o < 8 * q + 8 && 8 * q < o + n)).foldl (fun m q => m + 2 ^ q) 0

/-- A write of one line's part to the host window: a WR_UC under a qword mask; bytes of a qword that the write does not
cover come from the line read before. -/
def hostWriteLine (s : State) (master a : Nat) (bs : List Byte) (line : Nat) : State :=
  let (o, n) := linePart a bs.length line
  let lo := (a + o) % 64
  let old := (hostLineOf s master line).elim (List.replicate 64 0) (·.data)
  match linkFor s (line * 64) with
  | some x => devRequest s x 0x05 line master (qwordMask lo n) (putAt old lo ((bs.drop o).take n))
  | none => violation s 5 master a true

/-- A write of the host window. -/
def hostWrite (s : State) (master a : Nat) (bs : List Byte) : State :=
  (linesOf a bs.length).foldl (fun s l => hostWriteLine s master a bs l) s

/-! ## Any memory but CSR space -/

/-- A partial reset is in progress (R473). -/
def partialReset (s : State) : Bool := s.fld Fld.RESET_CTL_PSTATE 0 != 0

/-- Does the module run at all: neither held in full reset (R503, R519, R521, R530) nor in M4, where nothing is clocked (R526)? -/
def awake (s : State) : Bool := !s.pins.inReset && s.fld Fld.PWR_STATUS_STATE 0 != 4

/-- Do the X-dies outside the management island run (R477)? -/
def xdiesUp (s : State) : Bool := awake s && decide (s.fld Fld.PWR_STATUS_STATE 0 < 3)

/-- Are the P-dies in reset or without power (R474, R477, R511)? -/
def pdiesDown (s : State) : Bool := partialReset s || 2 ≤ s.fld Fld.PWR_STATUS_STATE 0 || s.pins.inReset

/-- An access to a stook ungates it (R476). -/
def ungate (s : State) (k : Nat) : State := if s.gated.testBit k then { s with gated := s.gated - 2 ^ k } else s

/-- What a write of a management block's register does, where it runs (R503, R526). -/
def onModule (s : State) (f : State → State) : State := if awake s then f s else s

/-- What a write of an X-die block's register does, where it runs (R477). -/
def onXdie (s : State) (f : State → State) : State := if xdiesUp s then f s else s

/-- What a write of a P-die block's register does, where the P-dies run (R474). -/
def onPdie (s : State) (f : State → State) : State := if pdiesDown s then s else f s

/-- What a write of a counter does: of names below 0x4000 it stands on a P-die, of others on an X-die. -/
def onCounter (s : State) (name : Nat) (f : State → State) : State := if name < 0x4000 then onPdie s f else onXdie s f

/-- What a write of a register of stook `k` does: it ungates the stook first (R476). -/
def onStook (s : State) (k : Nat) (f : State → State) : State := onPdie s (fun s => f (ungate s k))

/-- An access to DRAM has been performed: it has left the home of its lines (R411). -/
def leaveHome (s : State) (master a n : Nat) : State :=
  if s.homeQ.isEmpty then s
  else { s with homeQ := s.homeQ.filter (fun e => !(e.2 == master && a / 64 ≤ e.1 && e.1 * 64 < a + n)) }

/-- A read of device physical memory by a master; `src` is the `TILE_PERR.SOURCE` code. Populated DRAM is bounded by
Nc × Cch (R316), failed SRAM reads zero (R96, R97), unmapped space reads zero (R533), a gated stook is ungated (R476). -/
def memRead (s : State) (master src a n : Nat) : ReadRes :=
  match regionOf s a with
  | .dram => dramRead (leaveHome s master a n) a n
  | .stook k =>
    if pdiesDown s then ⟨List.replicate n 0, false, s⟩
    else if stookFailed s k then ⟨List.replicate n 0, false, violation s 2 master a false⟩
    else sramRead (ungate s k) master src a n
  | .tile t =>
    if pdiesDown s then ⟨List.replicate n 0, false, s⟩
    else if tileFailed s t then ⟨List.replicate n 0, false, violation s 2 master a false⟩
    else sramRead (ungate s (t / 8)) master src a n
  | .host => hostRead s master a n
  | _ => ⟨List.replicate n 0, false, violation s 2 master a false⟩

/-- A write of device physical memory by a master. -/
def memWrite (s : State) (master src a : Nat) (bs : List Byte) (poison : Bool) : WriteRes :=
  match regionOf s a with
  | .dram => ⟨false, dramWrite (leaveHome s master a bs.length) a bs⟩
  | .stook k =>
    if pdiesDown s then ⟨false, s⟩
    else if stookFailed s k then ⟨false, violation s 2 master a true⟩ else sramWrite (ungate s k) master src a bs poison
  | .tile t =>
    if pdiesDown s then ⟨false, s⟩
    else if tileFailed s t then ⟨false, violation s 2 master a true⟩ else sramWrite (ungate s (t / 8)) master src a bs poison
  | .host => ⟨false, hostWrite s master a bs⟩
  | _ => ⟨false, violation s 2 master a true⟩

/-- The pieces of a write that are merged or stored on their own: the part of a word before the first word boundary, the
whole words, and the part of a word after the last one. -/
def writePieces (a : Nat) (bs : List Byte) : List (Nat × List Byte) :=
  let h := min bs.length ((4 - a % 4) % 4)
  let w := (bs.length - h) / 4 * 4
  [(a, bs.take h), (a + h, (bs.drop h).take w), (a + h + w, bs.drop (h + w))].filter (fun p => !p.2.isEmpty)

/-- A write by an engine or firmware (R86, R91): a word that the write covers in part and that has bad parity is not
written, every other byte is; the answer says whether there was one. -/
def memMerge (s : State) (master a : Nat) (bs : List Byte) : WriteRes :=
  let r := memWrite s master 3 a bs false
  if r.bad then
    (writePieces a bs).foldl (fun (r : WriteRes) p =>
      let q := memWrite r.st master 3 p.1 p.2 false
      ⟨r.bad || q.bad, q.st⟩) ⟨true, s⟩
  else r

/-- The state after such a write. -/
def memPut (s : State) (master a : Nat) (bs : List Byte) : State := (memMerge s master a bs).st

/-- Read without side effects or errors: the bytes a working read returns. -/
def peek (s : State) (a n : Nat) : List Byte := rawBytes s a n

/-- Spans read and written by one operation. -/
abbrev Span := Nat × Nat

/-- Read spans for what the reads do: lines corrected and recorded (R322, R323, R326), violations (R533); whether a line or word is
bad, and the state. -/
def readSpans (s : State) (master : Nat) (sp : List Span) : Bool × State :=
  sp.foldl (fun acc p => let r := memRead acc.2 master 3 p.1 p.2; (acc.1 || r.bad, r.st)) (false, s)

/-! ## Waiting for the host (R408, R410) -/

/-- Is a snoop of a line outstanding, or waiting for a tag? -/
def snooping (s : State) (line : Nat) : Bool :=
  s.snps.any (fun p => p.line == line) || s.tagWait.any (fun w => w.line == line && 0x20 < w.opcode)

/-- Send a snoop for a tracked line (R409, R410), unless one is outstanding; with 4,096 tags outstanding it waits for one
(R406). -/
def sendSnoop (s : State) (opcode line : Nat) (waiter : Option Nat) : State :=
  if snooping s line then s
  else
    match linkFor s (line * 64) with
    | none => s
    | some x =>
      match freeTag s x with
      | none => { s with tagWait := s.tagWait ++ [{ opcode := opcode, line := line, waiter := waiter }] }
      | some t =>
        sendMsg { s with snps := s.snps ++ [{ link := x, tag := t, opcode := opcode, line := line, waiter := waiter }] }
          { link := x, opcode := opcode, tag := t, addr := line * 64 }

/-- An access is ready, or waits for host lines or snoop responses; the state holds the messages sent. -/
inductive Ready where
  | go
  | stall (s : State)
  deriving DecidableEq

/-- Is a line within one of the spans? -/
def lineIn (spans : List Span) (line : Nat) : Bool :=
  spans.any (fun p => p.2 ≠ 0 && p.1 / 64 ≤ line && line ≤ (p.1 + p.2 - 1) / 64)

/-- The tracked lines whose holder must be asked before the accesses (R410): held E or M for a read, any for a write. -/
def snoopsNeeded (s : State) (rd wr : List Span) : List (Nat × Nat) :=
  s.snoop.filterMap (fun e =>
    if lineIn wr e.line then some (0x21, e.line)
    else if lineIn rd e.line && e.excl then some (0x22, e.line) else none)

/-- The host lines that must be read first: those read, and those of which a write covers a qword in part. -/
def hostLinesNeeded (s : State) (rd wr : List Span) : List Nat :=
  (rd.filter (fun p => regionOf s p.1 = .host)).flatMap (fun p => linesOf p.1 p.2) ++
  (wr.filter (fun p => regionOf s p.1 = .host)).flatMap (fun p =>
    (if p.1 % 8 ≠ 0 then [p.1 / 64] else []) ++ (if (p.1 + p.2) % 8 ≠ 0 then [(p.1 + p.2 - 1) / 64] else []))

/-- Is a master one of the host links? -/
def isHostMaster (m : Nat) : Bool := m == 1 || m == 2

/-- Must a host request wait at the home for an access of another master that arrived before it (R411)? -/
def homeAhead (s : State) (line master : Nat) : Bool :=
  match s.homeQ.find? (fun e => e.1 == line) with
  | some e => e.2 != master
  | none => false

/-- Must a device access wait at the home for a host request that arrived before it (R411)? -/
def hostAhead (s : State) (line master : Nat) : Bool :=
  match s.homeQ.find? (fun e => e.1 == line && (e.2 == master || isHostMaster e.2)) with
  | some e => e.2 != master
  | none => false

/-- The accesses of a master to these lines have arrived at their homes and wait. -/
def enterHome (s : State) (lines : List Nat) (master : Nat) : State :=
  { s with homeQ := s.homeQ ++ ((lines.eraseDups).filter (fun l => !s.homeQ.contains (l, master))).map (fun l => (l, master)) }

/-- Does one of the spans reach DRAM? -/
def touchesDram (s : State) (spans : List Span) : Bool := spans.any (fun p => p.2 ≠ 0 && regionOf s p.1 = .dram)

/-- Ask for what the accesses wait for: snoops of tracked lines and RD_UC of host lines. With no link up, host reads
do not wait (R414). The access keeps its place at the home of the lines that it waits for (R411). During a partial reset requests to DRAM wait (R474). -/
def prepare (s : State) (master : Nat) (rd wr : List Span) : Ready :=
  if partialReset s && (touchesDram s rd || touchesDram s wr) then .stall s else
  let sn := snoopsNeeded s rd wr
  let hl := ((hostLinesNeeded s rd wr).eraseDups).filter (fun l =>
    (hostLineOf s master l).isNone && (linkFor s (l * 64)).isSome)
  let hb := (s.homeQ.map Prod.fst).filter (fun l => lineIn (rd ++ wr) l && hostAhead s l master)
  if sn.isEmpty && hl.isEmpty && hb.isEmpty then .go
  else
    let s := enterHome s (sn.map Prod.snd ++ hb) master
    let s := sn.foldl (fun s p => sendSnoop s p.1 p.2 none) s
    let s := hl.foldl (fun s l =>
      if s.devReq.any (fun r => r.opcode == 0x03 && r.line == l && r.master == master)
          || s.tagWait.any (fun w => w.opcode == 0x03 && w.line == l && w.master == master) then s
      else match linkFor s (l * 64) with
        | some x => devRequest s x 0x03 l master 0xFF []
        | none => s) s
    .stall s

/-- A write of the device that nothing waits for (R408, R410): made at once, or held, after every write held before it that
shares a line with it, until the host has answered. -/
def devPut (s : State) (master a : Nat) (bs : List Byte) : State :=
  let behind : Bool := s.heldPuts.any (fun h => match h with
    | .put _ b cs => (linesOf a bs.length).any (lineIn [(b, cs.length)])
    | .event .. | .packet .. | .submit .. | .furrow .. => false)
  if bs.isEmpty then s
  else
    match prepare s master [] [(a, bs.length)] with
    | .stall s => { s with heldPuts := s.heldPuts ++ [.put master a bs] }
    | .go => if behind then { s with heldPuts := s.heldPuts ++ [.put master a bs] } else memPut s master a bs

/-- The received host lines of a master are used up, and its accesses wait for nothing. -/
def dropHost (s : State) (master : Nat) : State :=
  { s with hostBuf := s.hostBuf.filter (fun h => h.master ≠ master), homeQ := s.homeQ.filter (fun e => e.2 ≠ master) }

end Sys2Proof.Machine
end

