-- ==== Sys2Proof/Machine/Engine.lean ====
section
/-!
DEFINITION. Completion counters and rings (R47 to R52), engine queues, and how a job starts, ends and is aborted
(R49, R140, R141, R148, R534 to R536).
-/
namespace Sys2Proof.Machine

/-! ## Completion counters -/

/-- A valid counter name (R47). -/
def counterValid (name : Nat) : Bool :=
  name < 0x6000 && (name < 0x4000 || name % 0x1000 < 1024)

/-- The register that holds a counter (R48). -/
def counterReg (name : Nat) : Reg × Nat :=
  if name < 0x4000 then (.P_COUNTER, name) else (.X_COUNTER, (name / 0x1000 - 4) * 1024 + name % 0x1000)

/-- The value of a counter. -/
def counterVal (s : State) (name : Nat) : Nat := (s.rd (counterReg name).1 (counterReg name).2).toNat

/-- A counter increased modulo 2^64 (R49, R54). -/
def counterAdd (s : State) (name n : Nat) : State :=
  s.wr (counterReg name).1 (counterReg name).2 (BitVec.ofNat 64 (counterVal s name + n))

/-! ## Units -/

/-- The engines reached by enq whose jobs are held in `State.eng` (R142). -/
inductive EngUnit where
  | dma (k : Nat)
  | thresher (k : Nat)
  | baler (d : Nat)
  | perm (d : Nat)
  | token (d : Nat)
  | stream (i : Nat)
  | pool (d : Nat)
  | furrow (x : Nat)
  deriving DecidableEq, Repr

/-- The model's key of a unit. -/
def unitKey : EngUnit → Nat
  | .dma k => k
  | .thresher k => 64 + k
  | .baler d => 128 + d
  | .perm d => 132 + d
  | .token d => 136 + d
  | .stream i => 140 + i
  | .pool d => 156 + d
  | .furrow x => 160 + x

/-- The engine class (R142). -/
def unitClass : EngUnit → Nat
  | .dma _ => 0
  | .thresher _ => 1
  | .baler _ => 2
  | .perm _ => 3
  | .token _ => 4
  | .stream _ => 5
  | .pool _ => 8
  | .furrow _ => 7

/-- The instance byte of a completion record (R534). -/
def unitNumber : EngUnit → Nat
  | .dma k | .thresher k | .baler k | .perm k | .token k | .stream k | .pool k | .furrow k => k

/-- The master ID of a unit (00_scope.md). -/
def unitMaster : EngUnit → Nat
  | .dma k => 0x3A0 + k / 2
  | .thresher k => 0x300 + k
  | .baler d => 0x350 + d
  | .perm d => 0x354 + d
  | .token d => 0x358 + d
  | .stream i => 0x340 + i
  | .pool d => 0x35C + d
  | .furrow x => 0x390 + x

/-- Is the unit marked failed in the floor plan? -/
def unitFailed (s : State) : EngUnit → Bool
  | .dma k => dmaFailed s k
  | .thresher k => thrFailed s k
  | .baler d => pUnitFailed s d 0
  | .perm d => pUnitFailed s d 1
  | .token d => pUnitFailed s d 2
  | .stream i => streamFailed s i
  | .pool d => pUnitFailed s d 3
  | .furrow x => xUnitFailed s x 1

/-- How many jobs wait at most in the unit's queue (R108, R185, R225, R251, R277, R337, R334). -/
def unitDepth : EngUnit → Nat
  | .thresher _ | .stream _ => 32
  | _ => 64

/-- The jobs of a unit, in order of enqueue. -/
def jobsOf (s : State) (u : EngUnit) : List Job := Cells.get (fun _ => []) s.eng (unitKey u)

/-- The state with a unit's jobs replaced. -/
def setJobs (s : State) (u : EngUnit) (js : List Job) : State :=
  { s with eng := Cells.put (fun _ => []) s.eng (unitKey u) js }

/-- Jobs in one phase. -/
def phaseCount (js : List Job) (p : JobPhase) : Nat := (js.filter (fun j => j.phase == p)).length

/-- A unit's jobs with one changed. -/
def updateJob (s : State) (u : EngUnit) (seq : Nat) (f : Job → Job) : State :=
  setJobs s u ((jobsOf s u).map (fun j => if j.seq = seq then f j else j))

/-! ## Descriptor header (R140) -/

/-- Operation byte. -/
def Job.op (j : Job) : Nat := leAt j.desc 0 1
/-- Flags byte. -/
def Job.flags (j : Job) : Nat := leAt j.desc 1 1
/-- Tag. -/
def Job.tag (j : Job) : Nat := leAt j.desc 2 2
/-- Job ID. -/
def Job.jobId (j : Job) : Nat := leAt j.desc 4 1
/-- Completion counter name. -/
def Job.counter (j : Job) : Nat := leAt j.desc 6 2
/-- Descriptor length in 64-byte units. -/
def Job.units (j : Job) : Nat := leAt j.desc 5 1 % 4 + 1

/-! ## Completion records (R51, R52, R141) -/

/-- A completion record (R141): tag, job ID, status, class, unit number, counter name, transferred length (0 unless OK,
R535), engine-specific bytes. -/
def recordBytes (tag job status cls unit counter xfer : Nat) (eng : List Byte) : List Byte :=
  leBytes 2 tag ++ leBytes 1 job ++ leBytes 1 status ++ leBytes 1 cls ++ leBytes 1 unit ++ leBytes 2 counter
    ++ leBytes 8 (if status = 0 then xfer else 0) ++ sliceB eng 0 16

/-- The die index of DIE_CTL for a counter name: 0 to 3 P-dies, 4 and 5 X-dies. -/
def counterDie (name : Nat) : Nat := name / 0x1000

/-- The address of a counter's ring table entry (R51). -/
def tableEntryAddr (s : State) (name : Nat) : Nat :=
  s.fld Fld.CQ_TABLE_BASE (counterDie name) * 64 + name % 0x1000 * 8

/-- The record slot of the ring a table entry binds (R51, R52): the ring's base, its bytes, and the slot's address. -/
def ringSlot (entry v : Nat) : Nat × Nat × Nat :=
  let base := bits entry 6 46 * 64
  let lg := bits entry 52 4
  (base, 2 ^ lg * 32, base + v % 2 ^ lg * 32)

/-- May a ring lie there: populated DRAM, one stook SRAM, or the host window (R51)? -/
def ringPlaceOk (s : State) (base len : Nat) : Bool :=
  inOneMemory s base len && (match regionOf s base with | .tile _ => false | _ => true)

/-- The spans that the end of a job accesses besides its own writes. -/
def recordSpans (s : State) (name : Nat) : List Span × List Span :=
  if s.flag Fld.CQ_TABLE_ENABLE (counterDie name) then
    let e := tableEntryAddr s name
    let entry := leNat (peek s e 8)
    let (_, _, slot) := ringSlot entry (counterVal s name)
    ([(e, 8)], if entry / 2 ^ 63 = 1 then [(slot, 32)] else [])
  else ([], [])

/-- Write a job's completion record to its counter's ring, or discard it (R52). -/
def writeRecord (s : State) (master name : Nat) (record : List Byte) : State :=
  if !s.flag Fld.CQ_TABLE_ENABLE (counterDie name) then s
  else
    let r := memRead s master 3 (tableEntryAddr s name) 8
    let entry := leNat r.data
    if r.bad || entry / 2 ^ 63 ≠ 1 then r.st
    else
      let (base, len, slot) := ringSlot entry (counterVal s name)
      if ringPlaceOk s base len then memPut r.st master slot record
      else violation r.st 3 master slot true

/-- A job's record, then its increment (R49, R52, R148). -/
def recordAndCount (s : State) (master name : Nat) (record : List Byte) : State :=
  counterAdd (writeRecord s master name record) name 1

/-! ## Outstanding jobs of a step (R87, R88) -/

/-- The context at an index of the module. -/
def ctxAt (s : State) (c : Nat) : Ctx := Cells.get (fun _ => {}) s.ctx c

/-- The state with one context changed. -/
def setCtx (s : State) (c : Nat) (x : Ctx) : State := { s with ctx := Cells.put (fun _ => {}) s.ctx c x }

/-- A job has ended: it is outstanding for its context no longer, whichever software context enqueued it. -/
def clearOutstanding (s : State) (j : Job) : State :=
  match j.origin with
  | none => s
  | some c =>
    let x := ctxAt s c
    let s := setCtx s c { x with out := x.out.filter (· ≠ j.seq) }
    let s := { s with parked := s.parked.map (fun (p : Parked) => { p with saved := { p.saved with out := p.saved.out.filter (· ≠ j.seq) } }) }
    { s with sliceOut := Cells.mapVal (fun _ => []) (fun k l => if k / 8 = c then l.filter (· ≠ j.seq) else l) s.sliceOut }

/-! ## Starting, ending, aborting -/

/-- What a started job will do: status, transferred length, record bytes, writes, notes, and the state with the effects
of its checks and reads. -/
structure Started where
  status : Nat
  xfer : Nat := 0
  eng : List Byte := []
  writes : List (Nat × List Byte) := []
  cut : Bool := false
  inv : List Nat := []
  aux : List Nat := []
  st : State

/-- A job that ends with a status and moves nothing. -/
def failWith (s : State) (status : Nat) (eng : List Byte := []) : Started := { status := status, eng := eng, st := s }

/-- An armed injection of detector 11 makes the next job of the engine read an internal word with inverted parity: a
job that would have moved data ends with status 0x80 (R514, R516). `fix` gives the record of such an end. -/
def internalParity (u : EngUnit) (r : Started) (fix : Started → List Byte := Started.eng) : Started :=
  if r.status ≠ 0 then r
  else
    match injFire r.st 11 (unitMaster u) with
    | some (_, s1) => { r with status := 0x80, cut := true, eng := fix r, st := detect s1 11 }
    | none => r

/-! ## Records of jobs that do not run to their end (R535: the fields keep the meanings of the unit's chapter) -/

/-- The P-die and pool of a pool job, as the index of the pool registers (R333). -/
def jobPool (d : Nat) (j : Job) : Nat := d * 64 + leAt j.desc 8 1 % 64

/-- The record bytes of a pool job: the FREE count and the pool's index stand in each (R334). -/
def poolEng (s : State) (p first check : Nat) : List Byte :=
  leBytes 8 first ++ leBytes 4 (s.fld Fld.POOL_STAT_FREE p) ++ leBytes 1 (p % 64) ++ leBytes 1 check ++ [0, 0]

/-- The record bytes of a Furrow descriptor (R379). -/
def furEng (msg dst resends check old : Nat) : List Byte :=
  leBytes 4 msg ++ leBytes 2 dst ++ leBytes 1 (min 255 resends) ++ leBytes 1 check ++ leBytes 8 old

/-- A Furrow descriptor's destination module. -/
def furDst (j : Job) : Nat := leAt j.desc 8 2

/-- The record bytes of OPEN and STEP (R280). -/
def stepEng (token reason chk released stored allowed held : Nat) : List Byte :=
  leBytes 4 token ++ leBytes 1 reason ++ leBytes 1 chk ++ leBytes 2 released ++ leBytes 4 stored ++ leBytes 2 allowed
    ++ leBytes 2 held

/-- The session of a token job. -/
def tokSession (j : Job) : Nat := leAt j.desc 0x0A 2

/-- An OPEN or STEP without effect: no token, and what the session it names holds (R280). -/
def stepIdle (s : State) (d : Nat) (j : Job) : List Byte :=
  let t : TokSt := Cells.get (fun _ => {}) s.tok d
  match Cells.get (fun _ => none) t.sess (tokSession j) with
  | some x => stepEng 0xFFFFFFFF 0 0 0 x.tokens 0 x.hold.length
  | none => stepEng 0xFFFFFFFF 0 0 0 0 0 0

/-- The record bytes of a job that has not started. -/
def idleEng (s : State) (u : EngUnit) (j : Job) : List Byte :=
  match u with
  | .token d => if j.op = 4 ∨ j.op = 5 then stepIdle s d j else List.replicate 16 0
  | .pool d => poolEng s (jobPool d j) 0 0
  | .furrow _ => furEng 0 (furDst j) 0 0 0
  | .baler _ => if j.phase = .held then j.eng else List.replicate 16 0
  | _ => List.replicate 16 0

/-- The record bytes of a bale that ends other than OK: the map byte counts as written once its write is issued, which is when only
the immediate, or nothing, of the job still waits (R255; DESIGN CHOICE, log entry 134). -/
def mapIssued (s : State) (d : Nat) (j : Job) : List Byte :=
  if s.outbox.any (fun w => w.die == d && w.seq == j.seq && w.imm.isNone) then putAt j.eng 6 [0] else j.eng

/-- A free number from 0 to `n`: how far a job had come when it was cut off (R65). -/
def freeUpTo (s : State) (n : Nat) : Nat × State := let (f, s) := s.fresh 32; (f.toNat % (n + 1), s)

/-- A field of `n` bytes at offset `o` of record bytes, lowered to a free number. -/
def lowerField (s : State) (eng : List Byte) (o n : Nat) : List Byte × State :=
  let (v, s) := freeUpTo s (leAt eng o n)
  (putAt eng o (leBytes n v), s)

/-- The record bytes of a running job that is aborted or whose unit fails, `lens` bytes of its writes made: counts of what the
whole job would have done become counts of what it has done. Whether a RECORD job had reached its payload check, whose CRC-32C
it then reports (R347), is free. -/
def cutEng (s : State) (u : EngUnit) (j : Job) (lens : List Nat) : List Byte × State :=
  if j.phase ≠ .running then (idleEng s u j, s)
  else
    match u with
    | .thresher _ =>
      let (e, s) := lowerField s j.eng 4 2
      let (e, s) := lowerField s e 6 1
      let (f, s) := s.fresh 1
      (putAt e 7 [0, if f = 1 then BitVec.ofNat 8 (putBits (leAt e 8 1) 1 1 0) else BitVec.ofNat 8 (leAt e 8 1)], s)
    | .perm _ =>
      if j.op = 3 then (j.eng, s)
      else
        let (e, s) := lowerField s j.eng 12 4
        (putAt e 0 (leBytes 4 (lens.headD 0 / 16)), s)
    | .token d =>
      match j.op with
      | 3 =>
        let (e, s) := lowerField s j.eng 4 4
        let (e, s) := lowerField s e 8 4
        (putAt (putAt e 0 (leBytes 4 (lens.headD 0 / 4))) 12 [0], s)
      | 4 | 5 => (stepIdle s d j, s)
      | _ => (j.eng, s)
    | .stream _ =>
      let (f, s) := if j.op = 6 then s.fresh 1 else (0, s)
      let (e, s) := lowerField s (if f = 1 then j.eng else putAt j.eng 0 (leBytes 8 0)) 8 4
      (putAt e 12 [0, 0], s)
    | .pool d => (poolEng s (jobPool d j) 0 0, s)
    | .baler d =>
      (mapIssued s d j, s)
    | _ => (j.eng, s)

/-- How many output frames of a thresher job are whole: `rows` writes each, the first `made` of the list made, of the others a
fixed part (R208, R63; log entry 107). -/
def framesWhole (desc : List Byte) (rows : Nat) (ws : List (Nat × List Byte)) (made : Nat) : Nat :=
  ((List.range (ws.length / rows)).filter (fun f => (List.range rows).all (fun r =>
    let i := f * rows + r
    i < made || (ws.getD i default).2.length ≤ Config.cutLength desc ws i))).length

/-- The record bytes of a job that a word of bad parity ends while its output is merged, after `made` whole writes (R86, R91). -/
def parityEng (u : EngUnit) (j : Job) (made : Nat) : List Byte :=
  match u with
  | .thresher _ =>
    putAt (putAt j.eng 7 [15]) 6 (leBytes 1 (framesWhole j.desc (j.writes.length / max 1 (leAt j.desc 0x1A 1)) j.writes made))
  | .stream _ => putAt j.eng 12 [if j.op = 6 then 14 else 4]
  | .pool _ => putAt j.eng 13 [4]
  | _ => j.eng

/-- The job with the outcome of its start. -/
def Job.begin (j : Job) (r : Started) : Job :=
  { j with phase := .running, status := r.status, xfer := r.xfer, eng := r.eng, writes := r.writes, cut := r.cut, inv := r.inv,
           aux := r.aux }

/-- What the writes of a job that ends make of it: the state after them, and the job with its final outcome. -/
structure Finished where
  st : State
  job : Job
  deriving DecidableEq

/-- A job that fails its first checks ends at once and never runs (R223, R243). -/
def refuseJob (u : EngUnit) (j : Job) (r : Started) : State :=
  updateJob r.st u j.seq (fun j => { j.begin r with phase := .ended })

/-- Start job `j` of unit `u` with the outcome `r`. -/
def startJob (u : EngUnit) (j : Job) (r : Started) : State := updateJob r.st u j.seq (fun j => j.begin r)

/-- The spans of a list of writes. -/
def writeSpans (ws : List (Nat × List Byte)) : List Span := ws.map (fun w => (w.1, w.2.length))

/-- Perform a list of writes in order: each gives the bytes that `keep` leaves of it. A write that merges into an SRAM word of
bad parity is the failed read of R91: the answer says so, and of the writes after it only the part is made that a fixed
function of the descriptor and the writes gives (R63; log entry 107). -/
def performWrites (s : State) (master : Nat) (desc : List Byte) (ws : List (Nat × List Byte)) : WriteRes :=
  ws.zipIdx.foldl (fun r w =>
    if r.bad then ⟨true, memPut r.st master w.1.1 (w.1.2.take (Config.cutLength desc ws w.2))⟩
    else memMerge r.st master w.1.1 w.1.2) ⟨false, s⟩

/-- The writes of a job that its own data ends: of each, the first bytes that a fixed function of the descriptor and the
writes gives (R63). -/
def cutWrites (desc : List Byte) (ws : List (Nat × List Byte)) : List (Nat × List Byte) :=
  ws.zipIdx.map (fun w => (w.1.1, w.1.2.take (Config.cutLength desc ws w.2)))

/-- How many first bytes of each write a job that is cut off from outside has already written: free values (R65, R110). -/
def cutLens (s : State) (ws : List (Nat × List Byte)) : List Nat × State :=
  ws.foldl (fun acc w => let (f, s) := acc.2.fresh 32; (acc.1 ++ [min w.2.length f.toNat], s)) ([], s)

/-- Make that much of each write: the writes still to be made and the state. Where the host is to be asked first, they are made
at the job's end row, before its record (R148). -/
def performSome (s : State) (master : Nat) (ws : List (Nat × List Byte)) (lens : List Nat) : List (Nat × List Byte) × State :=
  let ws := ((ws.zip lens).map (fun w => (w.1.1, w.1.2.take w.2))).filter (fun w => !w.2.isEmpty)
  match prepare s master [] (writeSpans ws) with
  | .go => ([], ws.foldl (fun s w => memPut s master w.1 w.2) s)
  | .stall s => (ws, s)

/-- The outcome of a job once its writes are made: a word of bad parity that they merge into ends it with 0x80 (R91, R109). -/
def writeOutcome (u : EngUnit) (j : Job) (bad : Bool) (made : Nat) : Job :=
  if bad && j.status = 0 then { j with status := 0x80, eng := parityEng u j made } else j

/-- How many of a list of writes are made before one merges into a bad word. -/
def writtenWhole (s : State) (master : Nat) (ws : List (Nat × List Byte)) : Nat :=
  (ws.foldl (fun (r : WriteRes × Nat) w =>
    if r.1.bad then r
    else
      let q := memMerge r.1.st master w.1 w.2
      (q, if q.bad then r.2 else r.2 + 1)) (⟨false, s⟩, 0)).2

/-- A job makes its writes and has its final outcome. -/
def finishWrites (s : State) (u : EngUnit) (j : Job) : Finished :=
  let ws := if j.cut then cutWrites j.desc j.writes else j.writes
  let r := performWrites s (unitMaster u) j.desc ws
  let inv := j.inv.filter (fun w => ws.any (fun e => e.1 < 4 * w + 4 && 4 * w < e.1 + e.2.length))
  ⟨inv.foldl (fun s w => setBad s w true) r.st, writeOutcome u j r.bad (writtenWhole s (unitMaster u) ws)⟩

/-- The record and the increment of a job with its final outcome (R49, R52, R148); it leaves its queue and its context's
step. -/
def endRecord (s : State) (u : EngUnit) (j : Job) : State :=
  let m := unitMaster u
  let s := recordAndCount s m j.counter
    (recordBytes j.tag j.jobId j.status (unitClass u) (unitNumber u) j.counter j.xfer j.eng)
  let s := setJobs s u ((jobsOf s u).filter (fun k => k.seq ≠ j.seq))
  dropHost (clearOutstanding s j) m

/-- End a job: its writes, its record, its increment. -/
def endJob (s : State) (u : EngUnit) (j : Job) : State :=
  let f := finishWrites s u j
  endRecord f.st u f.job

/-- The jobs of a unit that may end now: running or with a final outcome. -/
def endable (s : State) (u : EngUnit) : List Job :=
  (jobsOf s u).filter (fun j => j.phase = .running ∨ j.phase = .ended)

/-- Do the accesses of a job's end wait for the host? -/
def endReady (s : State) (u : EngUnit) (j : Job) : Ready :=
  let (rd, wr) := recordSpans s j.counter
  prepare s (unitMaster u) rd (wr ++ writeSpans j.writes)

/-- A thresher that runs a job has been busy for a number of cycles that the spec leaves open (R210, R65). -/
def busyCycles (s : State) (u : EngUnit) : State :=
  match u with
  | .thresher k =>
    if phaseCount (jobsOf s u) .running = 0 then s
    else let (v, s) := s.fresh 64; s.modAdd Fld.THR_BUSY_CYCLES k v.toNat
  | _ => s

/-- Cut a job off with a final status: what it has written stays written, nothing more is (R110, R111, R535). A thresher still
holds its frame buffers, which its end returns (R186, R187, R190). -/
def cutJob (s : State) (u : EngUnit) (status : Nat) (j : Job) : State :=
  let (lens, s) := cutLens (busyCycles s u) j.writes
  let (eng, s) := cutEng s u j lens
  let (ws, s) := performSome (dropHost s (unitMaster u)) (unitMaster u) j.writes lens
  let frames := match u with
    | .thresher _ => j.aux
    | _ => []
  updateJob s u j.seq (fun j =>
    { j with phase := .ended, status := status, eng := eng, writes := ws, cut := false, inv := [], aux := frames, xfer := 0 })

/-- The jobs of a unit with a job ID and tag whose outcome is not final. -/
def abortable (s : State) (u : EngUnit) (job tag : Nat) : List Job :=
  (jobsOf s u).filter (fun j => j.jobId = job ∧ j.tag = tag ∧ j.phase ≠ .ended)

/-- Abort every such job: status ABORTED; the number aborted and the state (R110 and its like). -/
def abortJobs (s : State) (u : EngUnit) (job tag : Nat) : Nat × State :=
  let js := abortable s u job tag
  (js.length, js.foldl (fun s j => cutJob s u 0x01 j) s)

/-- A unit fails: every job queued or running ends with UNIT_FAILED (R111 and its like). -/
def failUnit (s : State) (u : EngUnit) : State :=
  ((jobsOf s u).filter (fun j => j.phase ≠ .ended)).foldl (fun s j => cutJob s u 0x10 j) s

/-- What a loaded job uses (R470; log entry 108): a unit, and for a pool job its pool. -/
def noteUse (s : State) (id key : Nat) : State :=
  if s.jobs.any (fun j => j.id == id) && !s.jobUse.contains (id, key) then { s with jobUse := s.jobUse ++ [(id, key)] } else s

/-- The key of a flash controller in `State.jobUse`. -/
def flashUse (x : Nat) : Nat := 200 + x

/-- The key of a RoCE engine in `State.jobUse`. -/
def roceUse (x : Nat) : Nat := 202 + x

/-- The key of a pool in `State.jobUse`. -/
def poolUse (p : Nat) : Nat := 1024 + p

/-- What a descriptor of a unit uses: the unit, and the pool of a pool job or the one that a thresher's buffers come from. -/
def noteJob (s : State) (u : EngUnit) (j : Job) : State :=
  let s := noteUse s j.jobId (unitKey u)
  match u with
  | .pool d => noteUse s j.jobId (poolUse (jobPool d j))
  | .thresher k => noteUse s j.jobId (poolUse (k / 16 * 64 + leAt j.desc 0x16 1 % 64))
  | _ => s

/-- Put a descriptor into a unit's queue; a failed unit ends it with UNIT_FAILED (R111 and its like). -/
def enqueueJob (s : State) (u : EngUnit) (desc : List Byte) (origin : Option Nat) : State :=
  let j : Job := { seq := s.jobSeq, desc := desc, origin := origin }
  let s := noteJob s u j
  let j := if unitFailed s u then { j with phase := .ended, status := 0x10, eng := idleEng s u j } else j
  let s := setJobs { s with jobSeq := s.jobSeq + 1 } u (jobsOf s u ++ [j])
  match origin with
  | none => s
  | some c => let x := ctxAt s c; setCtx s c { x with out := x.out ++ [j.seq] }

/-- Is the queue that a descriptor goes to full? Furrow has a queue of 64 for each send queue (R377); held jobs count as
waiting (R225, R251). -/
def queueFull (s : State) (u : EngUnit) (desc : List Byte) : Bool :=
  let js := (jobsOf s u).filter (fun j => j.phase = .waiting ∨ j.phase = .held)
  match u with
  | .furrow _ => (js.filter (fun j => leAt j.desc 0x0A 1 = leAt desc 0x0A 1)).length ≥ 64
  | _ => js.length ≥ unitDepth u

/-- The first waiting job of a unit. -/
def firstWaiting (s : State) (u : EngUnit) : Option Job := (jobsOf s u).find? (fun j => j.phase = .waiting)

/-- Does a start row for operation `op` take this job: its own operation, or one that names no operation of the engine
(which no row names; its checks refuse it)? -/
def takesOp (defined : List Nat) (op : Nat) (j : Job) : Bool := j.op == op || !defined.contains j.op

/-- Start the first waiting job of a unit: `may` says whether the unit can take it, `reads` what its checks and run
read, `puts` what they write, `run` its outcome. While the reads wait for the host only the requests are sent. -/
def startFirst (s : State) (u : EngUnit) (takes : Job → Bool) (may : Job → Bool) (reads : State → Job → List Span)
    (run : State → Job → Started) (fix : Job → Started → List Byte := fun _ => Started.eng) (puts : State → Job → List Span := fun _ _ => []) : State :=
  match firstWaiting s u with
  | none => s
  | some j =>
    if !takes j || !may j then s
    else
      match prepare s (unitMaster u) (reads s j) (puts s j) with
      | .stall s => s
      | .go => let s := startJob u j (internalParity u (run s j) (fix j)); dropHost s (unitMaster u)

/-- End job number `i` of those that may end; `done` is the unit's DONE field, if it has one, and its copy. -/
def jobEnd (s : State) (u : EngUnit) (i : Nat) (done : Option (Fld × Nat)) : State :=
  match (endable s u)[i]? with
  | none => s
  | some j =>
    match endReady s u j with
    | .stall s => s
    | .go =>
      let s := endJob s u j
      match done with
      | some (f, k) => s.modAdd f k 1
      | none => s

end Sys2Proof.Machine
end

