-- ==== Sys2Proof/Machine/Context.lean ====
section
/-!
DEFINITION. Hardware contexts: starting, stopping, step marks and replay, time-slicing and barriers (R80 to R105, R113,
R144, R151), and the commands that act on them.
-/
namespace Sys2Proof.Machine

/-! ## Names -/

/-- Cause codes (R98). -/
def causeNone : Nat := 0x00
def causeIllegal : Nat := 0x01
def causeAddress : Nat := 0x02
def causeMisaligned : Nat := 0x03
def causeWindow : Nat := 0x04
def causeAccNotOwned : Nat := 0x05
def causeCsrAccess : Nat := 0x06
def causeBreakpoint : Nat := 0x07
def causeParity : Nat := 0x08
def causeUnitFailed : Nat := 0x09
def causeQuantum : Nat := 0x0A
def causeStopRequest : Nat := 0x0B
def causeHalt : Nat := 0x0C
def causeEngineClass : Nat := 0x0D
def causeCounterInvalid : Nat := 0x0E

/-- The tile of a context. -/
def tileOf (c : Nat) : Nat := c / 4
/-- The stook of a context. -/
def stookOf (c : Nat) : Nat := c / 32
/-- The master ID of a context's tile. -/
def tileMaster (c : Nat) : Nat := 0x100 + tileOf c

/-- `CTX_CTL.STATE` code. -/
def ctxStateCode : CtxState → Nat
  | .idle => 0
  | .running => 1
  | .waiting => 2
  | .stopped => 3
  | .replaying => 4

/-- IDLE or STOPPED (R93, R113). -/
def atRest (x : Ctx) : Bool := x.st == .idle || x.st == .stopped

/-! ## Stopping -/

/-- A context's pending bit is set (R99); the stook's source is asserted while a bit is pending and not masked. -/
def setStookPend (s : State) (c : Nat) : State :=
  let k := stookOf c
  relevel (s.wr .STOOK_IRQ_PEND k (withField (s.rd .STOOK_IRQ_PEND k) (c % 32) 1 1)) (512 + k)

/-- A waiting arrival at a barrier is withdrawn (R151). -/
def withdrawArrival (s : State) (c : Nat) : State :=
  match (ctxAt s c).wait with
  | some (.barrier id) =>
    let key := stookOf c * 8 + id
    let b := Cells.get (fun _ => ({} : Barrier)) s.bar key
    let arr := putBits b.arrived (c % 32) 1 0
    { s with bar := Cells.put (fun _ => {}) s.bar key (if arr = 0 then {} else { b with arrived := arr }) }
  | _ => s

/-- A management core. -/
def mcAt (s : State) (k : Nat) : Mc := Cells.get (fun _ => {}) s.mc k

/-- The state with one core changed. -/
def setMc (s : State) (k : Nat) (y : Mc) : State := { s with mc := Cells.put (fun _ => {}) s.mc k y }

/-- A context stops with a cause at its current PC (R98, R99). A wait is abandoned (R144, R151). A quantum's end that
waited for the boundary goes with it: the quantum is counted again from RESUME or START (R101). -/
def stopCtx (s : State) (c cause : Nat) (bad : Word) : State :=
  let s := withdrawArrival s c
  let x := ctxAt s c
  let keepAddr := cause = 2 ∨ cause = 3 ∨ cause = 4 ∨ cause = 6 ∨ cause = 8
  let s := setCtx s c { x with st := .stopped, cause := cause, badaddr := if keepAddr then bad else 0, wait := none,
                               stopReq := false, haltReq := false, reread := 0, quantumEnd := false }
  let s := if cause = causeHalt ∧ !s.flag Fld.CTX_CTL_HALT_IRQ c then s else setStookPend s c
  if cause = causeParity then detect s 2 else s

/-- The context holds with cause BREAKPOINT (R508, R509); source 4 is raised. -/
def holdCtx (s : State) (c : Nat) : State :=
  let s := stopCtx s c causeBreakpoint 0
  raiseSource (setCtx s c { ctxAt s c with held := true, byMatch := false }) 4

/-- A comparator's match holds the context (R509). -/
def matchCtx (s : State) (c : Nat) : State :=
  let s := holdCtx s c
  setCtx s c { ctxAt s c with byMatch := true }

/-- A tile marked failed (R96): its contexts that are not IDLE stop with UNIT_FAILED. One that is STOPPED already enters
STOPPED anew, with its pending bit (R99; the model's choice, log entry 94). -/
def failTile (s : State) (t : Nat) : State :=
  [0, 1, 2, 3].foldl (fun s n =>
    let c := t * 4 + n
    if (ctxAt s c).st = .idle then s else
      let s := stopCtx s c causeUnitFailed 0
      setCtx s c { ctxAt s c with held := false }) s

/-- A failed read of a context (R88): it stops issuing and drains. -/
def failedRead (s : State) (c : Nat) (a : Word) : State :=
  setCtx s c { ctxAt s c with st := .replaying, failAddr := a }

/-! ## Starting (R93, R95) -/

/-- START (R93). Nothing has been fetched yet (R150; log entry 95). -/
def startCtx (s : State) (c : Nat) : State :=
  let x := ctxAt s c
  if atRest x ∧ !tileFailed s (tileOf c) then
    setCtx (dropFetched s c) c { st := .running, pc := x.pc }
  else s

/-- RESUME (R95); from a hold that a match made the next instruction issues without KIND 0 tests (R509). -/
def resumeCtx (s : State) (c : Nat) : State :=
  let x := ctxAt s c
  if x.st = .stopped ∧ x.cause ≠ causeUnitFailed ∧ !tileFailed s (tileOf c) then
    setCtx s c { x with st := .running, cause := 0, badaddr := 0, held := false, skipBp := x.held && x.byMatch,
                        quantumEnd := false }
  else s

/-- STOP (R94): a request, in effect at the next boundary. -/
def requestStop (s : State) (c : Nat) : State :=
  let x := ctxAt s c
  if atRest x then s else setCtx s c { x with stopReq := true }

/-! ## Slicing (R101 to R104) -/

/-- Does hardware slicing run on the context (R102)? -/
def hwSlicing (s : State) (c : Nat) : Bool :=
  s.fld Fld.CTX_SLICE_QUANTUM c ≠ 0 && 2 ≤ s.fld Fld.CTX_SLICE_LIST_LEN c && s.fld Fld.CTX_SLICE_LIST_LEN c ≤ 8

/-- The device address of save area `i` (R104). -/
def saveAddr (s : State) (c i : Nat) : Nat :=
  stookBase + stookOf c * 0x800000 + s.fld Fld.CTX_SLICE_SAVE_BASE c * 128 + i * 0x5200

/-- Accumulators a context owns (R81). -/
def ownsAcc (s : State) (c i : Nat) : Bool := bits (s.fld Fld.TILE_CTL_ACC_OWN (tileOf c)) (2 * i) 2 == c % 4

/-- The key of an accumulator element. -/
def accKey (t i m n : Nat) : Nat := ((t * 4 + i) * 32 + m) * 32 + n

/-- An accumulator element. -/
def accAt (s : State) (t i m n : Nat) : BitVec 32 := Cells.get (fun _ => 0) s.acc (accKey t i m n)

/-- The bytes of an accumulator, row by row. -/
def accBytes (s : State) (t i : Nat) : List Byte :=
  (List.range 1024).flatMap (fun j => leBytes 4 (accAt s t i (j / 32) (j % 32)).toNat)

/-- The state with an accumulator's elements set from 4,096 bytes. -/
def setAccBytes (s : State) (t i : Nat) (bs : List Byte) : State :=
  { s with acc := (List.range 1024).foldl (fun m j =>
      Cells.put (fun _ => 0) m (accKey t i (j / 32) (j % 32)) (BitVec.ofNat 32 (leAt bs (4 * j) 4))) s.acc }

/-- The control part of a save area, offsets 0x0000 to 0x11FF (R104). A waiting context's wait is abandoned, so it is
saved as RUNNING at the waiting instruction (R144, R151; log entry 7). -/
def saveBytes (x : Ctx) : List Byte :=
  let sreg (r : Nat) : Nat := if r = 0 then 0 else (Cells.get (fun _ => (0 : Word)) x.s r).toNat
  let preg (r : Nat) : Nat := if r = 0 then 0xFFFFFFFF else (Cells.get (fun _ => (0 : BitVec 32)) x.p r).toNat
  let mk := x.mark
  ((List.range 32).flatMap (fun r => leBytes 8 (sreg r)))
    ++ ((List.range 8).flatMap (fun r => leBytes 4 (preg r)))
    ++ leBytes 8 x.pc.toNat
    ++ leBytes 8 (mk.elim 0 (fun m => m.pc.toNat + 1))
    ++ leBytes 1 x.attempt
    ++ leBytes 1 (if x.st = .waiting then 1 else ctxStateCode x.st)
    ++ leBytes 1 x.cause
    ++ List.replicate 13 0
    ++ ((List.range 15).flatMap (fun i => leBytes 8 (mk.elim 0 (fun m => (m.regs.getD i 0).toNat))))
    ++ List.replicate 72 0
    ++ ((List.range 32).flatMap (fun r => vecBytes' (Cells.get (fun _ => (0 : BitVec 1024)) x.v r)))
where
  /-- The bytes of a vector register. -/
  vecBytes' (v : BitVec 1024) : List Byte := leBytes 128 v.toNat

/-- A context restored from the control part of a save area (R104). -/
def ctxOfBytes (bs : List Byte) : Ctx :=
  let st : CtxState := match leAt bs 0x131 1 with
    | 0 => .idle
    | 3 => .stopped
    | _ => .running
  let put8 (m : Cells Word) (r : Nat) : Cells Word := Cells.put (fun _ => 0) m r (BitVec.ofNat 64 (leAt bs (8 * r) 8))
  { st := st
    s := ((List.range 32).drop 1).foldl put8 []
    p := ((List.range 8).drop 1).foldl (fun m r => Cells.put (fun _ => 0) m r (BitVec.ofNat 32 (leAt bs (0x100 + 4 * r) 4))) []
    v := (List.range 32).foldl (fun m r => Cells.put (fun _ => 0) m r (BitVec.ofNat 1024 (leAt bs (0x200 + 128 * r) 128))) []
    pc := BitVec.ofNat 64 (leAt bs 0x120 8 / 4 * 4)
    cause := leAt bs 0x132 1
    mark := if leAt bs 0x128 1 % 2 = 1 then
        some ⟨BitVec.ofNat 64 (leAt bs 0x128 8 / 4 * 4), (List.range 15).map (fun i => BitVec.ofNat 64 (leAt bs (0x140 + 8 * i) 8))⟩
      else none
    attempt := leAt bs 0x130 1 }

/-- The next area in rotation whose saved state is not STOPPED (R102). Where `CUR` is not below `LIST_LEN`, which no rule
speaks of, every listed area is another one (the model's choice, log entry 96). -/
def nextArea (s : State) (c : Nat) : Option Nat :=
  let len := s.fld Fld.CTX_SLICE_LIST_LEN c
  let cur := s.fld Fld.CTX_SLICE_CUR c
  ((List.range (if cur < len then len - 1 else len)).map (fun j => (cur + 1 + j) % len)).find? (fun i =>
    leNat (peek s (saveAddr s c i + 0x131) 1) ≠ 3)

/-- The hardware switch (R102 to R104): save the resident software context, restore the next one. A bad word in the
restored area leaves the context STOPPED with PARITY_REPLAY_FAILED (R104); of several, CTX_BADADDR names the lowest of the
control part, else of the lowest accumulator (the model's choice, log entry 97). -/
def switchCtx (s : State) (c : Nat) : State :=
  match nextArea s c with
  | none => setCtx s c { ctxAt s c with quantumEnd := false }
  | some nxt =>
    let m := tileMaster c
    let cur := s.fld Fld.CTX_SLICE_CUR c
    let s := withdrawArrival s c
    let x := ctxAt s c
    let owned := [0, 1, 2, 3].filter (ownsAcc s c)
    let s := memPut s m (saveAddr s c cur) (saveBytes x)
    let s := owned.foldl (fun s i => memPut s m (saveAddr s c cur + 0x1200 + 0x1000 * i) (accBytes s (tileOf c) i)) s
    let s := { s with sliceOut := Cells.put (fun _ => []) s.sliceOut (c * 8 + cur) x.out }
    let a := saveAddr s c nxt
    let bad := (badWords s a 0x1200) ++ owned.flatMap (fun i => badWords s (a + 0x1200 + 0x1000 * i) 0x1000)
    let r := memRead s m 1 a 0x1200
    let s := owned.foldl (fun s i =>
      let q := memRead s m 1 (a + 0x1200 + 0x1000 * i) 0x1000
      setAccBytes q.st (tileOf c) i q.data) r.st
    let y := { ctxOfBytes r.data with out := Cells.get (fun _ => []) s.sliceOut (c * 8 + nxt) }
    let s := s.setFld Fld.CTX_SLICE_CUR c nxt
    let s := setCtx { s with sliceOut := Cells.put (fun _ => []) s.sliceOut (c * 8 + nxt) [] } c y
    match bad with
    | [] => s
    | w :: _ => stopCtx s c causeParity (BitVec.ofNat 64 (0x1000000 + (w * 4 - stookBase) % 0x800000))

/-! ## CSR writes of a context (R113) -/

/-- The device physical address of a register, as violations record it. -/
def regAddr (r : Reg) (i : Nat) : Nat := csrBase + r.off i

/-- A write of CTX_CTL (R93 to R95, R113): RW fields at rest, then at most one action. -/
def writeCtxCtl (s : State) (m c : Nat) (a : CsrAcc) : State :=
  let b1 := Fld.CTX_CTL_START.presented a
  let b2 := Fld.CTX_CTL_STOP.presented a
  let b3 := Fld.CTX_CTL_RESUME.presented a
  let s := if atRest (ctxAt s c) then s.plainWrite .CTX_CTL c false a else s
  if b1 + b2 + b3 > 1 then violation s 4 m (regAddr .CTX_CTL c) true
  else if b1 = 1 then startCtx s c
  else if b2 = 1 then requestStop s c
  else if b3 = 1 then resumeCtx s c
  else s

/-- A write of CTX_PC (R113). -/
def writeCtxPc (s : State) (c : Nat) (a : CsrAcc) : State :=
  let x := ctxAt s c
  if atRest x then setCtx s c { x with pc := ((x.pc &&& ~~~(accMask a)) ||| accValue a) &&& ~~~3#64 } else s

/-- A write of CTX_WIN (R113). -/
def writeCtxWin (s : State) (c : Nat) (a : CsrAcc) : State :=
  if atRest (ctxAt s c) then s.plainWrite .CTX_WIN c false a else s

/-- A write of CTX_SLICE (R113): refused when its save areas leave the stook SRAM. -/
def writeCtxSlice (s : State) (m c : Nat) (a : CsrAcc) : State :=
  let len := s.written Fld.CTX_SLICE_LIST_LEN c a
  let base := s.written Fld.CTX_SLICE_SAVE_BASE c a
  if 2 ≤ len ∧ len ≤ 8 ∧ base * 128 + len * 0x5200 > 0x800000 then violation s 4 m (regAddr .CTX_SLICE c) true
  else if atRest (ctxAt s c) then s.plainWrite .CTX_SLICE c false a else s

/-- A write of TILE_CTL.ACC_OWN (R113): ignored unless both owners of every changed accumulator are at rest. -/
def writeAccOwn (s : State) (t : Nat) (a : CsrAcc) : State :=
  let old := s.fld Fld.TILE_CTL_ACC_OWN t
  let new := s.written Fld.TILE_CTL_ACC_OWN t a
  let ok := [0, 1, 2, 3].all (fun i =>
    let o := bits old (2 * i) 2
    let n := bits new (2 * i) 2
    o == n || (atRest (ctxAt s (t * 4 + o)) && atRest (ctxAt s (t * 4 + n))))
  if ok then s.setFld Fld.TILE_CTL_ACC_OWN t new else s

/-- Write-1-to-clear of STOOK_IRQ_PEND; bits that hardware sets in the same cycle stay set (R100). -/
def clearStookPend (s : State) (k : Nat) (a : CsrAcc) (hw : Nat) : State :=
  let s := s.plainWrite .STOOK_IRQ_PEND k false a
  relevel (s.wr .STOOK_IRQ_PEND k (s.rd .STOOK_IRQ_PEND k ||| BitVec.ofNat 64 (hw % 2 ^ 32))) (512 + k)

/-! ## Context registers (R114) -/

/-- A scalar register of a context: s0 reads zero. -/
def ctxS (s : State) (c : Nat) (r : RegNum) : Word :=
  if r = 0 then 0 else Cells.get (fun _ => 0) (ctxAt s c).s r

/-- Write a scalar register: writes to s0 are discarded. -/
def setCtxS (s : State) (c : Nat) (r : RegNum) (v : Word) : State :=
  if r = 0 then s else let x := ctxAt s c; setCtx s c { x with s := Cells.put (fun _ => 0) x.s r v }

/-- A vector register. -/
def ctxV (s : State) (c : Nat) (r : RegNum) : BitVec 1024 := Cells.get (fun _ => 0) (ctxAt s c).v r

/-- Write a vector register. -/
def setCtxV (s : State) (c : Nat) (r : RegNum) (v : BitVec 1024) : State :=
  let x := ctxAt s c; setCtx s c { x with v := Cells.put (fun _ => 0) x.v r v }

/-- A predicate register: p0 reads all ones. -/
def ctxP (s : State) (c : Nat) (r : Nat) : BitVec 32 :=
  if r = 0 then BitVec.allOnes 32 else Cells.get (fun _ => 0) (ctxAt s c).p r

/-- Write a predicate register: writes to p0 are discarded. -/
def setCtxP (s : State) (c : Nat) (r : Nat) (v : BitVec 32) : State :=
  if r = 0 then s else let x := ctxAt s c; setCtx s c { x with p := Cells.put (fun _ => 0) x.p r v }

/-- Set the PC. -/
def setCtxPc (s : State) (c : Nat) (pc : Word) : State := setCtx s c { ctxAt s c with pc := pc }

/-- Advance the PC past a one-word instruction. -/
def ctxNext (s : State) (c : Nat) : State := setCtxPc s c ((ctxAt s c).pc + 4)

/-! ## Registers of the management cores (R153, R154) -/

/-- A scalar register of a core. -/
def mcS (s : State) (k : Nat) (r : RegNum) : Word := if r = 0 then 0 else Cells.get (fun _ => 0) (mcAt s k).s r

/-- Write a scalar register of a core. -/
def setMcS (s : State) (k : Nat) (r : RegNum) (v : Word) : State :=
  if r = 0 then s else let y := mcAt s k; setMc s k { y with s := Cells.put (fun _ => 0) y.s r v }

/-- A core's local CSRs (R154). -/
def mcCsr (s : State) (k n : Nat) : Option (Word × State) :=
  let y := mcAt s k
  match n with
  | 0x000 => some (s.fresh 64)
  | 0x001 => some (BitVec.ofNat 64 (0x800 + k), s)
  | 0x100 => some (y.tvec, s)
  | 0x101 => some (y.epc, s)
  | 0x102 => some (BitVec.ofNat 64 y.ecause, s)
  | 0x103 => some (y.ebadaddr, s)
  | 0x104 => some (BitVec.ofNat 64 y.ie, s)
  | _ => none

/-- Write a core's local CSR (R154); TVEC is 4-byte aligned, IE keeps bits 0 and 1. -/
def setMcCsr (s : State) (k n : Nat) (v : Word) : Option State :=
  let y := mcAt s k
  match n with
  | 0x000 | 0x001 | 0x102 | 0x103 => some s
  | 0x100 => some (setMc s k { y with tvec := v &&& ~~~3#64 })
  | 0x101 => some (setMc s k { y with epc := v })
  | 0x104 => some (setMc s k { y with ie := v.toNat % 4 })
  | _ => none

/-- Comparator `k` of a target. -/
def bpAt (s : State) (target k : Nat) : Bp := Cells.get (fun _ => {}) s.bp (target * 4 + k)

/-- A core holds at an instruction without a trap (R508, R509). -/
def holdMc (s : State) (k : Nat) : State := raiseSource (setMc s k { mcAt s k with held := true, byMatch := false }) 4

/-- A comparator's match holds the core (R509). -/
def matchMc (s : State) (k : Nat) : State :=
  let s := holdMc s k
  setMc s k { mcAt s k with byMatch := true }

/-! ## Commands -/

/-- START: `CTX_CTL.START` (R93). -/
def execStart (c : CtxId) (s : State) : Host.Outcome State Fault Refusal := .next (onStook s (stookOf c) (fun s => startCtx s c))

/-- STOP: `CTX_CTL.STOP` (R94). -/
def execStop (c : CtxId) (s : State) : Host.Outcome State Fault Refusal := .next (onStook s (stookOf c) (fun s => requestStop s c))

/-- STOP_REQUEST: the stop takes effect at a boundary; in REPLAYING when the drain has ended (R94). -/
def execStopRequest (c : CtxId) (s : State) : Host.Outcome State Fault Refusal :=
  let x := ctxAt s c
  if x.stopReq ∧ (x.st = .running ∨ x.st = .waiting ∨ (x.st = .replaying ∧ x.out = [])) then
    .next (if x.haltReq then holdCtx s c else stopCtx s c causeStopRequest 0)
  else .next s

/-- RESUME: `CTX_CTL.RESUME` (R95). -/
def execResume (c : CtxId) (s : State) : Host.Outcome State Fault Refusal := .next (onStook s (stookOf c) (fun s => resumeCtx s c))

/-- CTX_CONFIG_WRITE: a write of CTX_CTL, CTX_PC, CTX_WIN or CTX_SLICE (R113). -/
def execCtxConfigWrite (m : Master) (c : CtxId) (r : CtxReg) (a : CsrAcc) (s : State) : Host.Outcome State Fault Refusal :=
  .next (onStook s (stookOf c) (fun s =>
    match r with
    | .ctl => writeCtxCtl s m.toNat c a
    | .pc => writeCtxPc s c a
    | .win => writeCtxWin s c a
    | .slice => writeCtxSlice s m.toNat c a))

/-- ACC_OWN_WRITE (R113). -/
def execAccOwnWrite (t : TileId) (a : CsrAcc) (s : State) : Host.Outcome State Fault Refusal :=
  .next (onStook s (t / 8) (fun s => writeAccOwn s t a))

/-- STOOK_IRQ_PEND_CLEAR (R100): `hw` are the bits hardware sets in the same SCLK cycle. -/
def execStookIrqPendClear (k : StookId) (a : CsrAcc) (hw : BitVec 32) (s : State) : Host.Outcome State Fault Refusal :=
  .next (onStook s k (fun s => clearStookPend s k a hw.toNat))

/-- QUANTUM_EXPIRY (R101 to R103): with hardware slicing the quantum's end waits for the switch; otherwise the context
stops with QUANTUM, after the drain when it is REPLAYING. -/
def execQuantumExpiry (c : CtxId) (s : State) : Host.Outcome State Fault Refusal :=
  let x := ctxAt s c
  if atRest x ∨ s.fld Fld.CTX_SLICE_QUANTUM c = 0 then .next s
  else if hwSlicing s c ∨ x.st = .replaying then .next (setCtx s c { x with quantumEnd := true })
  else .next (stopCtx s c causeQuantum 0)

/-- WAIT_SWITCH_TIMEOUT (R102): a waitc unsatisfied for 64 cycles ends the quantum. -/
def execWaitSwitchTimeout (c : CtxId) (s : State) : Host.Outcome State Fault Refusal :=
  let x := ctxAt s c
  match x.wait with
  | some (.counter n t) =>
    if x.st = .waiting ∧ counterVal s n < t ∧ s.flag Fld.CTX_CTL_WAIT_SWITCH c ∧ hwSlicing s c then
      .next (setCtx s c { x with quantumEnd := true })
    else .next s
  | _ => .next s

/-- HARDWARE_SWITCH (R102, R103): at a boundary, after any drain. A STOP that waits for the same boundary takes effect in
place of the switch (R94; log entry 98). -/
def execHardwareSwitch (c : CtxId) (s : State) : Host.Outcome State Fault Refusal :=
  let x := ctxAt s c
  if x.quantumEnd ∧ hwSlicing s c ∧ x.st ≠ .replaying ∧ x.st ≠ .idle ∧ !x.held ∧
      (x.st = .stopped → x.cause = causeHalt ∨ x.cause = causeParity) then
    .next (if x.stopReq then (if x.haltReq then holdCtx s c else stopCtx s c causeStopRequest 0) else switchCtx s c)
  else .next s

/-- STEP_REPLAY (R88, R94, R103): the outcome once every job enqueued since the mark has ended. -/
def execStepReplay (c : CtxId) (s : State) : Host.Outcome State Fault Refusal :=
  let x := ctxAt s c
  if x.st ≠ .replaying ∨ x.out ≠ [] then .next s
  else if x.stopReq then .next (if x.haltReq then holdCtx s c else stopCtx s c causeStopRequest 0)
  else
    match x.mark, x.attempt with
    | some mk, 0 =>
      let regs := (List.range 15).foldl (fun m i => Cells.put (fun _ => 0) m (i + 1) (mk.regs.getD i 0)) x.s
      let s := setCtx s c { x with st := .running, s := regs, pc := mk.pc, attempt := 1 }
      if x.quantumEnd ∧ !hwSlicing s c then
        .next (stopCtx (setCtx s c { ctxAt s c with quantumEnd := false }) c causeQuantum 0)
      else .next s
    | _, _ =>
      let t := stopCtx s c causeParity x.failAddr
      .next (setCtx t c { ctxAt t c with quantumEnd := x.quantumEnd && hwSlicing s c })

/-- The image that a fetch at an offset runs from: that of the program whose instance the context runs, else one that holds the
offset on the context's tile (R90). -/
def imageAt (s : State) (c line : Nat) : Option CodeImage :=
  let here (g : CodeImage) : Bool := g.tile == tileOf c && g.load ≤ line && line < g.load + g.len
  let own (g : CodeImage) : Bool := s.jobs.any (fun j => j.id == g.job && j.placed.any (fun q => q.ctx == c && q.prog == g.prog))
  (s.images.find? (fun g => here g && own g)).or (s.images.find? here)

/-- CODE_LINE_REREAD (R90): the code line is read again from the DRAM image and written into tile SRAM; the fetch runs
again. A line that cannot be read, or that no recorded image holds, stops the context. -/
def execCodeLineReread (c : CtxId) (s : State) : Host.Outcome State Fault Refusal :=
  let x := ctxAt s c
  if x.st ≠ .running ∨ x.reread ≠ 1 then .next s
  else
    let line := x.failAddr.toNat / 128 * 128
    match imageAt s c line with
    | none => .next (stopCtx s c causeParity x.failAddr)
    | some g =>
      let src := g.dram + (line - g.load)
      match prepare s (tileMaster c) [(src, 128)] [] with
      | .stall s => .next s
      | .go =>
        let r := memRead s (tileMaster c) 0 src 128
        if r.bad then .next (stopCtx r.st c causeParity x.failAddr)
        else
          let s := memPut r.st (tileMaster c) (tileBase + tileOf c * 0x100000 + line) r.data
          let s := { s with fetchOld := Cells.drop (fun k => k / 128 == (c.val * 0x100000 + line) / 128) s.fetchOld }
          .next (setCtx s c { ctxAt s c with reread := 2 })

/-- WAITC_RELEASE (R144): the counter holds at least the target, and the context continues after its waitc. -/
def execWaitcRelease (a : Agent) (s : State) : Host.Outcome State Fault Refusal :=
  match a with
  | .ctx c =>
    let x := ctxAt s c
    match x.wait with
    | some (.counter n t) =>
      if x.st = .waiting ∧ t ≤ counterVal s n then
        .next (setCtx s c { x with st := .running, wait := none, pc := x.pc + 4 })
      else .next s
    | _ => .next s
  | .core k =>
    let y := Cells.get (fun _ => ({} : Mc)) s.mc k
    match y.waiting with
    | some (n, t) =>
      if t ≤ counterVal s n ∧ !y.held ∧ !y.inReset then
        .next { s with mc := Cells.put (fun _ => {}) s.mc k { y with waiting := none, pc := y.pc + 4 } }
      else .next s
    | none => .next s

end Sys2Proof.Machine
end

