-- ==== Sys2Proof/Machine/Shake.lean ====
section
/-!
DEFINITION. SHAKE256 (FIPS 202): the digest of chapter 18, with 32 bytes of output, and longer outputs for signatures.
-/
namespace Sys2Proof.Machine

/-- The 25 lanes of the Keccak state, lane x + 5y: numbers below 2^64. -/
abbrev Keccak := List Nat

/-- The round constants of the ι step. -/
def keccakRc : List Nat :=
  [0x0000000000000001, 0x0000000000008082, 0x800000000000808A, 0x8000000080008000, 0x000000000000808B, 0x0000000080000001,
   0x8000000080008081, 0x8000000000008009, 0x000000000000008A, 0x0000000000000088, 0x0000000080008009, 0x000000008000000A]
  ++ [0x000000008000808B, 0x800000000000008B, 0x8000000000008089, 0x8000000000008003, 0x8000000000008002, 0x8000000000000080,
   0x000000000000800A, 0x800000008000000A, 0x8000000080008081, 0x8000000000008080, 0x0000000080000001, 0x8000000080008008]

/-- A lane rotated to the left. -/
def laneRot (v k : Nat) : Nat := (v <<< k ||| v >>> (64 - k)) % 2 ^ 64

/-- A lane of the χ step from it and the two lanes after it in its row. -/
def keccakChi (a b c : Nat) : Nat := a ^^^ ((2 ^ 64 - 1 - b) &&& c)

/-- One round: the column parities `p` and θ, ρ and π into `b`, χ, and ι with the round's constant. -/
def keccakRound : Keccak → Nat → Keccak
  | [a0, a1, a2, a3, a4, a5, a6, a7, a8, a9, a10, a11, a12, a13, a14, a15, a16, a17, a18, a19, a20, a21, a22, a23, a24], rc =>
    let p0 := a0 ^^^ a5 ^^^ a10 ^^^ a15 ^^^ a20
    let p1 := a1 ^^^ a6 ^^^ a11 ^^^ a16 ^^^ a21
    let p2 := a2 ^^^ a7 ^^^ a12 ^^^ a17 ^^^ a22
    let p3 := a3 ^^^ a8 ^^^ a13 ^^^ a18 ^^^ a23
    let p4 := a4 ^^^ a9 ^^^ a14 ^^^ a19 ^^^ a24
    let d0 := p4 ^^^ laneRot p1 1
    let d1 := p0 ^^^ laneRot p2 1
    let d2 := p1 ^^^ laneRot p3 1
    let d3 := p2 ^^^ laneRot p4 1
    let d4 := p3 ^^^ laneRot p0 1
    let b0 := a0 ^^^ d0
    let b1 := laneRot (a6 ^^^ d1) 44
    let b2 := laneRot (a12 ^^^ d2) 43
    let b3 := laneRot (a18 ^^^ d3) 21
    let b4 := laneRot (a24 ^^^ d4) 14
    let b5 := laneRot (a3 ^^^ d3) 28
    let b6 := laneRot (a9 ^^^ d4) 20
    let b7 := laneRot (a10 ^^^ d0) 3
    let b8 := laneRot (a16 ^^^ d1) 45
    let b9 := laneRot (a22 ^^^ d2) 61
    let b10 := laneRot (a1 ^^^ d1) 1
    let b11 := laneRot (a7 ^^^ d2) 6
    let b12 := laneRot (a13 ^^^ d3) 25
    let b13 := laneRot (a19 ^^^ d4) 8
    let b14 := laneRot (a20 ^^^ d0) 18
    let b15 := laneRot (a4 ^^^ d4) 27
    let b16 := laneRot (a5 ^^^ d0) 36
    let b17 := laneRot (a11 ^^^ d1) 10
    let b18 := laneRot (a17 ^^^ d2) 15
    let b19 := laneRot (a23 ^^^ d3) 56
    let b20 := laneRot (a2 ^^^ d2) 62
    let b21 := laneRot (a8 ^^^ d3) 55
    let b22 := laneRot (a14 ^^^ d4) 39
    let b23 := laneRot (a15 ^^^ d0) 41
    let b24 := laneRot (a21 ^^^ d1) 2
    [keccakChi b0 b1 b2 ^^^ rc, keccakChi b1 b2 b3, keccakChi b2 b3 b4, keccakChi b3 b4 b0, keccakChi b4 b0 b1,
     keccakChi b5 b6 b7, keccakChi b6 b7 b8, keccakChi b7 b8 b9, keccakChi b8 b9 b5, keccakChi b9 b5 b6,
     keccakChi b10 b11 b12, keccakChi b11 b12 b13, keccakChi b12 b13 b14, keccakChi b13 b14 b10, keccakChi b14 b10 b11,
     keccakChi b15 b16 b17, keccakChi b16 b17 b18, keccakChi b17 b18 b19, keccakChi b18 b19 b15, keccakChi b19 b15 b16,
     keccakChi b20 b21 b22, keccakChi b21 b22 b23, keccakChi b22 b23 b24, keccakChi b23 b24 b20, keccakChi b24 b20 b21]
  | a, _ => a

/-- Keccak-f[1600]. -/
def keccakF (a : Keccak) : Keccak := keccakRc.foldl keccakRound a

/-- Absorb blocks of 136 bytes, which fill the first 17 lanes. -/
def keccakAbsorb (a : Keccak) (bs : List Byte) : Nat → Keccak
  | 0 => a
  | n + 1 =>
    let b := leNat (bs.take 136)
    keccakAbsorb (keccakF (List.zipWith (fun v i => v ^^^ (b >>> (64 * i)) % 2 ^ 64) a (List.range 25))) (bs.drop 136) n

/-- The state of SHAKE256 that has taken a message in. -/
def shakeState (msg : List Byte) : Keccak :=
  let n := msg.length / 136 + 1
  let z := n * 136 - msg.length
  let pad := if z = 1 then [(0x9F : Byte)] else (0x1F : Byte) :: (List.replicate (z - 2) 0 ++ [(0x80 : Byte)])
  keccakAbsorb (List.replicate 25 0) (msg ++ pad) n

/-- The bytes of some lanes. -/
def laneBytes (l : Keccak) : List Byte := l.flatMap (leBytes 8)

/-- SHAKE256 of a message, 32 bytes. -/
def shake256 (msg : List Byte) : List Byte := laneBytes ((shakeState msg).take 4)

/-- Blocks of output of 136 bytes each. -/
def keccakSqueeze (a : Keccak) : Nat → List Byte
  | 0 => []
  | n + 1 => laneBytes (a.take 17) ++ keccakSqueeze (keccakF a) n

/-- SHAKE256 of a message, `n` blocks of 136 bytes. -/
def shakeBlocks (msg : List Byte) (n : Nat) : List Byte := keccakSqueeze (shakeState msg) n

end Sys2Proof.Machine
end

