-- ==== Sys2Proof/Machine/Falcon.lean ====
section
/-!
DEFINITION. Verification of Falcon-1024 signatures in the padded format (R494, R505). Chapter 18 names the algorithm; its encodings
and constants are those of the published Falcon specification, version 1.2 (PRESUMED, log entry 139).
-/
namespace Sys2Proof.Machine

/-- The modulus q. -/
def falconQ : Nat := 12289
/-- The degree n. -/
def falconN : Nat := 1024
/-- The bound on the squared norm of a signature. -/
def falconBound : Nat := 70265242

/-- The bits of bytes, the highest of each first. -/
def msbBits (bs : List Byte) : List Bool := bs.flatMap (fun b => [7, 6, 5, 4, 3, 2, 1, 0].map b.getLsbD)

/-- The number that bits spell, the highest first. -/
def bitsNum (l : List Bool) : Nat := l.foldl (fun n b => 2 * n + b2n b) 0

/-- The coefficients of a public key, 14 bits each, the first in the highest bits. -/
def falconCoeffs (key : List Byte) : List Nat :=
  let v := beNat key
  (List.range falconN).map (fun i => v >>> (14 * (falconN - 1 - i)) % 2 ^ 14)

/-- The zeros before a one, and what follows it. -/
def falconUnary : List Bool → Option (Nat × List Bool)
  | [] => none
  | true :: l => some (0, l)
  | false :: l => (falconUnary l).map (fun p => (p.1 + 1, p.2))

/-- The `n` coefficients of a compressed polynomial, as sign and size: sign, the low seven bits, the others in unary. A negative zero
is refused, and so is padding that is not zero. -/
def falconDecompress : Nat → List Bool → Option (List (Bool × Nat))
  | 0, l => if l.any id then none else some []
  | _ + 1, [] => none
  | n + 1, neg :: l =>
    match falconUnary (l.drop 7) with
    | none => none
    | some (k, r) =>
      let v := bitsNum (l.take 7) + 128 * k
      if neg && v == 0 then none else (falconDecompress n r).map ((neg, v) :: ·)

/-- The point that a string is hashed to: pairs of bytes, the higher first, those below 5q reduced, until there are `n`. -/
def falconPoint : Nat → List Byte → List Nat
  | n + 1, hi :: lo :: l =>
    let w := 256 * hi.toNat + lo.toNat
    if w < 5 * falconQ then w % falconQ :: falconPoint n l else falconPoint (n + 1) l
  | _, _ => []

/-- A number modulo q negated. -/
def falconNeg (v : Nat) : Nat := (falconQ - v) % falconQ

/-- x^k times a polynomial modulo x^n + 1. -/
def falconShift (f : List Nat) (k : Nat) : List Nat := (f.drop (falconN - k)).map falconNeg ++ f.take (falconN - k)

/-- The product of two polynomials modulo q and x^n + 1. -/
def falconMul (f g : List Nat) : List Nat :=
  g.zipIdx.foldl (fun acc e =>
    if e.1 = 0 then acc else List.zipWith (fun x y => (x + e.1 * y) % falconQ) acc (falconShift f e.2)) (List.replicate falconN 0)

/-- The square of a number modulo q, taken between -q/2 and q/2. -/
def falconSquare (v : Nat) : Nat := if v ≤ falconQ / 2 then v * v else (falconQ - v) * (falconQ - v)

/-- Does a signature of a message verify under a public key? The point is taken from 64 blocks of SHAKE256, of whose 4,352 pairs
1,024 are used. -/
def falconVerify (key msg sig : List Byte) : Bool :=
  let h := falconCoeffs (key.drop 1)
  let c := falconPoint falconN (shakeBlocks ((sig.drop 1).take 40 ++ msg) 64)
  key.length == 1793 && leAt key 0 1 == 0x0A && h.all (fun v => v < falconQ)
    && sig.length == 1280 && leAt sig 0 1 == 0x3A
    && match falconDecompress falconN (msbBits (sig.drop 41)) with
      | none => false
      | some s =>
        let s2 := s.map (fun e => if e.1 then falconNeg (e.2 % falconQ) else e.2 % falconQ)
        let s1 := List.zipWith (fun x y => (x + falconNeg y) % falconQ) c (falconMul s2 h)
        c.length == falconN &&
          decide ((s1.map falconSquare).foldl (· + ·) 0 + (s.map (fun e => e.2 * e.2)).foldl (· + ·) 0 ≤ falconBound)

end Sys2Proof.Machine
end

