-- ==== Sys2Proof/Machine/Anchor.lean ====
section
/-!
DEFINITION. The anchor (R491 to R501, R505, R517): fuses, images, boot, measurements, reports, lifecycle and commands.
A command works when it starts, or, where it has to wait for the host first, when its end is due; its status, the end of BUSY and
a change of the active slot come at its end.
-/
namespace Sys2Proof.Machine

/-! ## Images (R493, R494) -/

/-- Chunks of an image. -/
def manChunks (m : List Byte) : Nat := leAt m 0x14 4
/-- Bytes of a manifest with `n` chunks. -/
def manLength (n : Nat) : Nat := 0x800 + 32 * n + 1280
/-- Key slot of a manifest. -/
def manSlot (m : List Byte) : Nat := leAt m 6 1
/-- Security version of a manifest. -/
def manSvn (m : List Byte) : Nat := leAt m 0x10 1

/-- A segment (R493): first chunk, count, target, load address. -/
structure Segment where
  first : Nat
  count : Nat
  target : Nat
  load : Nat
  deriving DecidableEq, Repr

/-- The segments of a manifest. -/
def manSegments (m : List Byte) : List Segment :=
  (List.range (min 8 (leAt m 0x1C 4))).map (fun i =>
    let o := 0x30 + 16 * i
    ⟨leAt m o 4, leAt m (o + 4) 4, leAt m (o + 8) 1, leAt m (o + 12) 4⟩)

/-- The segment rules of R493. -/
def segmentsOk (m : List Byte) : Bool :=
  let n := manChunks m
  let ss := manSegments m
  let place (g : Segment) : Bool := g.first + g.count ≤ n && g.target ≤ 4
    && (if g.target = 4 then g.load == 0 else g.load + g.count * 4096 ≤ 0x40000)
  let apart (g h : Segment) : Bool := g.first + g.count ≤ h.first || h.first + h.count ≤ g.first
  ss.all place && (List.range ss.length).all (fun i =>
    leAt m (0x30 + 16 * i + 9) 3 == 0 && (List.range i).all (fun j => apart (ss.getD i ⟨0, 0, 0, 0⟩) (ss.getD j ⟨0, 0, 0, 0⟩)))

/-- Check 1 of R494 on the first 0x800 bytes. Reserved bits of the lifecycle mask are ignored (R14), reserved bytes tested. -/
def manFieldsOk (m : List Byte) : Bool :=
  leAt m 0 4 == 0x4D414E46 && leAt m 4 2 == 1 && manSlot m ≤ 3 && manSvn m ≤ 64 && leAt m 0x11 3 == 0
    && (1 ≤ manChunks m && manChunks m ≤ 3840) && leAt m 0x18 4 < 0x40000 && (1 ≤ leAt m 0x1C 4 && leAt m 0x1C 4 ≤ 8)
    && leAt m 0xB0 16 == 0 && leAt m 0x7C1 63 == 0 && segmentsOk m

/-- IMAGE (0), DEBUG (1) or REVOKED (2) of a key slot (R491). -/
def slotFlag (s : State) (slot f : Nat) : Bool := s.fuses.flags.testBit (3 * slot + f)

/-- The current lifecycle state. -/
def lifecycle (s : State) : Nat := s.fld Fld.ANCHOR_LC_CURRENT 0

/-- The digest that check 2 compares with: the slot's, or the ROM's test key's for an unburnt slot in MANUFACTURE. -/
def slotDigest (s : State) (slot : Nat) : Option (List Byte) :=
  match s.fuses.keys.getD slot none with
  | some d => some d
  | none => if lifecycle s = 0 then some Config.testKeyDigest else none

/-- The public key in a manifest. -/
def manKey (m : List Byte) : List Byte := (m.drop 0xC0).take 1793

/-- Checks 1 to 6 of R494 on a whole manifest: 0 or the status. -/
def verifyManifest (s : State) (m : List Byte) : Nat :=
  let signed := 0x800 + 32 * manChunks m
  let slot := manSlot m
  if !manFieldsOk m then 0x06
  else if !slotFlag s slot 0 || slotFlag s slot 2 || slotDigest s slot ≠ some (shake256 (manKey m)) then 0x83
  else if !falconVerify (manKey m) (m.take signed) ((m.drop signed).take 1280) then 0x11
  else if !(leAt m 7 1).testBit (lifecycle s) then 0x82
  else if leAt m 0x20 16 ≠ 0 ∧ (m.drop 0x20).take 16 ≠ s.fuses.serial then 0x07
  else if manSvn m < s.fuses.minSvn then 0x81
  else 0

/-- The digest of a chunk in a manifest. -/
def chunkDigest (m : List Byte) (k : Nat) : List Byte := (m.drop (0x800 + 32 * k)).take 32

/-- Checks 1 to 7: the chunks come from `chunk`. -/
def verifyImage (s : State) (m : List Byte) (chunk : Nat → List Byte) : Nat :=
  let c := verifyManifest s m
  if c ≠ 0 then c
  else if (List.range (manChunks m)).all (fun k => shake256 (chunk k) == chunkDigest m k) then 0 else 0x11

/-! ## Boot store -/

/-- Bytes of a slot of the boot store. -/
def storeBytes (s : State) (slot o n : Nat) : List Byte :=
  (List.range n).map (fun i => Cells.get (fun _ => 0) s.anchor.store (slot * 2 ^ 24 + o + i))

/-- Bytes written into a slot. -/
def storePut (s : State) (slot o : Nat) (bs : List Byte) : State :=
  { s with anchor := { s.anchor with store :=
      (bs.zip (List.range bs.length)).foldl (fun m e => Cells.put (fun _ => 0) m (slot * 2 ^ 24 + o + e.2) e.1) s.anchor.store } }

/-- The manifest in a slot: all of it when its fixed part is well formed. -/
def slotManifest (s : State) (slot : Nat) : List Byte :=
  let h := storeBytes s slot 0 0x800
  if manFieldsOk h then storeBytes s slot 0 (manLength (manChunks h)) else h

/-- Where the image of a manifest starts in a slot. -/
def imageStart (m : List Byte) : Nat := ceilDiv (manLength (manChunks m)) 4096 * 4096

/-- Chunk `k` of the image in a slot. -/
def slotChunk (s : State) (slot : Nat) (m : List Byte) (k : Nat) : List Byte := storeBytes s slot (imageStart m + 4096 * k) 4096

/-! ## Measurements (R499) -/

/-- A measurement register. -/
def measReg (s : State) (i : Nat) : List Byte := (List.range 4).flatMap (fun k => leBytes 8 (s.rd .ANCHOR_MEAS (4 * i + k)).toNat)

/-- A measurement register extended. -/
def extendMeas (s : State) (i : Nat) (d : List Byte) : State :=
  let h := shake256 (measReg s i ++ d)
  (List.range 4).foldl (fun s k => s.wr .ANCHOR_MEAS (4 * i + k) (BitVec.ofNat 64 (leAt h (8 * k) 8))) s

/-! ## Boot (R492, R495, R496) -/

/-- The seed of the identity key (R492). -/
def idSeed (s : State) : List Byte :=
  shake256 (s.fuses.seed.getD (List.replicate 32 0) ++ (if lifecycle s = 3 then [0x52, 0x54] else [0x49, 0x44]))

/-- Stage 2: the identity key, which MANUFACTURE does not have. -/
def bootIdentity (s : State) : State :=
  if lifecycle s = 0 then s
  else
    let d := shake256 (Config.falconPublic (idSeed s))
    (List.range 4).foldl (fun s k => s.wr .ANCHOR_IDKEY k (BitVec.ofNat 64 (leAt d (8 * k) 8))) s

/-- A recovery boot (R496). -/
def bootRecovery (s : State) : State :=
  let s := s.setFld Fld.ANCHOR_BOOT_SLOT 0 2
  raiseSource { s with anchor := { s.anchor with recovery := true, booted := true, rcvManifest := [], rcvChunks := 0 } } 3

/-- Load the segments of a target 0 to 3 into the private SRAM of its core, those that lie in the first `n` chunks, which have been
verified (R495). -/
def loadSegments (s : State) (slot : Nat) (m : List Byte) (n : Nat) : State :=
  (manSegments m).foldl (fun s g =>
    if g.target = 4 ∨ n < g.first + g.count then s
    else
      (List.range g.count).foldl (fun s c =>
        let bs := slotChunk s slot m (g.first + c)
        { s with mcMem := (bs.zip (List.range bs.length)).foldl (fun t e =>
            Cells.put (fun _ => 0) t (g.target * 0x40000 + g.load + 4096 * c + e.2) e.1) s.mcMem }) s) s

/-- A slot fails stage 3 (R495, R514): segments verified before the failing chunk have been loaded. -/
def slotFails (s : State) (slot : Nat) (m : List Byte) : State :=
  let bad (k : Nat) : Bool := shake256 (slotChunk s slot m k) != chunkDigest m k
  detect (if verifyManifest s m ≠ 0 then s
    else loadSegments s slot m (((List.range (manChunks m)).find? bad).getD (manChunks m))) 14

/-- Stages 5 and 6: the boot record, the manifest digest, and the cores at the entry point. -/
def bootImage (s : State) (slot : Nat) (m : List Byte) : State :=
  let s := loadSegments s slot m (manChunks m)
  let s := extendMeas s 0 (leBytes 4 Config.romVersion.toNat ++ leBytes 1 (lifecycle s) ++ leBytes 1 (manSlot m)
    ++ leBytes 1 s.fuses.minSvn ++ leBytes 1 slot ++ List.replicate 24 0)
  let s := extendMeas s 1 (shake256 m)
  let s := (((s.setFld Fld.ANCHOR_BOOT_SLOT 0 slot).setFld Fld.ANCHOR_BOOT_KEY 0 (manSlot m)).setFld Fld.ANCHOR_BOOT_SVN 0 (manSvn m)).setFld
    Fld.ANCHOR_BOOT_IMAGE_ID 0 (leAt m 8 4)
  let s := s.setFld Fld.ANCHOR_FWREV_REVISION 0 (leAt m 0x0C 4)
  let core : Mc := { pc := BitVec.ofNat 64 (leAt m 0x18 4), inReset := false }
  { s with mc := (List.range 4).foldl (fun c k => Cells.put (fun _ => {}) c k core) s.mc
           anchor := { s.anchor with manifest := m, runSlot := slot, booted := true } }

/-- At entry to DECOMMISSIONED the anchor burns every seed and key-slot fuse (R501). -/
def burnSecrets (s : State) : State :=
  let ones : Option (List Byte) := some (List.replicate 32 0xFF)
  { s with fuses := { s.fuses with seed := ones, keys := List.replicate 4 ones } }

/-- The anchor's boot after the release of a full reset. -/
def anchorBoot (s : State) : State :=
  if s.anchor.booted || s.pins.inReset then s
  else
    let s := s.setFld Fld.ANCHOR_BOOT_MIN_SVN 0 s.fuses.minSvn
    if lifecycle s = 4 then
      burnSecrets { (s.setFld Fld.PWR_STATUS_STATE 0 3) with anchor := { s.anchor with booted := true } }
    else
      let s := bootIdentity s
      if s.anchor.recoverNext then bootRecovery { s with anchor := { s.anchor with recoverNext := false } }
      else
        let a := s.anchor.active
        let m := slotManifest s a
        if verifyImage s m (slotChunk s a m) = 0 then bootImage s a m
        else
          let s := slotFails s a m
          let b := 1 - a
          let m := slotManifest s b
          if verifyImage s m (slotChunk s b m) = 0 then bootImage s b m else bootRecovery (slotFails s b m)

/-! ## Tokens (R505) -/

/-- When a token of 3,136 bytes is valid. -/
def tokenValid (s : State) (t : List Byte) : Bool :=
  let slot := leAt t 5 1
  let key := (t.drop 0x38).take 1793
  leAt t 0 4 == 0x4E4B4F54 && slot ≤ 3 && slotFlag s slot 1 && !slotFlag s slot 2 && s.fuses.keys.getD slot none == some (shake256 key)
    && falconVerify key (t.take 0x740) ((t.drop 0x740).take 1280) && (t.drop 8).take 16 == s.fuses.serial
    && (leAt t 4 1 ≠ 4 || leAt t 6 2 ≠ slot)


/-! ## Commands (R517) -/

/-- The 32-byte operand. -/
def anchorData (s : State) : List Byte := (List.range 4).flatMap (fun k => leBytes 8 (s.rd .ANCHOR_DATA k).toNat)

/-- The masters that may issue a command. -/
def anchorMaster (op m : Nat) : Bool :=
  match op with
  | 2 => isCoreId m || m == 1 || m == 2
  | 9 => m == 1 || m == 2
  | _ => isCoreId m
where
  /-- The management cores' IDs. -/
  isCoreId (m : Nat) : Bool := 0x10 ≤ m && m ≤ 0x13


/-- The address operand. -/
def anchorArg (s : State) : Nat := s.fld Fld.ANCHOR_ARG_ADDR 0

/-- The anchor's accesses to memory carry this master ID in the model: MC0's, whose X-die it sits on. -/
def anchorId : Nat := 0x10

/-- The token at the operand, empty where it cannot be read, and the state with the read's records. -/
def readToken (s : State) : List Byte × State :=
  let r := memRead s anchorId 3 (anchorArg s) 3136
  (if r.bad then [] else r.data, dropHost r.st anchorId)

/-- A command is in progress. -/
def setBusy (s : State) (op status activate : Nat) : State :=
  { (s.setFld Fld.ANCHOR_CMD_BUSY 0 1) with anchor := { s.anchor with cmd := some (op, status, activate), due := false, was := none } }

/-- A command that has burnt fuses, which held `was` before, is in progress (R491). -/
def setBurnt (s : State) (op was : Nat) : State :=
  let t := setBusy s op 0 0
  { t with anchor := { t.anchor with was := some was } }

/-- The command fails with a status no rule gives. -/
def failBusy (s : State) (op : Nat) : State := let (c, s) := anyFailure s; setBusy s op c 0

/-- EXTEND (R499). -/
def cmdExtend (s : State) (i : Nat) : State :=
  if 2 ≤ i ∧ i ≤ 7 then setBusy (extendMeas s i (anchorData s)) 1 0 0 else failBusy s 1

/-- The unsigned part of a report (R500). -/
def reportBody (s : State) : List Byte :=
  leBytes 4 0x54504552 ++ leBytes 2 1 ++ leBytes 1 (lifecycle s) ++ leBytes 1 (s.fld Fld.DBG_LEVEL_LEVEL 0) ++ s.fuses.serial
    ++ leBytes 4 (s.fld Fld.ANCHOR_FWREV_REVISION 0) ++ leBytes 4 (s.fld Fld.ANCHOR_BOOT_IMAGE_ID 0)
    ++ leBytes 1 (s.fld Fld.ANCHOR_BOOT_SVN 0) ++ leBytes 1 s.fuses.minSvn ++ leBytes 1 (s.fld Fld.ANCHOR_BOOT_SLOT 0)
    ++ leBytes 1 (s.fld Fld.ANCHOR_BOOT_KEY 0) ++ leBytes 4 (min 65535 (s.fld Fld.DBG_LEVEL_UNLOCKS 0)) ++ leBytes 8 (s.anchor.reports + 1)
    ++ anchorData s ++ (List.range 4).flatMap (fun k => leBytes 8 (s.rd .ANCHOR_IDKEY k).toNat)
    ++ (List.range 8).flatMap (measReg s)

/-- REPORT (R500). Where there is no identity key, in DECOMMISSIONED as in MANUFACTURE (R511), the signature is zero. -/
def cmdReport (s : State) : State :=
  let a := anchorArg s
  if a % 64 ≠ 0 ∨ !(inDram s a 1648 || inHostWindow a 1648) then failBusy s 2
  else
    let b := reportBody s
    let sig := if lifecycle s = 0 ∨ lifecycle s = 4 then List.replicate 1280 0 else sliceB (Config.falconSign (idSeed s) b s.anchor.reports) 0 1280
    let s := devPut s anchorId a (b ++ sig)
    setBusy { s with anchor := { s.anchor with reports := s.anchor.reports + 1 } } 2 0 0

/-- The manifest at the start of some bytes: all of it when its fixed part is well formed. -/
def manifestOf (b : List Byte) : List Byte :=
  let h := b.take 0x800
  if manFieldsOk h then b.take (manLength (manChunks h)) else h

/-- The length of a manifest and its image at an address. -/
def installLength (s : State) (a : Nat) : Nat :=
  let h := peek s a 0x800
  if manFieldsOk h then imageStart h + 4096 * manChunks h else 0x800

/-- Does what a slot holds match the digests of its manifest (R497)? -/
def slotMatches (s : State) (slot : Nat) : Bool :=
  let m := slotManifest s slot
  (List.range (manChunks m)).all (fun k => shake256 (slotChunk s slot m k) == chunkDigest m k)

/-- Verify an image and write it into the inactive slot; at the end of the command it is read back and becomes active (R497). -/
def installImage (s : State) (op : Nat) (m : List Byte) (chunk : Nat → List Byte) : State :=
  let c := verifyImage s m chunk
  if c ≠ 0 then setBusy (detect s 14) op c 0
  else
    let b := 1 - s.anchor.active
    let s := storePut s b 0 m
    let s := (List.range (manChunks m)).foldl (fun s k => storePut s b (imageStart m + 4096 * k) (chunk k)) s
    setBusy s op 0 (b + 1)

/-- INSTALL (R497): from DRAM at the operand. -/
def cmdInstall (s : State) : State :=
  let a := anchorArg s
  if !inDram s a (installLength s a) then failBusy s 3
  else
    let r := memRead s anchorId 3 a (installLength s a)
    let m := manifestOf r.data
    installImage r.st 3 m (fun k => (r.data.drop (imageStart m + 4096 * k)).take 4096)

/-- LOAD_SEG (R517). -/
def cmdLoadSeg (s : State) (i : Nat) : State :=
  let m := s.anchor.manifest
  let a := anchorArg s
  match (manSegments m)[i]? with
  | none => failBusy s 4
  | some g =>
    if g.target ≠ 4 ∨ !inDram s a (4096 * g.count) then failBusy s 4
    else
      setBusy ((List.range g.count).foldl (fun s c =>
        devPut s anchorId (a + 4096 * c) (slotChunk s s.anchor.runSlot m (g.first + c))) s) 4 0 0

/-- The lifecycle fuses, and PENDING, which shows them. -/
def setLifecycle (s : State) (lc : Nat) : State := { s with fuses := { s.fuses with lifecycle := lc } }.setFld Fld.ANCHOR_LC_PENDING 0 lc

/-- The minimum security version. -/
def setMinSvn (s : State) (v : Nat) : State := { s with fuses := { s.fuses with minSvn := v } }.setFld Fld.ANCHOR_BOOT_MIN_SVN 0 v

/-- The slot flags. -/
def setFlags (s : State) (f : Nat) : State := { s with fuses := { s.fuses with flags := f } }.setFld Fld.ANCHOR_LC_FLAGS 0 f

/-- Does a lifecycle transition require a token (R501)? -/
def lcNeedsToken (s : State) (lc : Nat) : Bool := (s.fuses.lifecycle == 1 || s.fuses.lifecycle == 2) && lc == 3

/-- A lifecycle transition that exists without a token (R501). -/
def lcAllowed (s : State) (lc : Nat) : Bool :=
  match s.fuses.lifecycle, lc with
  | 0, 1 | 0, 2 => s.fuses.seed.isSome && (List.range 4).any (fun i => slotFlag s i 0)
  | 1, 2 => true
  | f, 4 => f ≠ 4
  | _, _ => false

/-- LC (R501): it burns the lifecycle fuses. -/
def cmdLc (s : State) (lc : Nat) : State :=
  if lcNeedsToken s lc then
    let (t, s) := readToken s
    if tokenValid s t && leAt t 4 1 == 3 then setBurnt (setLifecycle s lc) 5 s.fuses.lifecycle else setBusy (detect s 14) 5 0x82 0
  else if lcAllowed s lc then setBurnt (setLifecycle s lc) 5 s.fuses.lifecycle
  else setBusy s 5 0x82 0

/-- COMMIT_SVN (R498). -/
def cmdCommit (s : State) : State :=
  setBurnt (setMinSvn s (max s.fuses.minSvn (s.fld Fld.ANCHOR_BOOT_SVN 0))) 6 s.fuses.minSvn

/-- REVOKE (R505, R517). -/
def cmdRevoke (s : State) (slot : Nat) : State :=
  let (t, s) := readToken s
  if slot ≤ 3 && tokenValid s t && leAt t 4 1 == 4 && leAt t 6 2 == slot then
    setBurnt (setFlags s (s.fuses.flags ||| 2 ^ (3 * slot + 2))) 7 s.fuses.flags
  else failBusy (detect s 14) 7

/-- RECOVER (R517). -/
def cmdRecover (s : State) : State := setBusy { s with anchor := { s.anchor with recoverNext := true } } 8 0 0

/-- The chunk in the recovery window. -/
def rcvChunk (s : State) : List Byte := (List.range 4096).map (Cells.get (fun _ => 0) s.anchor.rcv)

/-- RCV (R496): a manifest chunk (INDEX 0) or an image chunk (INDEX 1), each in order. The manifest is checked once the anchor holds
as much as its chunk count, within the bounds of R493, asks for. -/
def cmdRcv (s : State) (index : Nat) : State :=
  let c := rcvChunk s
  let m := s.anchor.rcvManifest
  let whole := 0x800 ≤ m.length && manFieldsOk m && manLength (manChunks m) ≤ m.length
  if index = 0 then
    let m := m ++ c
    let n := manLength (max 1 (min 3840 (manChunks m)))
    if m.length < n then setBusy { s with anchor := { s.anchor with rcvManifest := m } } 9 0 0
    else
      let m := m.take n
      let st := verifyManifest s m
      if st ≠ 0 then setBusy (detect { s with anchor := { s.anchor with rcvManifest := [] } } 14) 9 st 0
      else setBusy (storePut { s with anchor := { s.anchor with rcvManifest := m, rcvChunks := 0 } } 0 0 m) 9 0 0
  else if !whole then failBusy s 9
  else
    let k := s.anchor.rcvChunks
    if shake256 c ≠ chunkDigest m k then setBusy (detect s 14) 9 0x11 0
    else
      let s := storePut { s with anchor := { s.anchor with rcvChunks := k + 1 } } 0 (imageStart m + 4096 * k) c
      setBusy s 9 0 (if k + 1 = manChunks m then 1 else 0)

/-- What a command reads in memory before it can work: the image of INSTALL, the token of LC and REVOKE. -/
def anchorReads (s : State) (op i : Nat) : List Span :=
  let a := anchorArg s
  if op = 3 then (if inDram s a (installLength s a) then [(a, installLength s a)] else [])
  else if op = 7 || (op = 5 && lcNeedsToken s i) then [(a, 3136)]
  else []

/-- A command works, once what it reads has come from the host (R410); until then BUSY stays set. -/
def runAnchor (s : State) (op : Nat) : State :=
  let i := s.fld Fld.ANCHOR_CMD_INDEX 0
  match prepare s anchorId (anchorReads s op i) [] with
  | .stall t => let u := setBusy t op 0 0; { u with anchor := { u.anchor with due := true } }
  | .go =>
    match op with
    | 1 => cmdExtend s i
    | 2 => cmdReport s
    | 3 => cmdInstall s
    | 4 => cmdLoadSeg s i
    | 5 => cmdLc s i
    | 6 => cmdCommit s
    | 7 => cmdRevoke s i
    | 8 => cmdRecover s
    | _ => cmdRcv s i

/-- A write of ANCHOR_CMD. -/
def writeAnchorCmd (s : State) (m : Nat) (a : CsrAcc) : State :=
  let op := Fld.ANCHOR_CMD_OP.presented a
  if s.flag Fld.ANCHOR_CMD_BUSY 0 then s
  else if op = 0 ∨ 9 < op then s.plainWrite .ANCHOR_CMD 0 false a
  else if !anchorMaster op m then violation s 1 m (regAddr .ANCHOR_CMD 0) true
  else if op = 9 ∧ !s.anchor.recovery then violation s 7 m (regAddr .ANCHOR_CMD 0) true
  else runAnchor (s.plainWrite .ANCHOR_CMD 0 false a) op

/-- A write of ANCHOR_CMD whose OP is one command's. -/
def anchorCmd (op : Nat) (m : Master) (a : CsrAcc) (s : State) : State :=
  if Fld.ANCHOR_CMD_OP.presented a = op then writeAnchorCmd s m.toNat a else s

/-- The fuses that command `op` has burnt, which held `was` before, read back as `v`: the status, and the state that uses what was
read back. A burnt fuse stays burnt (R491), so the value lies between the two. -/
def readBack (s : State) (op was v : Nat) : Nat × State :=
  let fit (new : Nat) : Nat := max was (min v new)
  match op with
  | 5 => if fit s.fuses.lifecycle = s.fuses.lifecycle then (0, s) else (0x10, setLifecycle s (fit s.fuses.lifecycle))
  | 6 => if fit s.fuses.minSvn = s.fuses.minSvn then (0, s) else (0x10, setMinSvn s (fit s.fuses.minSvn))
  | _ => if v = s.fuses.flags ∨ was = s.fuses.flags then (0, s) else (0x10, setFlags s was)

/-- The command ends (R517), unless it still has to work. INSTALL reads its slot back first (R497). What the fuses it burnt read back as is a free value (log entry 123). -/
def anchorEnd (s : State) : State :=
  match s.anchor.cmd with
  | none => s
  | some (op, st, act) =>
    if s.anchor.due then runAnchor s op
    else
      let (st, s) := match s.anchor.was with
        | some w =>
          let (v, s) := s.fresh 64
          readBack s op w v.toNat
        | none => (st, s)
      let bad : Bool := op = 3 && act ≠ 0 && !slotMatches s (act - 1)
      let (st, act, s) := if bad then (0x11, 0, detect s 14) else (st, act, s)
      let s := (s.setFld Fld.ANCHOR_CMD_STATUS 0 st).setFld Fld.ANCHOR_CMD_BUSY 0 0
      raiseSource { s with anchor := { s.anchor with cmd := none, was := none,
                                                     active := if act = 0 then s.anchor.active else act - 1 } } 3

/-- BOOT (R495). -/
def execAnchorBoot (s : State) : Host.Outcome State Fault Refusal := .next (anchorBoot s)
/-- EXTEND (R499). -/
def execAnchorExtend (m : Master) (a : CsrAcc) (s : State) : Host.Outcome State Fault Refusal :=
  .next (onModule s (fun s => anchorCmd 1 m a s))
/-- REPORT (R500). -/
def execAnchorReport (m : Master) (a : CsrAcc) (s : State) : Host.Outcome State Fault Refusal :=
  .next (onModule s (fun s => anchorCmd 2 m a s))
/-- INSTALL (R497). -/
def execAnchorInstall (m : Master) (a : CsrAcc) (s : State) : Host.Outcome State Fault Refusal :=
  .next (onModule s (fun s => anchorCmd 3 m a s))
/-- LOAD_SEG (R517). -/
def execAnchorLoadSeg (m : Master) (a : CsrAcc) (s : State) : Host.Outcome State Fault Refusal :=
  .next (onModule s (fun s => anchorCmd 4 m a s))
/-- LC (R501). -/
def execAnchorLc (m : Master) (a : CsrAcc) (s : State) : Host.Outcome State Fault Refusal :=
  .next (onModule s (fun s => anchorCmd 5 m a s))
/-- COMMIT_SVN (R498). -/
def execAnchorCommitSvn (m : Master) (a : CsrAcc) (s : State) : Host.Outcome State Fault Refusal :=
  .next (onModule s (fun s => anchorCmd 6 m a s))
/-- REVOKE (R505). -/
def execAnchorRevoke (m : Master) (a : CsrAcc) (s : State) : Host.Outcome State Fault Refusal :=
  .next (onModule s (fun s => anchorCmd 7 m a s))
/-- RECOVER (R517). -/
def execAnchorRecover (m : Master) (a : CsrAcc) (s : State) : Host.Outcome State Fault Refusal :=
  .next (onModule s (fun s => anchorCmd 8 m a s))
/-- RCV (R496). -/
def execAnchorRcv (m : Master) (a : CsrAcc) (s : State) : Host.Outcome State Fault Refusal :=
  .next (onModule s (fun s => anchorCmd 9 m a s))
/-- ANCHOR_COMMAND_END (R517). -/
def execAnchorCommandEnd (s : State) : Host.Outcome State Fault Refusal :=
  .next (onModule s (fun s => anchorEnd s))

end Sys2Proof.Machine
end

