-- ==== Sys2Proof/Machine/Crc.lean ====
section
/-!
DEFINITION. Check values: the CRC of R344, CRC-32C (R29), CRC-32 and Adler-32 (R341).
-/
namespace Sys2Proof.Machine

/-- `x` with its low `w` bits reversed. -/
def reverseBits (w x : Nat) : Nat :=
  (List.range w).foldl (fun a i => a + (if x.testBit i then 2 ^ (w - 1 - i) else 0)) 0

/-- The parameters of a CRC (R337, R344). -/
structure CrcParams where
  w : Nat
  poly : Nat
  init : Nat
  refin : Bool
  refout : Bool
  xorout : Nat

/-- One bit of R344. -/
def crcBit (w poly crc bit : Nat) : Nat :=
  let fb := (crc / 2 ^ (w - 1) + bit) % 2
  let c := crc * 2 % 2 ^ w
  if fb = 1 then c ^^^ (poly % 2 ^ w) else c

/-- One byte of R344, most significant bit first. -/
def crcByte (w poly crc b : Nat) : Nat :=
  [7, 6, 5, 4, 3, 2, 1, 0].foldl (fun c i => crcBit w poly c (b / 2 ^ i % 2)) crc

/-- The check value of a list of bytes (R344). -/
def crcOf (p : CrcParams) (bs : List Byte) : Nat :=
  let c := bs.foldl (fun c b => crcByte p.w p.poly c (if p.refin then reverseBits 8 b.toNat else b.toNat)) (p.init % 2 ^ p.w)
  ((if p.refout then reverseBits p.w c else c) ^^^ p.xorout) % 2 ^ p.w

/-- CRC-32C (R29). -/
def crc32c (bs : List Byte) : Nat := crcOf ⟨32, 0x1EDC6F41, 0xFFFFFFFF, true, true, 0xFFFFFFFF⟩ bs

/-- CRC-32 of gzip (R341, R344). -/
def crc32 (bs : List Byte) : Nat := crcOf ⟨32, 0x04C11DB7, 0xFFFFFFFF, true, true, 0xFFFFFFFF⟩ bs

/-- CRC-16 with polynomial 0x1021, initial value 0xFFFF, unreflected. -/
def crc16 (bs : List Byte) : Nat := crcOf ⟨16, 0x1021, 0xFFFF, false, false, 0⟩ bs

/-- Adler-32 of zlib (R341). -/
def adler32 (bs : List Byte) : Nat :=
  let (a, b) := bs.foldl (fun (p : Nat × Nat) x => let a := (p.1 + x.toNat) % 65521; (a, (p.2 + a) % 65521)) (1, 0)
  b * 65536 + a

end Sys2Proof.Machine
end

