-- ==== Sys2Proof/Machine/JobStop.lean ====
section
/-!
DEFINITION. How firmware stops a job (R62, R448, R451, R470) and ends one whose steps are used up (R213).
-/
namespace Sys2Proof.Machine

/-- The running job of a baler with a number. -/
def balerJob (s : State) (d seq : Nat) : Option Job :=
  (jobsOf s (.baler d)).find? (fun j => j.seq = seq ∧ j.phase = .running)

/-- The deliveries of a job that firmware stops (R62, R253): its baler jobs are aborted and nothing more is sent. -/
def abortBales (s : State) (id : Nat) : State :=
  (List.range 4).foldl (fun s d =>
    let s := ((jobsOf s (.baler d)).filter (fun j => j.jobId = id ∧ j.phase ≠ .ended)).foldl
      (fun s j => cutJob s (.baler d) 0x01 j) s
    { s with outbox := s.outbox.filter (fun w => w.die ≠ d || (balerJob s d w.seq).isSome) }) s

/-- Firmware stops a job with a status (R448, R451, R470): STOP to its contexts, its deliveries are aborted (R62), its
replacement attempts are over; the job is unloaded and its status kept. -/
def stopJob (s : State) (id status : Nat) : State :=
  match s.jobs.find? (fun j => j.id == id) with
  | none => s
  | some j =>
    let s := abortBales (j.placed.foldl (fun s p => requestStop s p.ctx) s) id
    { s with jobs := s.jobs.filter (fun k => k.id != id), images := s.images.filter (fun g => g.job != id),
             parked := s.parked.filter (fun q => q.job != id), jobUse := s.jobUse.filter (fun e => e.1 != id),
             repl := s.repl.filter (fun t => t.job != id), slots := s.slots.filter (fun t => t.job != id),
             jobEnds := s.jobEnds ++ [(id, status)] }

/-- DELIVERED of a job (R234). -/
def deliveredName (job : Nat) : Nat := 3968 + 2 * job
/-- RELEASED of a job (R234). -/
def releasedName (job : Nat) : Nat := 3969 + 2 * job

/-- The steps of a loaded job: S_max of R213. -/
def jobSteps (j : LoadedJob) : Nat := min (2 ^ 32) (2 ^ 48 / max 1 (leAt j.desc 0x28 4))

/-- Does a step lie beyond those of a global batch size (R213)? -/
def stepBeyond (B step : Nat) : Bool := (step + 1) * B > 2 ^ 48

/-- Firmware ends a job whose request for a step beyond its last ended with LIMIT_EXCEEDED (R213). -/
def endBeyond (s : State) (j : Job) (beyond : Bool) : State :=
  if beyond && j.status = 0x05 then stopJob s j.jobId 0x05 else s

/-- Firmware ends the jobs that have delivered their last step (R213). -/
def endSpentJobs (s : State) : State :=
  (s.jobs.filter (fun j => jobSteps j ≤ counterVal s (deliveredName j.id))).foldl (fun s j => stopJob s j.id 0x05) s

end Sys2Proof.Machine
end

