-- ==== Sys2Proof/Machine/Dma.lean ====
section
/-!
DEFINITION. The stook DMA engine (R106 to R111).
-/
namespace Sys2Proof.Machine

/-- The memory that holds a whole span (R107 order 2), if one does. -/
def spanMem (s : State) (p : Span) : Option Region := if inOneMemory s p.1 p.2 then some (regionOf s p.1) else none

/-- Every row of a span lies in the same memory. -/
def sameMemory (s : State) : List Span → Bool
  | [] => true
  | p :: r => (spanMem s p).isSome && r.all (fun q => spanMem s q == spanMem s p)

/-- Do two spans share a byte? -/
def spansMeet (p q : Span) : Bool := p.2 ≠ 0 && q.2 ≠ 0 && p.1 < q.1 + q.2 && q.1 < p.1 + p.2

/-- A DMA job's rows: length, count, source rows and destination rows (R106, R107). -/
structure DmaRows where
  len : Nat
  rows : Nat
  src : List Span
  dst : List Span

/-- The rows that a descriptor names. FILL has no source span. -/
def dmaRows (j : Job) : DmaRows :=
  let d := j.desc
  let a := leAt d 0x08 8
  let b := leAt d 0x10 8
  let n := leAt d 0x18 4
  let rows (x stride : Nat) : List Span := (List.range (leAt d 0x1C 4)).map (fun r => (x + r * stride, n))
  match j.op with
  | 2 => ⟨n, leAt d 0x1C 4, rows a (leAt d 0x20 8), rows b (leAt d 0x28 8)⟩
  | 1 => ⟨n, 1, [(a, n)], [(b, n)]⟩
  | _ => ⟨n, 1, [], [(b, n)]⟩

/-- Order 1 of R107. -/
def dmaFieldsOk (j : Job) : Bool :=
  let n := leAt j.desc 0x18 4
  let r := leAt j.desc 0x1C 4
  j.jobId < 64 &&
    (match j.op with
     | 1 | 3 => 1 ≤ n && n ≤ 2 ^ 31 && r == 0
     | 2 => 1 ≤ n && n ≤ 2 ^ 24 && 1 ≤ r && r ≤ 65536
     | _ => false)

/-- The checks of R107 in order. -/
def dmaCheck (s : State) (j : Job) : Nat :=
  let r := dmaRows j
  if !dmaFieldsOk j then 0x05
  else if !(sameMemory s r.src && sameMemory s r.dst) then 0x07
  else if (r.src ++ r.dst).any (fun p => inFailedMemory s p.1) then 0x10
  else if r.src.any (fun p => r.dst.any (spansMeet p)) then 0x81
  else 0

/-- Read the source rows: the bytes of each, whether any is bad, and the state with its records. -/
def readRows (s : State) (master : Nat) (src : List Span) : List (List Byte) × Bool × State :=
  src.foldl (fun (acc : List (List Byte) × Bool × State) p =>
    let r := memRead acc.2.2 master 3 p.1 p.2
    (acc.1 ++ [r.data], acc.2.1 || r.bad, r.st)) ([], false, s)

/-- The destination words, in SRAM, of the source lines that read as poisoned (R324). -/
def poisonedWords (s : State) (master : Nat) (p q : Span) : List Nat :=
  match regionOf s q.1, regionOf s p.1 with
  | .stook _, .dram | .stook _, .host | .tile _, .dram | .tile _, .host =>
    ((linesOf p.1 p.2).filter (fun l =>
      let (o, n) := linePart p.1 p.2 l
      (memRead s master 3 (p.1 + o) n).bad)).flatMap (fun l =>
        let (o, n) := linePart p.1 p.2 l
        wholeWords (q.1 + o) n ++ partWords (q.1 + o) n)
  | _, _ => []

/-- A DMA job starts: its checks, then its data (R107, R109). -/
def dmaRun (k : Nat) (s : State) (j : Job) : Started :=
  let m := unitMaster (.dma k)
  let c := dmaCheck s j
  let r := dmaRows j
  if c ≠ 0 then failWith s c
  else if j.op = 3 then
    let (a, n) := r.dst.headD (0, 0)
    let pat := sliceB j.desc 0x08 8
    { status := 0, xfer := n, writes := [(a, (List.range n).map (fun i => pat.getD ((a + i) % 8) 0))], st := s }
  else
    let (ds, bad, s1) := readRows s m r.src
    let ws := (r.dst.map Prod.fst).zip ds
    if bad then
      { status := 0x80, writes := ws, cut := true, st := s1,
        inv := (r.src.zip r.dst).flatMap (fun e => poisonedWords s m e.1 e.2) }
    else { status := 0, xfer := r.len * r.rows, writes := ws, st := s1 }

/-- What a DMA job's start reads. -/
def dmaReads (s : State) (j : Job) : List Span := if dmaCheck s j = 0 then (dmaRows j).src else []

/-- Start the next DMA job of a stook (R108): at most 8 run, and FENCE waits for every earlier job. -/
def dmaStart (s : State) (k op : Nat) : State :=
  let u : EngUnit := .dma k
  startFirst s u (takesOp [1, 2, 3] op)
    (fun j => phaseCount (jobsOf s u) .running < 8
      && (j.flags % 2 == 0 || ((jobsOf s u).head?.elim false (fun h => h.seq == j.seq))))
    dmaReads (dmaRun k)

/-- A write of an abort register (R110 and its like): the jobs with the written job ID and tag; the result register. -/
def writeAbort (s : State) (u : EngUnit) (tag job resStatus resCount : Fld) (i : Nat) (a : CsrAcc) : State :=
  if !job.reached a then s
  else
    let (n, s) := abortJobs s u (job.presented a) (tag.presented a)
    (s.setFld resStatus i (if n = 0 then 0x02 else 0x01)).setFld resCount i n

/-- DMA_COPY (R107). -/
def execDmaCopy (k : StookId) (s : State) : Host.Outcome State Fault Refusal := .next (dmaStart s k 1)

/-- DMA_COPY2D (R107). -/
def execDmaCopy2d (k : StookId) (s : State) : Host.Outcome State Fault Refusal := .next (dmaStart s k 2)

/-- DMA_FILL (R107). -/
def execDmaFill (k : StookId) (s : State) : Host.Outcome State Fault Refusal := .next (dmaStart s k 3)

/-- DMA_JOB_END (R108): job `i` of those that may end. -/
def execDmaJobEnd (k : StookId) (i : Nat) (s : State) : Host.Outcome State Fault Refusal :=
  .next (jobEnd s (.dma k) i (some (Fld.DMA_STATUS_DONE, k)))

/-- DMA_ABORT (R110). -/
def execDmaAbort (k : StookId) (a : CsrAcc) (s : State) : Host.Outcome State Fault Refusal :=
  .next (onStook s k (fun s =>
    writeAbort s (.dma k) Fld.DMA_ABORT_TAG Fld.DMA_ABORT_JOB Fld.DMA_ABORT_RES_STATUS Fld.DMA_ABORT_RES_COUNT k a))

end Sys2Proof.Machine
end

