-- ==== Sys2Proof/Machine/Pool.lean ====
section
/-!
DEFINITION. Buffer pools and the pool manager of each P-die (R328 to R336).
-/
namespace Sys2Proof.Machine

/-! ## Spans that a P-die engine may use (R536) -/

/-- The spans a job of a context may use are populated DRAM and the SRAM of its own tile and stook: 0, ACCESS_DENIED,
or UNIT_FAILED in failed memory (R536). -/
def ownSpan (s : State) (origin : Option Nat) (p : Span) : Nat :=
  if p.2 = 0 then 0
  else if inFailedMemory s p.1 then 0x10
  else if !inOneMemory s p.1 p.2 then 0x07
  else
    match regionOf s p.1, origin with
    | .dram, _ => 0
    | .stook k, some c => if k = stookOf c then 0 else 0x07
    | .tile t, some c => if t = tileOf c then 0 else 0x07
    | _, _ => 0x07

/-- The first failure among several spans. -/
def ownSpans (s : State) (origin : Option Nat) (ps : List Span) : Nat :=
  (ps.findSome? (fun p => let c := ownSpan s origin p; if c = 0 then none else some c)).getD 0

/-- Are all bytes of a span of a descriptor zero? -/
def zeroBytes (d : List Byte) (o n : Nat) : Bool := leAt d o n == 0

/-! ## Pool state (R328) -/

/-- Number of buffers. -/
def poolCount (s : State) (p : Nat) : Nat := s.fld Fld.POOL_CFG_COUNT p
/-- Size of a buffer in bytes. -/
def poolSize (s : State) (p : Nat) : Nat := 2 ^ s.fld Fld.POOL_CFG_CLASS p
/-- Address of buffer 0. -/
def poolBase (s : State) (p : Nat) : Nat := s.fld Fld.POOL_BASE_BASE p * 64
/-- Address of the free ring. -/
def poolMeta (s : State) (p : Nat) : Nat := s.fld Fld.POOL_META_META p * 64
/-- `x` rounded up to a multiple of `n`. -/
def roundUp (x n : Nat) : Nat := ceilDiv x n * n
/-- Address of the state bitmap. -/
def poolBitmap (s : State) (p : Nat) : Nat := poolMeta s p + roundUp (4 * poolCount s p) 64
/-- Free buffers. -/
def poolFree (s : State) (p : Nat) : Nat := s.fld Fld.POOL_STAT_FREE p
/-- Position of the ring's head. -/
def poolHeadOf (s : State) (p : Nat) : Nat := Cells.get (fun _ => 0) s.poolHead p
/-- Master ID of the pool manager of a pool's P-die. -/
def poolMaster (p : Nat) : Nat := 0x35C + p / 64

/-- The ring entry at a position. -/
def ringEntry (s : State) (p i : Nat) : Nat :=
  leNat (memRead s (poolMaster p) 3 (poolMeta s p + 4 * (i % poolCount s p)) 4).data

/-- Mark a buffer allocated or free in the bitmap. -/
def markBuffer (s : State) (p j : Nat) (b : Bool) : State :=
  let a := poolBitmap s p + j / 8
  let old := leNat (peek s a 1)
  memPut s (poolMaster p) a (leBytes 1 (putBits old (j % 8) 1 (b2n b)))

/-- Is a buffer allocated? -/
def bufferTaken (s : State) (p j : Nat) : Bool := (leNat (peek s (poolBitmap s p + j / 8) 1)).testBit (j % 8)

/-- An allocation of `n` buffers (R330): their addresses, or none. -/
def poolTake (s : State) (p n : Nat) : Option (List Nat) × State :=
  if poolFree s p < n then (none, s.satAdd Fld.POOL_STAT_EMPTY p 1)
  else
    let h := poolHeadOf s p
    let js := (List.range n).map (fun i => ringEntry s p (h + i))
    let s := js.foldl (fun s j => markBuffer s p j true) s
    let s := { s with poolHead := Cells.put (fun _ => 0) s.poolHead p ((h + n) % poolCount s p) }
    (some (js.map (fun j => poolBase s p + j * poolSize s p)), s.setFld Fld.POOL_STAT_FREE p (poolFree s p - n))

/-- Buffers returned to the tail of the ring (R330). -/
def poolReturn (s : State) (p : Nat) (js : List Nat) : State :=
  js.foldl (fun s j =>
    let t := poolHeadOf s p + poolFree s p
    let s := memPut s (poolMaster p) (poolMeta s p + 4 * (t % poolCount s p)) (leBytes 4 j)
    (markBuffer s p j false).setFld Fld.POOL_STAT_FREE p (poolFree s p + 1)) s

/-- What an allocation of `n` buffers reads and writes of the pool's state (R328, R330). -/
def takeSpans (s : State) (p n : Nat) : List Span × List Span :=
  if poolFree s p < n ∨ !s.flag Fld.POOL_CFG_READY p then ([], [])
  else
    let at_ (i : Nat) : Nat := poolMeta s p + 4 * ((poolHeadOf s p + i) % poolCount s p)
    ((List.range n).map (fun i => (at_ i, 4)),
      (List.range n).map (fun i => (poolBitmap s p + leNat (peek s (at_ i) 4) / 8, 1)))

/-- The reads of the ring that an allocation makes (R322, R324, R326): whether one is poisoned, and the state. -/
def ringReads (s : State) (p n : Nat) : Bool × State := readSpans s (poolMaster p) (takeSpans s p n).1

/-- The buffer number of an address of the pool (R331). -/
def bufferOf (s : State) (p a : Nat) : Option Nat :=
  let b := poolBase s p
  if b ≤ a ∧ (a - b) % poolSize s p = 0 ∧ (a - b) / poolSize s p < poolCount s p then some ((a - b) / poolSize s p) else none

/-- The bits that a free checks (R331): whether a line of theirs is poisoned, and the state. -/
def bitmapReads (s : State) (p : Nat) (as : List Nat) : Bool × State :=
  readSpans s (poolMaster p) ((as.filterMap (bufferOf s p)).map (fun j => (poolBitmap s p + j / 8, 1)))

/-- What a return of buffers writes of the pool's state; the bitmap is read first (R331). -/
def giveSpans (s : State) (p : Nat) (js : List Nat) : List Span :=
  js.zipIdx.map (fun e => (poolMeta s p + 4 * ((poolHeadOf s p + poolFree s p + e.2) % poolCount s p), 4))
    ++ js.map (fun j => (poolBitmap s p + j / 8, 1))

/-- A free, checked whole (R331): the status and the state. -/
def poolGive (s : State) (p : Nat) (as : List Nat) : Nat × State :=
  let js := as.filterMap (bufferOf s p)
  if js.length ≠ as.length then (0x83, s)
  else if js.any (fun j => !bufferTaken s p j) || js.eraseDups.length ≠ js.length then
    (0x0F, s.satAdd Fld.POOL_STAT_DOUBLE p 1)
  else (0, poolReturn s p js)

/-- Do the pool's buffers lie in a stook SRAM marked failed (R335)? -/
def poolInFailed (s : State) (p : Nat) : Bool := inFailedMemory s (poolBase s p)

/-! ## Enabling (R329) -/

/-- Is a configuration one that ENABLE may be set with? -/
def poolConfigOk (s : State) (p cls count : Nat) : Bool :=
  let b := poolBase s p
  let m := poolMeta s p
  let n := roundUp (4 * count) 64 + roundUp (ceilDiv count 8) 64
  8 ≤ cls && cls ≤ 24 && count != 0 && b % min (2 ^ cls) 4096 == 0
    && (inDram s b (count * 2 ^ cls)
      || (match regionOf s b with | .stook k => k / 16 == p / 64 && inOneMemory s b (count * 2 ^ cls) | _ => false))
    && inDram s m n

/-- A write of POOL_CFG (R329). -/
def writePoolCfg (s : State) (m p : Nat) (a : CsrAcc) : State :=
  let new := s.written Fld.POOL_CFG_ENABLE p a
  if s.flag Fld.POOL_CFG_ENABLE p then
    if new = 0 then
      if poolFree s p = poolCount s p then (s.setFld Fld.POOL_CFG_ENABLE p 0).setFld Fld.POOL_CFG_READY p 0
      else violation s 4 m (regAddr .POOL_CFG p) true
    else s
  else
    if new = 1 ∧ !poolConfigOk s p (s.written Fld.POOL_CFG_CLASS p a) (s.written Fld.POOL_CFG_COUNT p a) then
      violation s 4 m (regAddr .POOL_CFG p) true
    else s.plainWrite .POOL_CFG p false a

/-- A write of POOL_BASE or POOL_META: ignored while the pool is enabled (R329). -/
def writePoolAddr (s : State) (r : Reg) (p : Nat) (a : CsrAcc) : State :=
  if s.flag Fld.POOL_CFG_ENABLE p || s.flag Fld.POOL_CFG_READY p then s else s.plainWrite r p false a

/-- Initialisation ends (R329): the ring holds 0 to COUNT − 1, every buffer is free, READY is set. -/
def poolReady (s : State) (p : Nat) : State :=
  if !s.flag Fld.POOL_CFG_ENABLE p || s.flag Fld.POOL_CFG_READY p || pUnitFailed s (p / 64) 3 then s
  else
    let n := poolCount s p
    let map := roundUp (ceilDiv n 8) 64
    match prepare s (poolMaster p) [] [(poolMeta s p, 4 * n), (poolBitmap s p, map)] with
    | .stall s => s
    | .go =>
      let s := memPut s (poolMaster p) (poolMeta s p) ((List.range n).flatMap (leBytes 4))
      let s := memPut s (poolMaster p) (poolBitmap s p) (List.replicate map 0)
      let s := { s with poolHead := Cells.put (fun _ => 0) s.poolHead p 0 }
      (s.setFld Fld.POOL_STAT_FREE p n).setFld Fld.POOL_CFG_READY p 1

/-! ## Pool jobs (R333, R334) -/

/-- Check 1 of R334: operation, header, ranges and reserved bytes. -/
def poolFieldsOk (j : Job) : Bool :=
  let d := j.desc
  let n := leAt d 9 1
  (j.op == 1 || j.op == 2) && j.flags == 0 && leAt d 5 1 % 4 == 0 && j.jobId < 64 && leAt d 8 1 < 64
    && (1 ≤ n && n ≤ 16) && zeroBytes d 0x0A 6 && zeroBytes d 0x20 32 && (n == 1 || leAt d 0x10 8 % 8 == 0)

/-- The address list of a job, when it has one. -/
def poolList (j : Job) : List Span := if leAt j.desc 9 1 > 1 then [(leAt j.desc 0x10 8, 8 * leAt j.desc 9 1)] else []

/-- Checks 1 to 3 of R334: the number of the failing check and the status, or (0, 0). -/
def poolChecks (s : State) (d : Nat) (j : Job) : Nat × Nat :=
  let p := jobPool d j
  if !poolFieldsOk j then (1, 0x81)
  else
    let c := ownSpans s j.origin (poolList j)
    if c ≠ 0 then (2, c)
    else if poolInFailed s p && s.flag Fld.POOL_CFG_READY p then (3, 0x10)
    else if !s.flag Fld.POOL_CFG_READY p then (3, 0x82)
    else (0, 0)

/-- A pool job runs. A poisoned line of the pool's own state ends it at check 4 with SRAM_PARITY (R324). -/
def poolRun (d : Nat) (s : State) (j : Job) : Started :=
  let p := jobPool d j
  let n := leAt j.desc 9 1
  let (chk, c) := poolChecks s d j
  if c ≠ 0 then failWith s c (poolEng s p 0 chk)
  else if j.op = 1 then
    let (bad, s) := ringReads s p n
    if bad then failWith s 0x80 (poolEng s p 0 4)
    else match poolTake s p n with
    | (none, s) => failWith s 0x03 (poolEng s p 0 4)
    | (some as, s) =>
      { status := 0, xfer := if n > 1 then 8 * n else 0, eng := poolEng s p (as.headD 0) 0, st := s,
        writes := if n > 1 then [(leAt j.desc 0x10 8, as.flatMap (leBytes 8))] else [] }
  else
    let r : ReadRes := if n > 1 then memRead s (unitMaster (.pool d)) 3 (leAt j.desc 0x10 8) (8 * n)
      else ⟨sliceB j.desc 0x18 8, false, s⟩
    if r.bad then failWith r.st 0x80 (poolEng r.st p 0 4)
    else
      let as := (List.range n).map (fun i => leAt r.data (8 * i) 8)
      let (bad, s) := bitmapReads r.st p as
      let (c, s) := if bad then (0x80, s) else poolGive s p as
      if c ≠ 0 then failWith s c (poolEng s p 0 4) else { status := 0, eng := poolEng s p 0 0, st := s }

/-- What a pool job reads and writes beside its record, once its checks pass. -/
def poolSpans (s : State) (d : Nat) (j : Job) : List Span × List Span :=
  let p := jobPool d j
  let n := leAt j.desc 9 1
  if (poolChecks s d j).2 ≠ 0 then ([], [])
  else if j.op = 1 then let (rd, wr) := takeSpans s p n; (rd, poolList j ++ wr)
  else
    let bs := if n > 1 then peek s (leAt j.desc 0x10 8) (8 * n) else sliceB j.desc 0x18 8
    (poolList j, giveSpans s p ((List.range n).filterMap (fun i => bufferOf s p (leAt bs (8 * i) 8))))

/-- Handle the first job of the pool queue (R334): one at a time, from its checks to its record and increment. -/
def poolHandle (s : State) (d op : Nat) : State :=
  let u : EngUnit := .pool d
  match (jobsOf s u).head? with
  | none => s
  | some j =>
    if j.phase = .ended then jobEnd s u 0 none
    else if !takesOp [1, 2] op j then s
    else
      let (rd, wr) := recordSpans s j.counter
      let (prd, pwr) := poolSpans s d j
      match prepare s (unitMaster u) (rd ++ prd) (wr ++ pwr) with
      | .stall s => s
      | .go =>
        let r := poolRun d s j
        let f := internalParity u (failWith s 0 (poolEng s (jobPool d j) 0 4))
        jobEnd (startJob u j (if r.status = 0 ∧ f.status ≠ 0 then f else r)) u 0 none

/-- End every job whose outcome is already final: an abort delivers its records at once, but for a record that waits for the
host. -/
def deliverEnded (s : State) (u : EngUnit) : State :=
  ((jobsOf s u).filter (fun j => j.phase = .ended)).foldl (fun s j =>
    match endReady s u j with
    | .stall s => s
    | .go => endJob s u j) s

/-- POOL_ENABLE: a write of POOL_CFG (R329). -/
def execPoolEnable (m : Master) (p : Fin 256) (a : CsrAcc) (s : State) : Host.Outcome State Fault Refusal :=
  .next (onPdie s (fun s => writePoolCfg s m.toNat p a))

/-- POOL_READY (R329). -/
def execPoolReady (p : Fin 256) (s : State) : Host.Outcome State Fault Refusal := .next (poolReady s p)

/-- ALLOC (R330, R334). -/
def execPoolAlloc (d : PDie) (s : State) : Host.Outcome State Fault Refusal := .next (poolHandle s d 1)

/-- FREE (R331, R334). -/
def execPoolFree (d : PDie) (s : State) : Host.Outcome State Fault Refusal := .next (poolHandle s d 2)

/-- POOL_ABORT (R335). -/
def execPoolAbort (d : PDie) (a : CsrAcc) (s : State) : Host.Outcome State Fault Refusal :=
  .next (onPdie s (fun s =>
    deliverEnded (writeAbort s (.pool d) Fld.POOL_ABORT_TAG Fld.POOL_ABORT_JOB Fld.POOL_ABORT_RES_STATUS
      Fld.POOL_ABORT_RES_COUNT d a) (.pool d)))

end Sys2Proof.Machine
end

