-- ==== Sys2Proof/Machine/Scree.lean ====
section
/-!
DEFINITION. The Scree generator (R75, R76) and the keyed permutation (R215 to R217).
-/
namespace Sys2Proof.Machine

/-- Four 32-bit words: a key, a counter, a Scree state or a draw (R75). -/
structure Quad where
  w0 : BitVec 32
  w1 : BitVec 32
  w2 : BitVec 32
  w3 : BitVec 32
  deriving DecidableEq, Repr

/-- rotl of R75. -/
def rotl32 (w : BitVec 32) (n : Nat) : BitVec 32 := (w <<< n) ||| (w >>> (32 - n))

/-- The rotation amounts rho of R75. -/
def screeRho (r : Nat) : Nat := [13, 7, 19, 11, 5, 23, 17, 3, 29, 9].getD r 0

/-- The rotation amounts sigma of R75. -/
def screeSigma (r : Nat) : Nat := [17, 25, 9, 21, 15, 3, 27, 13, 7, 19].getD r 0

/-- One round of Scree (R75). -/
def screeRound (k : Quad) (r : Nat) (x : Quad) : Quad :=
  let x0 := x.w0 + x.w1
  let x3 := rotl32 (x.w3 ^^^ x0) (screeRho r)
  let x2 := x.w2 + x3
  let x1 := rotl32 (x.w1 ^^^ x2) (screeSigma r)
  if r % 2 = 1 then
    ⟨(x0 ^^^ k.w0) + 0xB5A31C4D#32 * BitVec.ofNat 32 (r + 1), x1 ^^^ k.w1, x2 ^^^ k.w2, x3 ^^^ k.w3⟩
  else ⟨x0, x1, x2, x3⟩

/-- The first `n` rounds of Scree (R75). -/
def screeRounds (k c : Quad) : Nat → Quad
  | 0 => c
  | n + 1 => screeRound k n (screeRounds k c n)

/-- Scree (R75): ten rounds. -/
def scree (k c : Quad) : Quad := screeRounds k c 10

/-- The 128 bits of a draw as a number (R76). -/
def Quad.toNat (q : Quad) : Nat := q.w0.toNat + 2 ^ 32 * q.w1.toNat + 2 ^ 64 * q.w2.toNat + 2 ^ 96 * q.w3.toNat

/-- The 16 bytes of a draw or key (R76). -/
def Quad.bytes (q : Quad) : List Byte := leBytes 16 q.toNat

/-- Words from 16 bytes (R76). -/
def quadOf (bs : List Byte) : Quad :=
  ⟨BitVec.ofNat 32 (leAt bs 0 4), BitVec.ofNat 32 (leAt bs 4 4), BitVec.ofNat 32 (leAt bs 8 4), BitVec.ofNat 32 (leAt bs 12 4)⟩

/-- The counter of a stream, epoch and 64-bit element counter (R76). -/
def screeCounter (stream epoch elem : Nat) : Quad :=
  ⟨BitVec.ofNat 32 elem, BitVec.ofNat 32 (elem / 2 ^ 32), BitVec.ofNat 32 epoch, BitVec.ofNat 32 stream⟩

/-- The domain width n of R215: the smallest even number of at least 2 with 2^n ≥ N. -/
def permBits (N : Nat) : Nat := ((List.range 32).find? (fun k => N ≤ 2 ^ (2 * k + 2))).elim 64 (fun k => 2 * k + 2)

/-- The round function F_j(h) of R215. -/
def permF (seed : Quad) (epoch m j h : Nat) : Nat :=
  (scree seed ⟨BitVec.ofNat 32 h, BitVec.ofNat 32 j, BitVec.ofNat 32 epoch, 1#32⟩).w0.toNat % 2 ^ m

/-- Feistel rounds from round `j`, `n` of them (R216). -/
def feistel (seed : Quad) (epoch m : Nat) : Nat → Nat → Nat × Nat → Nat × Nat
  | 0, _, p => p
  | n + 1, j, (l, r) => feistel seed epoch m n (j + 1) (r, l ^^^ permF seed epoch m j r)

/-- One Feistel pass (R216). -/
def permPass (seed : Quad) (epoch n x : Nat) : Nat :=
  let m := n / 2
  let (l, r) := feistel seed epoch m 8 0 (x >>> m, x % 2 ^ m)
  (l <<< m) ||| r

/-- The walk of R216, with the bound on the number of passes that R216 gives as fuel. -/
def permWalk (seed : Quad) (epoch n N : Nat) : Nat → Nat → Nat
  | 0, x => x
  | k + 1, x => let y := permPass seed epoch n x; if y < N then y else permWalk seed epoch n N k y

/-- The permutation π of an epoch (R216). -/
def permIndex (seed : Quad) (epoch N i : Nat) : Nat :=
  let n := permBits N
  permWalk seed epoch n N (2 ^ n - N + 1) i

/-- The passes of that walk (R217). -/
def permWalkPasses (seed : Quad) (epoch n N : Nat) : Nat → Nat → Nat
  | 0, _ => 0
  | k + 1, x => let y := permPass seed epoch n x; if y < N then 1 else 1 + permWalkPasses seed epoch n N k y

/-- The pass count w of π (R217). -/
def permPasses (seed : Quad) (epoch N i : Nat) : Nat :=
  let n := permBits N
  permWalkPasses seed epoch n N (2 ^ n - N + 1) i

/-- The replacement index of a position at an attempt (R228). -/
def replacementIndex (seed : Quad) (epoch N p a : Nat) : Nat :=
  let x := scree seed ⟨BitVec.ofNat 32 p, BitVec.ofNat 32 (bits p 32 16 + a * 65536), BitVec.ofNat 32 epoch, 2#32⟩
  (x.w0.toNat + x.w1.toNat * 2 ^ 32) * N / 2 ^ 64

end Sys2Proof.Machine
end

