-- ==== Sys2Proof/Machine/Perm.lean ====
section
/-!
DEFINITION. The permutation unit (R211 to R227), replacement (R228 to R233) and the look-ahead gate (R234, R235).
-/
namespace Sys2Proof.Machine

/-! ## Job contexts and shard tables (R219, R220, R32) -/

/-- The job context of a P-die's unit (R219). -/
structure PermCtx where
  seed : Quad
  N : Nat
  B : Nat
  E0 : Nat
  T : Nat
  self : Nat
  K : Nat
  valid : Bool
  tableA : Nat
  tableB : Nat
  ringMin : Nat
  deriving DecidableEq, Repr

/-- The context of 64 bytes. -/
def permCtxOf (b : List Byte) : PermCtx :=
  { seed := quadOf b, N := leAt b 0x10 8 % 2 ^ 49, B := leAt b 0x18 4, E0 := leAt b 0x1C 4, T := leAt b 0x20 4,
    self := leAt b 0x24 2, K := leAt b 0x26 1, valid := leAt b 0x27 1 % 2 == 1, tableA := leAt b 0x28 8,
    tableB := leAt b 0x30 8, ringMin := leAt b 0x38 2 }

/-- The address of a job's context. -/
def permCtxAddr (s : State) (d job : Nat) : Nat := s.fld Fld.PERM_CTX_BASE_BASE d * 64 + job * 64

/-- The context of a job on a P-die. -/
def permCtx (s : State) (d job : Nat) : PermCtx := permCtxOf (peek s (permCtxAddr s d job) 64)

/-- When a job context is valid (R223). -/
def permCtxValid (c : PermCtx) : Bool :=
  c.valid && (1 ≤ c.N && c.N ≤ 2 ^ 48) && (1 ≤ c.B && c.B ≤ c.N) && c.T == c.N / c.B && (1 ≤ c.K && c.K ≤ 16)
    && (1 ≤ c.ringMin && c.ringMin ≤ 256)

/-- A shard table entry (R30). -/
structure ShardEntry where
  first : Nat
  last : Nat
  primary : Nat
  alternate : Nat
  altValid : Bool
  deriving DecidableEq, Repr

/-- A shard table (R30). -/
structure ShardTable where
  generation : Nat
  effective : Nat
  N : Nat
  entries : List ShardEntry
  deriving DecidableEq, Repr

/-- The span of the table at an address. -/
def shardSpan (s : State) (a : Nat) : Span := (a, 32 + 32 * leNat (peek s (a + 8) 4))

/-- An entry of 32 bytes. -/
def shardEntryOf (b : List Byte) : ShardEntry :=
  { first := leAt b 0 8, last := leAt b 8 8, primary := leAt b 0x10 2, alternate := leAt b 0x12 2,
    altValid := leAt b 0x14 2 % 2 == 1 }

/-- The table at an address. -/
def shardTable (s : State) (a : Nat) : ShardTable :=
  let h := peek s a 32
  { generation := leAt h 0 4, effective := leAt h 4 4, N := leAt h 0x10 8,
    entries := (List.range (leAt h 8 4)).map (fun i => shardEntryOf (peek s (a + 32 + 32 * i) 32)) }

/-- The table that R32 and R220 select for a step: the highest generation effective at the step; slot A on a tie. -/
def selectTable (s : State) (c : PermCtx) (step : Nat) : Option ShardTable :=
  let get (a : Nat) : Option ShardTable :=
    if a = 0 then none else let t := shardTable s a; if t.effective ≤ step then some t else none
  match get c.tableA, get c.tableB with
  | some a, some b => if a.generation < b.generation then some b else some a
  | some a, none => some a
  | none, b => b

/-- The entry that holds a sample index. -/
def ownerOf (t : ShardTable) (idx : Nat) : Option ShardEntry := t.entries.find? (fun e => e.first ≤ idx && idx < e.last)

/-- The epoch of a step (R212). -/
def epochOf (c : PermCtx) (step : Nat) : Nat := (c.E0 + step / c.T) % 2 ^ 32

/-- The sample index of slot `q` of a step (R212). -/
def sampleIndex (c : PermCtx) (step q : Nat) : Nat :=
  permIndex c.seed (epochOf c step) c.N (step % c.T * c.B + q)

/-! ## Checks (R221, R223) -/

/-- The step of a job: its field, or floor(position / B). -/
def permStep (c : PermCtx) (j : Job) : Nat :=
  if j.op ≤ 2 then leAt j.desc 8 4 else leAt j.desc 0x18 6 / c.B

/-- Order 1. -/
def permFieldsOk (j : Job) : Bool :=
  let d := j.desc
  let n := leAt d 0x10 4
  let a := leAt d 0x14 1
  j.flags == 0 && leAt d 5 1 % 4 == 0 && j.jobId < 64 && zeroBytes d 0x15 3 && zeroBytes d 0x2C 20 &&
    (match j.op with
     | 1 | 2 => 1 ≤ n && n ≤ 2 ^ 24 && leAt d 0x20 8 % 16 == 0
     | 3 => 1 ≤ a && a ≤ 15
     | 4 => true
     | _ => false)

/-- The output span of OWNED and MAP. -/
def permOut (j : Job) : Span := (leAt j.desc 0x20 8, leAt j.desc 0x28 4 * 16)

/-- Orders 1 to 4, made when the job is taken from the queue. The context is memory as it stands; `permRun` reads it. -/
def permEarly (s : State) (d : Nat) (j : Job) : Nat :=
  let c := permCtx s d j.jobId
  if !permFieldsOk j then 0x81
  else if !permCtxValid c || (j.op ≤ 2 && leAt j.desc 0x0C 4 + leAt j.desc 0x10 4 > c.B) then 0x81
  else
    let sp := if j.op ≤ 2 then ownSpan s j.origin (permOut j) else 0
    if sp ≠ 0 then sp
    else if stepBeyond c.B (permStep c j) then 0x05
    else 0

/-- Does the look-ahead gate hold the job (R235)? -/
def gateHolds (s : State) (d : Nat) (j : Job) : Bool :=
  let c := permCtx s d j.jobId
  j.op ≤ 2 && permStep c j ≥ counterVal s (deliveredName j.jobId) + c.K

/-! ## Operations (R222, R224, R228) -/

/-- An output entry: position, sample index, primary owner. -/
def permEntry (pos idx owner : Nat) : List Byte := leBytes 6 pos ++ [0, 0] ++ leBytes 6 idx ++ leBytes 2 owner

/-- The primary owner of an index; of one that no entry holds an opaque function of the table and the index, so that the same
job gives the same entries (R63). -/
def primaryOf (t : ShardTable) (idx : Nat) : Nat :=
  (ownerOf t idx).elim (Config.strayOwner (t.generation :: t.effective :: t.N ::
    t.entries.flatMap (fun e => [e.first, e.last, e.primary, e.alternate, b2n e.altValid])) idx).toNat (·.primary)

/-- OWNED and MAP. Under OUTPUT_FULL the passes computed are those of every slot of the range (the model's choice, log entry
125). -/
def permRange (s : State) (j : Job) (c : PermCtx) (t : ShardTable) : Started :=
  let step := permStep c j
  let q0 := leAt j.desc 0x0C 4
  let qs := (List.range (leAt j.desc 0x10 4)).map (· + q0)
  let rows := qs.map (fun q => let i := sampleIndex c step q; (q, i, primaryOf t i))
  let out := rows.filter (fun r => j.op == 2 || r.2.2 == c.self)
  let cap := leAt j.desc 0x28 4
  let passes := qs.foldl (fun n q => n + permPasses c.seed (epochOf c step) c.N (step % c.T * c.B + q)) 0
  let full := out.length > cap
  let bytes := (out.take cap).flatMap (fun r => permEntry (step * c.B + r.1) r.2.1 r.2.2)
  { status := if full then 0x04 else 0
    xfer := 16 * out.length
    eng := leBytes 4 (if full then 0 else out.length) ++ leBytes 4 (epochOf c step) ++ leBytes 4 t.generation ++ leBytes 4 passes
    writes := [((permOut j).1, bytes)]
    st := s }

/-- REPLACE. -/
def permReplaceRun (s : State) (j : Job) (c : PermCtx) (t : ShardTable) : Started :=
  let p := leAt j.desc 0x18 6
  let a := leAt j.desc 0x14 1
  let i := replacementIndex c.seed (epochOf c (p / c.B)) c.N p a
  let e : ShardEntry := (ownerOf t i).getD ⟨0, 0, primaryOf t i, primaryOf t i, false⟩
  { status := 0, st := s,
    eng := leBytes 6 i ++ leBytes 2 e.primary ++ leBytes 2 e.alternate
      ++ leBytes 1 (b2n e.altValid + 2 * b2n (e.primary = c.self)) ++ leBytes 1 a ++ leBytes 4 t.generation }

/-- The spans of the tables that a job reads at its start (R220). -/
def permTables (d : Nat) (s : State) (j : Job) : List Span :=
  let c := permCtx s d j.jobId
  ([c.tableA, c.tableB].filter (· ≠ 0)).map (shardSpan s)

/-- Orders 5 and 6 and the operation, when the job starts. A poisoned table ends the job with 0x80 (R324; log entry 42). -/
def permWork (d : Nat) (s : State) (j : Job) : Started :=
  let c := permCtx s d j.jobId
  let (bad, s) := readSpans s (unitMaster (.perm d)) (permTables d s j)
  if bad then failWith s 0x80 else
  match selectTable s c (permStep c j) with
  | none => failWith s 0x82
  | some t =>
    match j.op with
    | 1 | 2 => permRange s j c t
    | 3 => permReplaceRun s j c t
    | _ => { status := 0, st := s }

/-- The reading of a job's context when it is taken from the queue, for order 2: the status that ends the job there, or 0, and the
state. A poisoned context ends it with 0x80 (R324; log entry 42). -/
def permChecks (d : Nat) (s : State) (j : Job) : Nat × State :=
  if !permFieldsOk j then (0x81, s)
  else
    let (bad, t) := readSpans s (unitMaster (.perm d)) [(permCtxAddr s d j.jobId, 64)]
    (if bad then 0x80 else permEarly s d j, t)

/-- What a job reads: its context and both shard tables. -/
def permReads (d : Nat) (s : State) (j : Job) : List Span := (permCtxAddr s d j.jobId, 64) :: permTables d s j

/-- The first enqueued held job whose gate is open: it starts before any later job (R225). -/
def openedHeld (s : State) (d : Nat) : Option Job :=
  (jobsOf s (.perm d)).find? (fun j => j.phase = .held && !gateHolds s d j)

/-- Take the next job of the queue (R225, R235): it fails its first checks and ends at once, is held, waits because 16 are
held, 4 run or an earlier held job may start, or starts. -/
def permTake (s : State) (d op : Nat) : State :=
  let u : EngUnit := .perm d
  match firstWaiting s u with
  | none => s
  | some j =>
    if !takesOp [1, 2, 3, 4] op j then s
    else
      match prepare s (unitMaster u) (permReads d s j) [] with
      | .stall s => s
      | .go =>
        let (e, t) := permChecks d s j
        if e ≠ 0 then dropHost (refuseJob u j (failWith t e)) (unitMaster u)
        else if gateHolds s d j then
          if phaseCount (jobsOf s u) .held < 16 then dropHost (updateJob t u j.seq (fun j => { j with phase := .held })) (unitMaster u)
          else s
        else if phaseCount (jobsOf s u) .running < 4 && (openedHeld s d).isNone then
          dropHost (startJob u j (internalParity u (permWork d t j))) (unitMaster u)
        else s

/-- A held job whose gate is open starts: job `i` of those held, if it is the first of them. -/
def permGate (s : State) (d i : Nat) : State :=
  let u : EngUnit := .perm d
  match ((jobsOf s u).filter (fun j => j.phase = .held))[i]? with
  | none => s
  | some j =>
    if (openedHeld s d).all (fun k => k.seq ≠ j.seq) || phaseCount (jobsOf s u) .running ≥ 4 then s
    else
      match prepare s (unitMaster u) (permReads d s j) [] with
      | .stall s => s
      | .go => dropHost (startJob u j (internalParity u (permWork d s j))) (unitMaster u)

/-! ## Replacement attempts (R229 to R233) -/

/-- The attempt in progress for a position. -/
def tryOf (s : State) (job pos : Nat) : Option ReplTry := s.repl.find? (fun t => t.job == job && t.position == pos)

/-- The state with the attempt of a position replaced. -/
def setTry (s : State) (t : ReplTry) : State :=
  { s with repl := (s.repl.filter (fun x => !(x.job == t.job && x.position == t.position))) ++ [t] }

/-- The attempt of a position is over. -/
def dropTry (s : State) (job pos : Nat) : State :=
  { s with repl := s.repl.filter (fun x => !(x.job == job && x.position == pos)) }

/-- A replacement request (R230). -/
def requestBytes (job attempt step pos idx self tag : Nat) : List Byte :=
  leBytes 2 1 ++ leBytes 1 job ++ leBytes 1 attempt ++ leBytes 4 step ++ leBytes 8 pos ++ leBytes 8 idx ++ leBytes 2 self
    ++ leBytes 2 0 ++ leBytes 4 tag ++ leBytes 32 0

/-- A replacement reply (R230). -/
def replyBytes (job attempt outcome status pos tag self : Nat) : List Byte :=
  leBytes 2 2 ++ leBytes 1 job ++ leBytes 1 attempt ++ leBytes 4 (outcome + 256 * status) ++ leBytes 8 pos ++ leBytes 4 tag
    ++ leBytes 2 self ++ leBytes 10 0

/-- An attempt fails: the next one is due, or the slot becomes a void (R229, R232). -/
def failTry (s : State) (t : ReplTry) : State :=
  if t.attempt < 15 then setTry s { t with attempt := t.attempt + 1, phase := .due, alternate := none }
  else setTry s { t with phase := .void, alternate := none }

/-- OWNED (R222). -/
def execPermOwned (d : PDie) (s : State) : Host.Outcome State Fault Refusal := .next (permTake s d 1)

/-- MAP (R222). -/
def execPermMap (d : PDie) (s : State) : Host.Outcome State Fault Refusal := .next (permTake s d 2)

/-- REPLACE (R228). -/
def execPermReplace (d : PDie) (s : State) : Host.Outcome State Fault Refusal := .next (permTake s d 3)

/-- VOID (R232). -/
def execPermVoid (d : PDie) (s : State) : Host.Outcome State Fault Refusal := .next (permTake s d 4)

/-- LOOK_AHEAD_GATE_OPEN (R235). -/
def execLookAheadGateOpen (d : PDie) (i : Nat) (s : State) : Host.Outcome State Fault Refusal := .next (permGate s d i)

/-- PERM_ABORT (R226). -/
def execPermAbort (d : PDie) (a : CsrAcc) (s : State) : Host.Outcome State Fault Refusal :=
  .next (onPdie s (fun s =>
    writeAbort s (.perm d) Fld.PERM_ABORT_TAG Fld.PERM_ABORT_JOB Fld.PERM_ABORT_RES_STATUS Fld.PERM_ABORT_RES_COUNT d a))

end Sys2Proof.Machine
end

