-- ==== Sys2Proof/Machine/Handoff.lean ====
section
/-!
DEFINITION. Software writes to completion counters (R48, R50) and the handoff queues (R53, R54).
-/
namespace Sys2Proof.Machine

/-- The value of a register after a plain write of an access (R10). -/
def mergeAcc (old : Word) (a : CsrAcc) : Word := (old &&& ~~~(accMask a)) ||| accValue a

/-- A write of HQ_CFG (R53): one that sets ENABLE is ignored unless BASE, LOG2_ENTRIES and COUNTER are valid. -/
def writeHqCfg (s : State) (q : Nat) (a : CsrAcc) : State :=
  let lg := s.written Fld.HQ_CFG_LOG2_ENTRIES q a
  let cn := s.written Fld.HQ_CFG_COUNTER q a
  let ok := inHostWindow (s.fld Fld.HQ_BASE_BASE q * 64) 64 && (6 ≤ lg && lg ≤ 15) && counterValid cn
  if s.written Fld.HQ_CFG_ENABLE q a = 1 ∧ !ok then s else s.plainWrite .HQ_CFG q false a

/-- A write of HQ_POST (R54): refused when it would overfill the ring; raises source 416 + q when POST changes. -/
def writeHqPost (s : State) (m q : Nat) (a : CsrAcc) : State :=
  let new := s.written Fld.HQ_POST_POST q a
  let old := s.fld Fld.HQ_POST_POST q
  let done := s.fld Fld.HQ_DONE_DONE q
  if (new + 2 ^ 32 - done) % 2 ^ 32 > 2 ^ s.fld Fld.HQ_CFG_LOG2_ENTRIES q then
    violation s 3 m (regAddr .HQ_POST q) true
  else
    let s1 := s.setFld Fld.HQ_POST_POST q new
    if new ≠ old ∧ s.flag Fld.HQ_CFG_IRQ_EN q then raiseSource s1 (416 + q) else s1

/-- A write of HQ_DONE (R54): refused when it passes POST; otherwise the count goes to the named counter. -/
def writeHqDone (s : State) (m q : Nat) (a : CsrAcc) : State :=
  let new := s.written Fld.HQ_DONE_DONE q a
  let old := s.fld Fld.HQ_DONE_DONE q
  let n := (new + 2 ^ 32 - old) % 2 ^ 32
  if n > (s.fld Fld.HQ_POST_POST q + 2 ^ 32 - old) % 2 ^ 32 then violation s 3 m (regAddr .HQ_DONE q) true
  else
    let s1 := s.setFld Fld.HQ_DONE_DONE q new
    let cn := s.fld Fld.HQ_CFG_COUNTER q
    if counterValid cn then counterAdd s1 cn n else s1

/-- HQ_CFG_WRITE (R53). -/
def execHqCfgWrite (q : Fin 32) (a : CsrAcc) (s : State) : Host.Outcome State Fault Refusal :=
  .next (onXdie s (fun s => writeHqCfg s q a))

/-- HQ_POST (R54). -/
def execHqPost (m : Master) (q : Fin 32) (a : CsrAcc) (s : State) : Host.Outcome State Fault Refusal :=
  .next (onXdie s (fun s => writeHqPost s m.toNat q a))

/-- HQ_DONE (R54). -/
def execHqDone (m : Master) (q : Fin 32) (a : CsrAcc) (s : State) : Host.Outcome State Fault Refusal :=
  .next (onXdie s (fun s => writeHqDone s m.toNat q a))

end Sys2Proof.Machine
end

