-- ==== Sys2Proof/Machine/Wire.lean ====
section
/-!
DEFINITION. The bytes of frames (R353, R356 to R358, R386, R433): headers at their offsets, checksums, check sequences. What the
spec leaves to the named standards is marked in log entry 116.
-/
namespace Sys2Proof.Machine

/-! ## Furrow and rope headers -/

/-- The 48-byte Furrow header (R358). -/
def furHeaderBytes (h : FurHdr) : List Byte :=
  leBytes 1 1 ++ leBytes 1 h.type.toNat ++ leBytes 1 (b2n h.srcEngine + 2 * b2n h.dstEngine + 4 * b2n h.retransmit)
    ++ leBytes 1 h.status.toNat ++ leBytes 2 h.src.toNat ++ leBytes 2 h.dst.toNat ++ leBytes 4 h.msg.toNat ++ leBytes 4 h.low.toNat
    ++ leBytes 4 h.total.toNat ++ leBytes 4 h.offset.toNat ++ leBytes 2 h.len.toNat ++ leBytes 1 h.job.toNat ++ leBytes 1 h.rq.toNat
    ++ leBytes 4 h.key.toNat ++ leBytes 8 h.remote.toNat ++ leBytes 8 0

/-- A Furrow header as read, reserved bits ignored (R14); none of another version (R357). -/
def furHeaderOf (b : List Byte) : Option FurHdr :=
  if b.length < 48 || leAt b 0 1 % 16 ≠ 1 then none
  else
    let fl := leAt b 2 1
    some
      { type := BitVec.ofNat 8 (leAt b 1 1), srcEngine := fl.testBit 0, dstEngine := fl.testBit 1, retransmit := fl.testBit 2,
        status := BitVec.ofNat 8 (leAt b 3 1), src := BitVec.ofNat 16 (leAt b 4 2), dst := BitVec.ofNat 16 (leAt b 6 2),
        msg := BitVec.ofNat 32 (leAt b 8 4), low := BitVec.ofNat 32 (leAt b 0xC 4), total := BitVec.ofNat 32 (leAt b 0x10 4),
        offset := BitVec.ofNat 32 (leAt b 0x14 4), len := BitVec.ofNat 16 (leAt b 0x18 2), job := BitVec.ofNat 8 (leAt b 0x1A 1),
        rq := BitVec.ofNat 8 (leAt b 0x1B 1), key := BitVec.ofNat 32 (leAt b 0x1C 4), remote := BitVec.ofNat 64 (leAt b 0x20 8) }

/-- The 48-byte header of a rope message (R433). -/
def ropeHeaderBytes (h : RopeHdr) : List Byte :=
  leBytes 1 1 ++ leBytes 1 h.type.toNat ++ leBytes 1 (b2n h.srcEngine + 2 * b2n h.dstEngine) ++ leBytes 1 0
    ++ leBytes 2 h.src.toNat ++ leBytes 2 h.dst.toNat ++ leBytes 8 h.nonce.toNat ++ leBytes 4 h.seq.toNat ++ leBytes 4 h.image.toNat
    ++ leBytes 2 h.len.toNat ++ leBytes 1 h.hop.toNat ++ leBytes 1 h.pos.toNat ++ leBytes 8 h.spec.toNat ++ leBytes 4 0
    ++ leBytes 8 0

/-! ## RoCE v2 -/

/-- The BTH opcode of a request packet (R386): RDMA WRITE First, Middle, Last and Only, and Last and Only with Immediate. -/
def roceOpcode (p : RocePkt) : Nat :=
  match p.first, p.last, p.imm.isSome with
  | true, false, _ => 0x06
  | false, false, _ => 0x07
  | false, true, false => 0x08
  | false, true, true => 0x09
  | true, true, false => 0x0A
  | true, true, true => 0x0B

/-- BTH, RETH, immediate, payload and its padding. -/
def roceBytes (p : RocePkt) : List Byte :=
  let pad := (4 - p.data.length % 4) % 4
  beBytes 1 (roceOpcode p) ++ beBytes 1 (16 * pad) ++ beBytes 2 p.pkey ++ beBytes 1 0 ++ beBytes 3 p.qpn
    ++ beBytes 1 (128 * b2n p.last) ++ beBytes 3 p.psn
    ++ (if p.first then beBytes 8 p.va ++ beBytes 4 p.rkey ++ beBytes 4 p.dmaLen else [])
    ++ (p.imm.elim [] (beBytes 4)) ++ p.data ++ List.replicate pad 0

/-! ## IP and UDP (R357) -/

/-- The one's complement sum of 16-bit words, folded. -/
def onesSum (bs : List Byte) : Nat :=
  let t := (List.range (ceilDiv bs.length 2)).foldl (fun n i =>
    n + (bs.getD (2 * i) 0).toNat * 256 + (bs.getD (2 * i + 1) 0).toNat) 0
  let f := t % 65536 + t / 65536
  f % 65536 + f / 65536

/-- Is a frame RoCE? -/
def isRoce (f : Frame) : Bool := match f.pkt with | .roce _ => true | _ => false

/-- What a frame's UDP datagram carries, without the ICRC of RoCE. -/
def udpBody (f : Frame) : List Byte :=
  match f.pkt with
  | .furrow h d => furHeaderBytes h ++ d
  | .rope h d => ropeHeaderBytes h ++ d
  | .roce p => roceBytes p
  | .segment n down => [BitVec.ofNat 8 n, if down then 1 else 0]

/-- An IP address in its field. -/
def ipField (v6 : Bool) (a : List Byte) : List Byte := sliceB a 0 (if v6 then 16 else 4)

/-- The IP header of a packet of `n` bytes above it: hop limit or TTL 64, DF, flow label 0, DSCP, ECT(0). -/
def ipHeader (f : Frame) (n : Nat) : List Byte :=
  let tc := f.dscp % 64 * 4 + 2 + b2n f.ce
  if f.v6 then
    beBytes 4 (6 * 2 ^ 28 + tc * 2 ^ 20) ++ beBytes 2 n ++ beBytes 1 17 ++ beBytes 1 64 ++ ipField true f.src ++ ipField true f.dst
  else
    let h (sum : Nat) : List Byte :=
      beBytes 1 0x45 ++ beBytes 1 tc ++ beBytes 2 (20 + n) ++ beBytes 2 0 ++ beBytes 2 0x4000 ++ beBytes 1 64 ++ beBytes 1 17
        ++ beBytes 2 sum ++ ipField false f.src ++ ipField false f.dst
    h (0xFFFF - onesSum (h 0))

/-- A UDP header. -/
def udpHeader (f : Frame) (n sum : Nat) : List Byte := beBytes 2 f.sport ++ beBytes 2 f.dport ++ beBytes 2 n ++ beBytes 2 sum

/-- The UDP checksum over the pseudo-header, the header and the body; 0 is sent as 0xFFFF. -/
def udpSum (f : Frame) (body : List Byte) : Nat :=
  let n := 8 + body.length
  let pseudo := ipField f.v6 f.src ++ ipField f.v6 f.dst ++ (if f.v6 then beBytes 4 n ++ beBytes 4 17 else beBytes 2 17 ++ beBytes 2 n)
  let c := 0xFFFF - onesSum (pseudo ++ udpHeader f n 0 ++ body)
  if c = 0 then 0xFFFF else c

/-- The ICRC of a RoCE packet: the fields that change on the way count as ones. -/
def roceIcrc (f : Frame) (body : List Byte) : List Byte :=
  let n := 8 + body.length + 4
  let ip := ipHeader f n
  let ip := if f.v6 then putAt (putAt ip 0 (beBytes 4 0x6FFFFFFF)) 7 [0xFF] else putAt (putAt (putAt ip 1 [0xFF]) 8 [0xFF]) 10 [0xFF, 0xFF]
  leBytes 4 (crc32 (List.replicate 8 0xFF ++ ip ++ udpHeader f n 0xFFFF ++ putAt body 4 [0xFF]))

/-! ## Frames -/

/-- The bytes of a frame, destination MAC through FCS. -/
def frameBytes (f : Frame) : List Byte :=
  let body := udpBody f
  let body := if isRoce f then body ++ roceIcrc f body else body
  let n := 8 + body.length
  let b := sliceB f.mac 0 6 ++ sliceB f.smac 0 6 ++ beBytes 2 (if f.v6 then 0x86DD else 0x0800) ++ ipHeader f n
    ++ udpHeader f n (if isRoce f then 0 else udpSum f body) ++ body
  b ++ leBytes 4 (crc32 b)

/-- The seven bytes before a frame under link-level replay (R353): its sequence number; the highest received in order, or, with
REPLAY_REQ, the one expected next (log entry 117); CRC-8. -/
def preambleBytes (seq expect : Nat) (ask : Bool) : List Byte :=
  let b := leBytes 2 seq ++ leBytes 2 (if ask then expect else (expect + 65535) % 65536) ++ leBytes 1 (b2n ask)
  b ++ leBytes 1 (crcOf ⟨8, 0x07, 0, false, false, 0⟩ b) ++ [0xD5]

end Sys2Proof.Machine
end

