-- ==== Sys2Proof/Machine/Sched.lean ====
section
/-!
DEFINITION. Egress scheduling, shapers and policers (R390 to R400). Elapsed XCLK cycles come with the command that
needs them.
-/
namespace Sys2Proof.Machine

/-- An egress queue's key. -/
def schedKey (x sch q : Nat) : Nat := (x * 9 + sch) * 64 + q

/-- An egress queue. -/
def schedQAt (s : State) (k : Nat) : SchedQ := Cells.get (fun _ => {}) s.schedQ k

/-- The state with an egress queue replaced. -/
def setSchedQ (s : State) (k : Nat) (q : SchedQ) : State := { s with schedQ := Cells.put (fun _ => {}) s.schedQ k q }

/-- A scheduler. -/
def schedAt (s : State) (x sch : Nat) : SchedSt := Cells.get (fun _ => {}) s.sched (x * 9 + sch)

/-- The state with a scheduler replaced. -/
def setSched (s : State) (x sch : Nat) (c : SchedSt) : State := { s with sched := Cells.put (fun _ => {}) s.sched (x * 9 + sch) c }

/-- The length L of a frame (R392). -/
def frameL (s : State) (f : Frame) : Nat :=
  if f.sched = 8 then f.len else f.len + s.fld Fld.SCHED_CFG_OVERHEAD (f.x * 9 + f.sched)

/-- The tag of a frame that becomes the head of a queue (R394). -/
def headTag (v fq l weight : Nat) : Nat := (max v fq + l * 65536 / max 1 weight) % 2 ^ 64

/-- Give the head frame of a fair-queueing queue its tag. -/
def tagHead (s : State) (x sch q : Nat) : State :=
  let k := schedKey x sch q
  let c := schedQAt s k
  match c.frames with
  | [] => s
  | f :: _ =>
    if q ≥ 60 then s
    else
      let t := headTag (schedAt s x sch).v c.fq (frameL s f) (s.fld Fld.SCHED_Q_CFG_WEIGHT k)
      setSchedQ s k { c with tag := t, fq := t }

/-- Must a frame wait behind another that waits: one of its own source, or one for the same queue (R391)? -/
def waitsBehind (f g : Frame) : Bool :=
  g.source == f.source || schedKey g.x g.sched g.queue == schedKey f.x f.sched f.queue

/-- Put a frame into its egress queue, or let it wait for room (R390, R391): a source whose frame waits sends nothing past it. -/
def emitFrame (s : State) (f : Frame) : State :=
  let k := schedKey f.x f.sched f.queue
  let c := schedQAt s k
  if c.frames.length ≥ 256 || s.egressWait.any (waitsBehind f) then
    { s with egressWait := s.egressWait ++ [f] }
  else
    let s1 := setSchedQ s k { c with frames := c.frames ++ [f] }
    if c.frames.isEmpty then tagHead s1 f.x f.sched f.queue else s1

/-- Tokens after some cycles (R397). -/
def addTokens (t : Int) (rate burst cycles : Nat) : Int :=
  if rate = 0 then t else min (t + (rate * cycles : Nat)) ((max 16384 burst * 100 : Nat) : Int)

/-- Does a shaper permit (R397)? -/
def permits (t : Int) (rate : Nat) : Bool := rate == 0 || 0 ≤ t

/-- Tokens after a frame (R397). -/
def takeTokens (t : Int) (rate l : Nat) : Int := if rate = 0 then t else t - (l * 100 : Nat)

/-- Cycles, of some that pass, in which a shaper does not permit. -/
def shapedCycles (t : Int) (rate cycles : Nat) : Nat :=
  if rate = 0 ∨ 0 ≤ t then 0 else min cycles (ceilDiv t.natAbs rate)

/-- XCLK cycles pass for a scheduler: its shapers fill, and waiting queues count the cycles shaped. -/
def schedTime (s : State) (x sch cycles : Nat) : State :=
  let pr := s.fld Fld.SCHED_PORT_SHAPE_RATE (x * 9 + sch)
  let pb := s.fld Fld.SCHED_PORT_SHAPE_BURST (x * 9 + sch)
  let c := schedAt s x sch
  let s := setSched s x sch { c with tokens := addTokens c.tokens pr pb cycles }
  (List.range 64).foldl (fun s q =>
    let k := schedKey x sch q
    let r := s.fld Fld.SCHED_Q_CFG_RATE k
    if r = 0 then s
    else
      let c := schedQAt s k
      let s := if c.frames.isEmpty then s else s.satAdd Fld.SCHED_Q_STAT_SHAPED k (shapedCycles c.tokens r cycles)
      setSchedQ s k { c with tokens := addTokens c.tokens r (s.fld Fld.SCHED_Q_CFG_BURST k) cycles }) s

/-- Is a queue eligible (R393)? `accept` says which interfaces can accept a frame. -/
def eligible (s : State) (x sch q : Nat) (accept : Nat) : Bool :=
  let k := schedKey x sch q
  let c := schedQAt s k
  match c.frames with
  | [] => false
  | f :: _ =>
    permits c.tokens (s.fld Fld.SCHED_Q_CFG_RATE k)
      && permits (schedAt s x sch).tokens (s.fld Fld.SCHED_PORT_SHAPE_RATE (x * 9 + sch)) && accept.testBit f.iface

/-- The frame at the head of a queue. -/
def headFrame (s : State) (x sch q : Nat) : Option Frame := (schedQAt s (schedKey x sch q)).frames.head?

/-- The eligible fair-queueing queue with the smallest head tag; equal tags go to the lower queue (R394). -/
def fairPick (s : State) (x sch accept : Nat) : Option Nat :=
  (List.range 60).foldl (fun (best : Option Nat) q =>
    if !eligible s x sch q accept then best
    else
      match best with
      | none => some q
      | some b => if (schedQAt s (schedKey x sch q)).tag < (schedQAt s (schedKey x sch b)).tag then some q else best) none

/-- The next queue of the rotation 60, 61, 62, 63 (R395). -/
def nextQueue (q : Nat) : Nat := if q ≥ 63 then 60 else q + 1

/-- The privileged queue that sends next, with the visits made on the way (R395). -/
def roundPick (accept x sch : Nat) : Nat → State → Option (Nat × State)
  | 0, _ => none
  | fuel + 1, s =>
    let c := schedAt s x sch
    let fits (s : State) (q : Nat) : Bool :=
      (headFrame s x sch q).elim false (fun f => frameL s f ≤ (schedQAt s (schedKey x sch q)).dq)
    if c.visiting && eligible s x sch c.cur accept && fits s c.cur then some (c.cur, s)
    else
      let q := nextQueue c.cur
      let k := schedKey x sch q
      if eligible s x sch q accept then
        let d := schedQAt s k
        let s := setSchedQ s k { d with dq := d.dq + max 16384 (s.fld Fld.SCHED_Q_CFG_WEIGHT k) }
        roundPick accept x sch fuel (setSched s x sch { c with cur := q, visiting := true })
      else roundPick accept x sch fuel (setSched s x sch { c with cur := q, visiting := false })

/-- The key of an interface. -/
def ifKey (x p i : Nat) : Nat := x * 64 + p * 8 + i

/-- An interface. -/
def portIfAt (s : State) (k : Nat) : PortIf := Cells.get (fun _ => {}) s.portIf k

/-- The state with an interface replaced. -/
def setPortIf (s : State) (k : Nat) (p : PortIf) : State := { s with portIf := Cells.put (fun _ => {}) s.portIf k p }

/-- Does an interface run link-level replay (R353)? The rope port always does. -/
def replays (s : State) (x p : Nat) : Bool := p == 7 || s.flag Fld.PORT_CFG_REPLAY (x * 8 + p)

/-- Is an interface enabled (R354)? In M2 the field ports keep only interface 0 (R477). -/
def ifEnabled (s : State) (x p i : Nat) : Bool :=
  (s.fld Fld.PORT_CFG_ENABLE (x * 8 + p)).testBit i && !(s.fld Fld.PWR_STATUS_STATE 0 == 2 && p != 7 && i != 0)

/-- The frames of a retry buffer of 512 KiB: the oldest leave first (R353). -/
def trimRetry : List (Nat × Frame) → List (Nat × Frame)
  | [] => []
  | e :: r => if ((e :: r).foldl (fun n e => n + e.2.len) 0) > 524288 then trimRetry r else e :: r

/-- The MAC address of an interface (`PORT_MAC`): that of interface 0 plus its number, first octet first. -/
def ifMac (s : State) (x p i : Nat) : List Byte := beBytes 6 (s.fld Fld.PORT_MAC_MAC (x * 8 + p) + i)

/-- A frame with number `seq` as an interface that runs replay sends it (R353): what it has received stands before it. -/
def withPreamble (p : PortIf) (seq : Nat) (f : Frame) : Frame := { f with pre := preambleBytes seq p.rxExpect p.discarding }

/-- A Furrow engine's state. -/
def furAt (s : State) (x : Nat) : FurSt := Cells.get (fun _ => {}) s.fur x

/-- The state with a Furrow engine's state replaced. -/
def setFur (s : State) (x : Nat) (f : FurSt) : State := { s with fur := Cells.put (fun _ => {}) s.fur x f }

/-- The egress queue of ACK and SYNC (R390). -/
def ackQueue (s : State) (x sched : Nat) : Nat := min 59 (s.fld Fld.SCHED_CFG_ACK_QUEUE (x * 9 + sched))

/-- The key under which crossing frames of an X-die wait (R391). -/
def crossSource (x : Nat) : Nat := 30000 + x

/-- A frame of the fabric path to the engine itself reaches the engine's receive side (R367). -/
def putLocal (s : State) (f : Frame) : State :=
  match f.pkt with
  | .furrow h d => setFur s f.x { furAt s f.x with fabric := (furAt s f.x).fabric ++ [(h, d)] }
  | _ => s

/-- A frame leaves: on the fabric path, from where a crossing frame goes to the rope port of the other X-die (R436), in that
scheduler's own queue if it is an ACK or SYNC (R390), or on its interface if that is enabled; with replay it is kept (R353, R354). -/
def sendFrame (s : State) (f : Frame) : State :=
  if f.sched = 8 then
    if f.cross then
      emitFrame s { f with x := 1 - f.x, sched := 7, cross := false, source := crossSource f.x,
                           queue := if f.ackQ then ackQueue s (1 - f.x) 7 else f.queue }
    else putLocal s f
  else if !ifEnabled s f.x f.sched f.iface then s
  else
    let k := ifKey f.x f.sched f.iface
    let p := portIfAt s k
    let f := { f with smac := ifMac s f.x f.sched f.iface }
    if replays s f.x f.sched then
      let s := setPortIf s k { p with txSeq := (p.txSeq + 1) % 65536, retry := trimRetry (p.retry ++ [(p.txSeq, f)]) }
      { s with wire := s.wire ++ [withPreamble p p.txSeq f] }
    else { s with wire := s.wire ++ [f] }

/-- Serve the head of a queue (R394, R395, R397). -/
def serveQueue (s : State) (x sch q : Nat) : State :=
  let k := schedKey x sch q
  let c := schedQAt s k
  match c.frames with
  | [] => s
  | f :: r =>
    let l := frameL s f
    let d := schedAt s x sch
    let pr := s.fld Fld.SCHED_PORT_SHAPE_RATE (x * 9 + sch)
    let qr := s.fld Fld.SCHED_Q_CFG_RATE k
    let (pt, qt) := (takeTokens d.tokens pr l, takeTokens c.tokens qr l)
    let goes := d.visiting && !(d.cur == q && (r.isEmpty || !permits qt qr || !permits pt pr))
    let s := setSched s x sch { d with tokens := pt, v := if q < 60 then c.tag else d.v, visiting := goes }
    let dq := if q < 60 ∨ r.isEmpty then 0 else c.dq - l
    let s := setSchedQ s k { c with frames := r, dq := dq, tokens := qt }
    sendFrame (tagHead s x sch q) f

/-- A visit ends when its queue is not eligible (R395). -/
def endVisit (s : State) (x sch accept : Nat) : State :=
  let c := schedAt s x sch
  if c.visiting && !eligible s x sch c.cur accept then setSched s x sch { c with visiting := false } else s

/-- The queue that sends next, if one is eligible (R393). -/
def chooseQueue (s : State) (x sch accept : Nat) : Option Nat × State :=
  let s := endVisit s x sch accept
  if [60, 61, 62, 63].any (fun q => eligible s x sch q accept) then
    match roundPick accept x sch 6 s with
    | some (q, s) => (some q, s)
    | none => (none, s)
  else (fairPick s x sch accept, s)

/-- Choose and send one frame (R393). -/
def selectFrame (s : State) (x sch accept : Nat) : State :=
  match chooseQueue s x sch accept with
  | (some q, s) => serveQueue s x sch q
  | (none, s) => s

/-- A write of SCHED_Q_CFG (R398, R399): a new rate or burst empties the bucket, from which the `l` bytes are taken of a frame of
the queue that was chosen in the cycle of the write. -/
def writeSchedQ (s : State) (m x sch q : Nat) (a : CsrAcc) (l : Nat := 0) : State :=
  let k := schedKey x sch q
  if q ≥ 60 ∧ !isCoreMaster m then violation s 1 m (regAddr .SCHED_Q_CFG k) true
  else
    let old := (s.fld Fld.SCHED_Q_CFG_RATE k, s.fld Fld.SCHED_Q_CFG_BURST k)
    let s := s.plainWrite .SCHED_Q_CFG k false a
    if old = (s.fld Fld.SCHED_Q_CFG_RATE k, s.fld Fld.SCHED_Q_CFG_BURST k) then s
    else setSchedQ s k { schedQAt s k with tokens := takeTokens 0 (s.fld Fld.SCHED_Q_CFG_RATE k) l }

/-- A write of SCHED_PORT_SHAPE (R398), `l` as in `writeSchedQ`. -/
def writePortShape (s : State) (x sch : Nat) (a : CsrAcc) (l : Nat := 0) : State :=
  let i := x * 9 + sch
  let old := s.rd .SCHED_PORT_SHAPE i
  let s := s.plainWrite .SCHED_PORT_SHAPE i false a
  if old = s.rd .SCHED_PORT_SHAPE i then s
  else setSched s x sch { schedAt s x sch with tokens := takeTokens 0 (s.fld Fld.SCHED_PORT_SHAPE_RATE i) l }

/-- A policer's key. -/
def polKey (x p c : Nat) : Nat := (x * 8 + p) * 8 + c

/-- A policer register's copy: its scheduler's copies come in the register's own count. -/
def polCopy (x sch c : Nat) : Nat := (x * 9 + sch) * 8 + c

/-- A write of POL_CFG (R400, R398); on scheduler 8 the register does not exist. -/
def writePolicer (s : State) (x sch c : Nat) (a : CsrAcc) : State :=
  if sch = 8 then s
  else
    let i := polCopy x sch c
    let old := s.rd .POL_CFG i
    let s := s.plainWrite .POL_CFG i false a
    if old = s.rd .POL_CFG i then s else { s with polTokens := Cells.put (fun _ => 0) s.polTokens (polKey x sch c) 0 }

/-- XCLK cycles pass for the policers of a port (R400). -/
def policeTime (s : State) (x p cycles : Nat) : State :=
  if p ≥ 8 then s
  else
    (List.range 8).foldl (fun s c =>
      let i := polCopy x p c
      let t := addTokens (Cells.get (fun _ => 0) s.polTokens (polKey x p c)) (s.fld Fld.POL_CFG_RATE i) (s.fld Fld.POL_CFG_BURST i) cycles
      { s with polTokens := Cells.put (fun _ => 0) s.polTokens (polKey x p c) t }) s

/-- The ingress policer (R400): whether the frame passes. -/
def police (s : State) (x p dscp len : Nat) (ip : Bool) : Bool × State :=
  if p ≥ 8 then (true, s)
  else
    let cls := if ip then field (s.rd .POL_MAP (polCopy x p (dscp / 8))) (4 * (dscp % 8)) 3 else 0
    let i := polCopy x p cls
    let r := s.fld Fld.POL_CFG_RATE i
    let t := Cells.get (fun _ => (0 : Int)) s.polTokens (polKey x p cls)
    if permits t r then
      let l := len + s.fld Fld.SCHED_CFG_OVERHEAD (x * 9 + p)
      (true, { s with polTokens := Cells.put (fun _ => 0) s.polTokens (polKey x p cls) (takeTokens t r l) })
    else (false, s.satAdd Fld.POL_DROP_FRAMES i 1)

/-- The first waiting frame of an X-die whose queue has room and that waits behind no other (R391), and the frames that wait
without it; `before` are the frames before it. -/
def nextWaiting (s : State) (x : Nat) : List Frame → List Frame → Option (Frame × List Frame)
  | _, [] => none
  | before, f :: r =>
    if f.x == x && (schedQAt s (schedKey f.x f.sched f.queue)).frames.length < 256 && !before.any (waitsBehind f) then
      some (f, before ++ r)
    else nextWaiting s x (before ++ [f]) r

/-- EGRESS_ENQUEUE (R391): the first waiting frame that may enters its queue. -/
def execEgressEnqueue (x : XDie) (s : State) : Host.Outcome State Fault Refusal :=
  match nextWaiting s x [] s.egressWait with
  | none => .next s
  | some (f, rest) =>
    let k := schedKey f.x f.sched f.queue
    let c := schedQAt s k
    let s1 := setSchedQ { s with egressWait := rest } k { c with frames := c.frames ++ [f] }
    .next (if c.frames.isEmpty then tagHead s1 f.x f.sched f.queue else s1)

/-- The frame chosen in the cycle of a write goes out, under the configuration before it (R398): its queue, its length L, and the
state after it. -/
def chosenFrame (s : State) (x sch : Nat) (accept : Option (BitVec 8)) : Option (Nat × Nat) × State :=
  match accept with
  | none => (none, s)
  | some acc =>
    match chooseQueue s x sch acc.toNat with
    | (some q, s) => ((headFrame s x sch q).map (fun f => (q, frameL s f)), serveQueue s x sch q)
    | (none, s) => (none, s)

/-- SHAPER_WRITE (R398): `cycles` XCLK cycles have passed since the scheduler's last selection, or the port's last frame; with
`accept` a frame is chosen in the cycle of the write. -/
def shaperWrite (s : State) (m x sch : Nat) (w : ShaperAt) (a : CsrAcc) : State :=
  match w.target with
  | .port =>
    let (c, s) := chosenFrame (schedTime s x sch w.cycles.toNat) x sch w.accept
    writePortShape s x sch a (c.elim 0 Prod.snd)
  | .queue q =>
    let (c, s) := chosenFrame (schedTime s x sch w.cycles.toNat) x sch w.accept
    writeSchedQ s m x sch q a (c.elim 0 (fun e => if e.1 = q.val then e.2 else 0))
  | .policer c => writePolicer (policeTime s x sch w.cycles.toNat) x sch c a

/-- SHAPER_WRITE (R398, R400). -/
def execShaperWrite (m : Master) (x : XDie) (sch : Fin 9) (w : ShaperAt) (a : CsrAcc) (s : State) : Host.Outcome State Fault Refusal :=
  .next (onXdie s (fun s => shaperWrite s m.toNat x sch w a))

/-- SCHED_Q_CFG_WRITE (R399). -/
def execSchedQCfgWrite (m : Master) (x : XDie) (sch : Fin 9) (q : Fin 64) (a : CsrAcc) (s : State) :
    Host.Outcome State Fault Refusal :=
  .next (onXdie s (fun s => writeSchedQ s m.toNat x sch q a))

end Sys2Proof.Machine
end

