-- ==== Sys2Proof/Machine/Wake.lean ====
section
/-!
DEFINITION. Readiness (R467, R478), aborted entries and wake events (R483, R484, R487, R489).
-/
namespace Sys2Proof.Machine

/-- The power state. -/
def pwrState (s : State) : Nat := s.fld Fld.PWR_STATUS_STATE 0

/-- PHASE: 0 none, 1 DRAIN, 2 CUT, 3 EXIT. -/
def pwrPhase (s : State) : Nat := s.fld Fld.PWR_STATUS_PHASE 0

/-- The module is Ready as `BRINGUP_STEP.READY` shows it (R467). -/
def readyBit (s : State) : Bool := s.flag Fld.BRINGUP_STEP_READY 0

/-- This module's ID. -/
def moduleId (s : State) : Nat := s.fld Fld.ROPE_STATUS_MODULE_ID 0

/-- The Furrow and RoCE endpoints treat the module as Ready (R467, R478). -/
def moduleReady (s : State) : Bool :=
  readyBit s && pwrState s < 2 && !(2 ≤ s.pwr.target && (pwrPhase s == 1 || pwrPhase s == 2))

/-- SERVICE (R489). -/
def inService (s : State) : Bool :=
  s.everReady && (s.fld Fld.ANCHOR_LC_CURRENT 0 == 1 || s.fld Fld.ANCHOR_LC_CURRENT 0 == 2) && !s.anchor.recovery

/-- Does a wake event of a cause wake the module from a state (R487)? Causes as `WAKE_CAUSE`. -/
def wakesFrom (s : State) (cause st : Nat) : Bool :=
  match cause with
  | 1 => st == 1 || st == 2
  | 2 => 1 ≤ st && st ≤ 3
  | 3 => st == 2 && s.flag Fld.PWR_WAKE_FURROW 0
  | 4 => st == 2 && s.flag Fld.PWR_WAKE_FRAME 0
  | 5 => (st == 2 || st == 3) && !inService s
  | _ => false

/-- Abort an entry in DRAIN (R483). -/
def abortEntry (s : State) (aborter : Nat) : State :=
  let t := s.pwr.target
  let s := s.satAdd Fld.PWR_REFUSE_ABORTED 0 1
  let s := ((s.setFld Fld.PWR_REFUSE_LAST_ID 0 aborter).setFld Fld.PWR_REFUSE_LAST_TARGET 0 t).setFld Fld.PWR_REFUSE_LAST_CHECK 0 0
  let s := s.setFld Fld.PWR_REFUSE_LAST_KIND 0 1
  raiseSource { s with pwr := { s.pwr with aborting := true } } 9

/-- Start an exit (R486, R487): the wake event's cause and port are recorded. -/
def startExit (s : State) (cause port : Nat) : State :=
  let s := (s.setFld Fld.PWR_STATUS_WAKE_CAUSE 0 cause).setFld Fld.PWR_STATUS_WAKE_PORT 0 port
  let s := (s.setFld Fld.PWR_STATUS_BUSY 0 1).setFld Fld.PWR_STATUS_PHASE 0 3
  { s with pwr := { s.pwr with target := 0, exitFrom := pwrState s } }

/-- A wake event (R483, R484, R487): `aborter` is what LAST_ID would hold. -/
def wakeEvent (s : State) (cause port aborter : Nat) : State :=
  match pwrPhase s with
  | 0 => if wakesFrom s cause (pwrState s) then startExit s cause port else s
  | 1 => if wakesFrom s cause s.pwr.target && !s.pwr.aborting then abortEntry s aborter else s
  | 2 =>
    if wakesFrom s cause s.pwr.target && s.pwr.held.isNone then { s with pwr := { s.pwr with held := some (cause, port) } } else s
  | _ => s

/-- The port number of `WAKE_PORT`: 0 to 13 field, 14 east, 15 west. -/
def wakePort (x p : Nat) : Nat := if p = 7 then 14 + x else 7 * x + p

end Sys2Proof.Machine
end

