-- ==== Sys2Proof/Machine/Roce.lean ====
section
/-!
DEFINITION. Furrow events (R385) and the RoCE v2 engine (R386 to R389): queue pairs, groups, requests and responses.
-/
namespace Sys2Proof.Machine

/-! ## Events (R385) -/

/-- The 32 bytes of an event. -/
def eventBytes (type x port iface status peer key seq : Nat) : List Byte :=
  leBytes 2 type ++ leBytes 1 x ++ leBytes 1 port ++ leBytes 1 iface ++ leBytes 1 status ++ leBytes 2 peer ++ leBytes 4 key
    ++ leBytes 4 seq ++ leBytes 16 0

/-- The ring slot of the next event. -/
def eventSlot (s : State) (x : Nat) : Nat :=
  s.fld Fld.FUR_EVQ_BASE x * 2048 + s.fld Fld.FUR_EVQ_PTR_PROD x % 2 ^ s.fld Fld.FUR_EVQ_LOG2 x * 32

/-- The events of an X-die's ring that wait for the host. -/
def heldEvents (s : State) (x : Nat) : Nat :=
  (s.heldPuts.filter (fun h => match h with
    | .event y _ => y == x
    | _ => false)).length

/-- Write an event into the ring, behind those that wait for the host, and advance PROD (R385, R410). -/
def putEvent (s : State) (x : Nat) (bs : List Byte) : State :=
  if heldEvents s x ≠ 0 then { s with heldPuts := s.heldPuts ++ [.event x bs] }
  else
    match prepare s (0x390 + x) [] [(eventSlot s x, 32)] with
    | .stall s => { s with heldPuts := s.heldPuts ++ [.event x bs] }
    | .go => relevel ((memPut s (0x390 + x) (eventSlot s x) bs).modAdd Fld.FUR_EVQ_PTR_PROD x 1) (384 + 64 * x)

/-- Post an event, or lose it (R385). -/
def postEvent (s : State) (x type port iface status peer key : Nat) : State :=
  let f := furAt s x
  let s := setFur s x { f with evSeq := (f.evSeq + 1) % 2 ^ 32 }
  let lg := s.fld Fld.FUR_EVQ_LOG2 x
  let used := (s.fld Fld.FUR_EVQ_PTR_PROD x + 2 ^ 32 - s.fld Fld.FUR_EVQ_PTR_CONS x) % 2 ^ 32 + heldEvents s x
  if lg < 6 ∨ 16 < lg ∨ used ≥ 2 ^ lg then s.satAdd Fld.FUR_EVQ_LOST x 1
  else putEvent s x (eventBytes type x port iface status peer key f.evSeq)

/-! ## Address table (R356) -/

/-- Address of the interface entry of a port's interface. -/
def ifEntryAddr (s : State) (x p i : Nat) : Nat := s.fld Fld.FUR_ADDR_BASE_BASE x * 4096 + 16 * (8 * p + i)

/-- Address of a module's entry. -/
def modEntryAddr (s : State) (x id : Nat) : Nat := s.fld Fld.FUR_ADDR_BASE_BASE x * 4096 + 1024 + 64 * id

/-- The IP address that a module entry gives one of its engines. -/
def entryIp (e : List Byte) (engine : Bool) : List Byte :=
  sliceB e (if engine then 0x20 else 0x10) (if (leAt e 0 1).testBit 1 then 16 else 4)

/-! ## Queue pairs (R387, R388) -/

/-- A queue pair's key. -/
def qpKey (x i : Nat) : Nat := x * 2048 + i

/-- A queue pair. -/
def qpAt (s : State) (x i : Nat) : Qp := Cells.get (fun _ => {}) s.qps (qpKey x i)

/-- The state with a queue pair replaced. -/
def setQp (s : State) (x i : Nat) (q : Qp) : State := { s with qps := Cells.put (fun _ => {}) s.qps (qpKey x i) q }

/-- Address of a queue pair's context. -/
def qpCtxAddr (s : State) (x i : Nat) : Nat := s.fld Fld.ROCE_QPC_BASE_BASE x * 4096 + i * 128

/-- The fields of a context that R387 bounds. -/
def qpCtxOk (c : List Byte) : Bool :=
  let mtu := leAt c 0x1A 1
  let t := leAt c 0x1C 1
  (3 ≤ mtu && mtu ≤ 5) && (1 ≤ t && t ≤ 31) && leAt c 0x1D 1 % 8 ≤ 6 && leAt c 0x1E 1 % 64 ≤ 59

/-- The local port of a context. -/
def qpPort (c : List Byte) : Nat := leAt c 0x1D 1 % 8

/-- The interface of a context. -/
def qpIface (c : List Byte) : Nat := bits (leAt c 0x1D 1) 3 3

/-- Path MTU in bytes. -/
def qpMtu (c : List Byte) : Nat := 2 ^ (leAt c 0x1A 1 + 7)

/-- The retry counts at their configured values. -/
def qpFreshCounts (q : Qp) : Qp := { q with retry := leAt q.ctx 0x1B 1 % 8, rnr := bits (leAt q.ctx 0x1B 1) 3 3 }

/-- The result of the last queue-pair command. -/
def qpResult (s : State) (x : Nat) (refused : Bool) : State := s.setFld Fld.ROCE_QP_CMD_RESULT x (b2n refused)

/-- ACTIVATE (R387): while its reads wait for the host nothing else happens. -/
def qpActivate (s : State) (x i : Nat) : State :=
  let m := 0x392 + x
  let a := qpCtxAddr s x i
  match prepare s m [(a, 128)] [] with
  | .stall s => s
  | .go =>
    let r := memRead s m 3 a 128
    let e := ifEntryAddr s x (qpPort r.data) (qpIface r.data)
    let own := modEntryAddr s x (moduleId s)
    match prepare s m [(e, 16), (own, 64)] [] with
    | .stall s => s
    | .go =>
      let q := memRead r.st m 3 e 16
      let o := memRead q.st m 3 own 64
      if (qpAt s x i).st ≠ 0 ∨ xUnitFailed s x 2 ∨ r.bad ∨ q.bad ∨ !qpCtxOk r.data ∨ leAt q.data 6 1 % 2 = 0 then
        qpResult q.st x true
      else
        let psn := leAt r.data 4 4 % 2 ^ 24
        let v6 := leAt r.data 0x18 1 % 2 = 1
        let qp : Qp := { st := 1, ctx := r.data, mac := q.data.take 6, src := sliceB o.data (if x = 1 then 0x20 else 0x10) (if v6 then 16 else 4),
                         psn := psn, una := psn, rate := s.fld Fld.FUR_RATE_START x }
        qpResult (setQp o.st x i (qpFreshCounts qp)) x false

/-! ## Baler jobs and their writes -/

/-- A baler job stops with a status: it issues no further writes (R252, R253). -/
def stopBale (s : State) (d seq status : Nat) : State :=
  match balerJob s d seq with
  | none => s
  | some k =>
    let eng := mapIssued s d k
    let s := updateJob s (.baler d) seq (fun j => { j with phase := .ended, status := status, xfer := 0, eng := eng })
    { s with outbox := s.outbox.filter (fun w => ¬(w.die = d ∧ w.seq = seq)) }

/-- Bytes that a baler's consumers have acknowledged (R257): `BALER_SLOTS.BYTES` counts them in units of 64 KiB. -/
def countAcked (s : State) (d n : Nat) : State :=
  let old := Cells.get (fun _ => 0) s.baleBytes d
  let s := { s with baleBytes := Cells.put (fun _ => 0) s.baleBytes d ((old + n) % 2 ^ 48) }
  s.modAdd Fld.BALER_SLOTS_BYTES d ((old % 65536 + n) / 65536)

/-- The consumer has acknowledged one write of a job; the last one ends the job. -/
def ackBale (s : State) (d seq : Nat) : State :=
  updateJob s (.baler d) seq (fun j =>
    if j.phase ≠ .running then j
    else
      let n := j.aux.headD 0 - 1
      { j with aux := [n], phase := if n = 0 then .ended else .running })

/-- The key under which a queue pair's frames wait (R391). -/
def qpSource (x i : Nat) : Nat := 2000 + qpKey x i

/-- What a source has waiting for room in an egress queue is sent no more. -/
def dropWaiting (s : State) (source : Nat) : State :=
  { s with egressWait := s.egressWait.filter (fun f => f.source ≠ source) }

/-- A queue pair enters ERROR (R388): its pending writes fail, all with the status of the cause (the model's choice: R252 gives no
other for the writes behind the one that failed; log entry 126), and QP_ERROR is posted. -/
def qpError (s : State) (x i status : Nat) (post : Bool) : State :=
  let q := qpAt s x i
  let s := dropWaiting s (qpSource x i)
  let s := setQp s x i { q with st := 2, err := status, reqs := [], rnrWait := false }
  let s := q.reqs.foldl (fun s r => stopBale s r.die r.seq status) s
  if post then postEvent s x 0x20 0xFF 0xFF status 0 i else s

/-- QP_RESET (R387): from any state; writes still pending end with DELIVERY_FAILED. -/
def qpReset (s : State) (x i : Nat) : State :=
  let q := qpAt s x i
  let s := setQp (dropWaiting s (qpSource x i)) x i {}
  qpResult (q.reqs.foldl (fun s r => stopBale s r.die r.seq 0x82) s) x false

/-- The RoCE engine of an X-die fails (R389). -/
def roceFail (s : State) (x : Nat) : State :=
  postEvent ((List.range 2048).foldl (fun s i => qpError s x i 0x10 false) s) x 0x20 0xFF 0xFF 0x10 0 0xFFFFFFFF

/-! ## Requests (R386, R388) -/

/-- Messages in flight on an X-die: Furrow messages that have started and not ended and RoCE writes (R377). -/
def inFlight (s : State) (x : Nat) : Nat :=
  ((furAt s x).msgs.filter (fun m => !m.resp && !m.unsent)).length + (s.qps.filter (fun e => e.1 / 2048 = x)).foldl (fun n e => n + e.2.reqs.length) 0

/-- Packets of a request. -/
def roceCount (q : Qp) (data : List Byte) : Nat := max 1 (ceilDiv data.length (qpMtu q.ctx))

/-- Packet `k` of a request. -/
def rocePkt (q : Qp) (r : RoceReq) (k : Nat) : RocePkt :=
  let m := qpMtu q.ctx
  let last := k + 1 = r.count
  { first := k = 0, last := last, psn := (r.psn + k) % 2 ^ 24, qpn := leAt q.ctx 0 4 % 2 ^ 24, va := r.va, rkey := r.rkey,
    dmaLen := r.data.length, imm := if last then r.imm else none, data := (r.data.drop (k * m)).take m,
    pkey := leAt q.ctx 0x22 2 }

/-- The frame of a RoCE packet: Ethernet, IP, UDP, BTH, RETH of a first packet, immediate, padded payload, ICRC, FCS. -/
def roceFrame (x i : Nat) (q : Qp) (p : RocePkt) : Frame :=
  let v6 := leAt q.ctx 0x18 1 % 2 = 1
  { x := x, sched := qpPort q.ctx, iface := qpIface q.ctx, queue := leAt q.ctx 0x1E 1 % 64,
    len := 14 + (if v6 then 40 else 20) + 8 + 12 + (if p.first then 16 else 0) + (if p.imm.isSome then 4 else 0)
      + ceilDiv p.data.length 4 * 4 + 4 + 4,
    v6 := v6, mac := q.mac, dst := sliceB q.ctx 8 (if v6 then 16 else 4), sport := leAt q.ctx 0x20 2,
    dscp := leAt q.ctx 0x19 1 % 64, pkt := .roce p, src := q.src, dport := 4791, source := qpSource x i }

/-- Send the packets of a request from packet `k` on. -/
def sendReq (s : State) (x i : Nat) (q : Qp) (r : RoceReq) (k : Nat) : State :=
  ((List.range r.count).drop k).foldl (fun s k => emitFrame s (roceFrame x i q (rocePkt q r k))) s

/-- Address of a group's entry in the group table. -/
def groupAddr (s : State) (g : Nat) : Nat := s.fld Fld.ROCE_GROUP_BASE_BASE 0 * 4096 + g % 4096 * 4

/-- The group table entry of a group: its value, 0 where the read meets a poisoned line (R388). -/
def groupEntry (s : State) (g : Nat) : Nat × State :=
  let r := memRead s 0x392 3 (groupAddr s g) 4
  (if r.bad then 0 else leNat r.data, r.st)

/-- Send one write of a baler job, or stop the job, or leave the write for later while the limit of R377 is reached or the group
table waits for the host: the first component says that it stays. -/
def issueWrite (s : State) (w : BaleWrite) : Bool × State :=
  match balerJob s w.die w.seq with
  | none => (false, s)
  | some j =>
    if !moduleReady s then (false, stopBale s w.die w.seq 0x0D)
    else match prepare s 0x392 [(groupAddr s w.group, 4)] [] with
    | .stall s => (true, s)
    | .go =>
      let (e, s) := groupEntry s w.group
      let x := bits e 11 1
      let i := e % 2048
      if e / 2 ^ 31 ≠ 1 then (false, stopBale s w.die w.seq 0x82)
      else if xUnitFailed s x 2 then (false, stopBale s w.die w.seq 0x10)
      else
        let q := qpAt s x i
        if q.st ≠ 1 then (false, stopBale s w.die w.seq 0x82)
        else if inFlight s x ≥ 4096 then (true, s)
        else
          let r : RoceReq := { die := w.die, seq := w.seq, psn := q.psn, count := roceCount q w.data, va := w.va, rkey := w.rkey,
                               data := w.data, imm := w.imm }
          let s := setQp s x i { q with psn := (q.psn + r.count) % 2 ^ 24, reqs := q.reqs ++ [r] }
          let s := noteUse (sendReq s x i q r 0) j.jobId (roceUse x)
          (false, updateJob s (.baler w.die) w.seq (fun j => { j with eng := putAt j.eng 0 (leBytes 4 (leAt j.eng 0 4 + 1)) }))

/-- Send every waiting write that may go, in order. -/
def pumpBales (s : State) : State :=
  let ws := s.outbox
  let (kept, s) := ws.foldl (fun (acc : List BaleWrite × State) w =>
    let (stays, t) := issueWrite acc.2 w
    (if stays then acc.1 ++ [w] else acc.1, t)) ([], { s with outbox := [] })
  { s with outbox := kept.filter (fun w => (balerJob s w.die w.seq).isSome) }

/-! ## Responses (R388) -/

/-- Resend everything not acknowledged, from the oldest PSN (go-back-N). While the module is not Ready no request is sent: their
jobs end with NOT_READY (R252, R388). -/
def goBackN (s : State) (x i : Nat) : State :=
  let q := qpAt s x i
  if !moduleReady s then q.reqs.foldl (fun s r => stopBale s r.die r.seq 0x0D) s
  else q.reqs.foldl (fun s r =>
    let k := if (q.una + 2 ^ 24 - r.psn) % 2 ^ 24 < r.count then (q.una + 2 ^ 24 - r.psn) % 2 ^ 24 else 0
    (sendReq s x i q r k).satAdd Fld.ROCE_CNT_RETRANSMIT x (r.count - k)) s

/-- A sequence error NAK or an ack timeout spends one retry, or moves the queue pair to ERROR. -/
def spendRetry (s : State) (x i : Nat) : State :=
  let q := qpAt s x i
  if q.st ≠ 1 then s
  else if q.retry = 0 then qpError s x i 0x82 true
  else goBackN (setQp s x i { q with retry := q.retry - 1 }) x i

/-- An acknowledgement of every PSN up to `psn`. -/
def roceAck (s : State) (x i psn : Nat) : State :=
  let q := qpAt s x i
  let d := (psn + 2 ^ 24 - q.una) % 2 ^ 24
  if q.st ≠ 1 ∨ d ≥ (q.psn + 2 ^ 24 - q.una) % 2 ^ 24 then s
  else
    let isDone (r : RoceReq) : Bool := (r.psn + r.count + 2 ^ 24 - q.una) % 2 ^ 24 ≤ d + 1
    let s := setQp s x i (qpFreshCounts { q with una := (psn + 1) % 2 ^ 24, reqs := q.reqs.filter (fun r => !isDone r) })
    pumpBales ((q.reqs.filter isDone).foldl (fun s r => ackBale (countAcked s r.die r.data.length) r.die r.seq) s)

/-- The pacing rate after a decrease (R383). -/
def rateDown (s : State) (x r : Nat) : Nat :=
  max (s.fld Fld.FUR_RATE_MIN x) (r - r * s.fld Fld.FUR_RATE_DEC x / 256)

/-- An RNR NAK: the requests wait for the timer, or the queue pair enters ERROR; 7 is unlimited (R387). -/
def roceRnr (s : State) (x i : Nat) : State :=
  let q := qpAt s x i
  let unlimited := bits (leAt q.ctx 0x1B 1) 3 3 = 7
  if q.st ≠ 1 then s
  else if q.rnr = 0 ∧ !unlimited then qpError s x i 0x82 true
  else setQp s x i { q with rnr := if unlimited then q.rnr else q.rnr - 1, rnrWait := true }

/-- A CNP: `cycles` XCLK cycles since the last decrease (R383). -/
def roceCnp (s : State) (x i cycles : Nat) : State :=
  let q := qpAt s x i
  if cycles < s.fld Fld.FUR_RATE_GAP_DEC_GAP x ∨ q.st ≠ 1 then s else setQp s x i { q with rate := rateDown s x q.rate }

/-- ACTIVATE (R387). -/
def execQpActivate (x : XDie) (i : Fin 2048) (s : State) : Host.Outcome State Fault Refusal := .next (qpActivate s x i)

end Sys2Proof.Machine
end

