-- ==== Sys2Proof/Machine/Shaper.lean ====
section
/-!
DEFINITION. The frame shaper (R201 to R206): crop origin, resize filters, flip, rotation and output depth, in exact
integer arithmetic.
-/
namespace Sys2Proof.Machine

/-- The crop origin along one axis (R201). -/
def cropOrigin (lo steps u : Nat) : Nat := lo + 2 * ((u * steps) >>> 32)

/-- The step of a resize (R202). -/
def resizeStep (w wo : Nat) : Nat := ((w <<< 16) + (wo >>> 1)) / wo

/-- Position, integer column and phase of output sample `i` (R202). -/
def resizePos (w wo i : Nat) : Int × Nat :=
  let step : Int := resizeStep w wo
  let pos : Int := i * step + step / 2 - 32768
  let I := pos / 65536
  let phase := ((pos % 65536).toNat + 512) / 1024
  if phase = 64 then (I + 1, 0) else (I, phase)

/-- `n / d` rounded to nearest, halves toward zero (R204). -/
def divHalfZero (n d : Int) : Int :=
  let a := n.natAbs
  let b := d.natAbs
  let q : Int := if 2 * (a % b) > b then a / b + 1 else a / b
  if (n < 0) = (d < 0) then q else -q

/-- The six nodes of R204. -/
def sixNodes : List Int := [-2, -1, 0, 1, 2, 3]

/-- The unadjusted coefficient of node `k` (R204). -/
def lagrange (phase : Nat) (k : Int) : Int :=
  let others := sixNodes.filter (fun j => j ≠ k)
  let n := others.foldl (fun a j => a * ((phase : Int) - 64 * j)) 1
  let d := others.foldl (fun a j => a * (k - j)) 16777216
  divHalfZero n d

/-- The six coefficients of a phase, quantised to sum 64 (R204). -/
def sixTap (phase : Nat) : List (Int × Int) :=
  let c := sixNodes.map (lagrange phase)
  let d := 64 - c.foldl (· + ·) 0
  (sixNodes.zip c).map (fun e =>
    if e.1 = (if phase < 32 then 0 else 1) then (e.1, e.2 + d) else e)

/-- The taps of a filter at a phase: offset and coefficient (R203). -/
def filterTaps (filter phase : Nat) : List (Int × Int) :=
  if filter = 1 then [(0, 64 - (phase : Int)), (1, (phase : Int))] else sixTap phase

/-- `x` within `0 .. n - 1`. -/
def clampTo (n : Nat) (x : Int) : Nat := (min (max x 0) ((n : Int) - 1)).toNat

/-- One output sample of the resize of a `w` × `h` crop `f` to `wo` × `ho` (R202, R203). -/
def resizeSample (filter bd w h wo ho : Nat) (f : Nat → Nat → Nat) (i j : Nat) : Nat :=
  if filter = 0 then f i j
  else
    let (I, px) := resizePos w wo i
    let (J, py) := resizePos h ho j
    let hrow (r : Nat) : Int := (filterTaps filter px).foldl (fun a e => a + e.2 * (f (clampTo w (I + e.1)) r : Int)) 0
    let o := ((filterTaps filter py).foldl (fun a e => a + e.2 * hrow (clampTo h (J + e.1))) 0 + 2048) / 4096
    clampTo (2 ^ bd) o

/-- Flip then rotation of a `wp` × `hp` plane (R205). -/
def flipRotate (wp hp : Nat) (hf vf : Bool) (rot : Nat) (r : Nat → Nat → Nat) (x y : Nat) : Nat :=
  let f (x y : Nat) : Nat := r (if hf then wp - 1 - x else x) (if vf then hp - 1 - y else y)
  match rot with
  | 0 => f x y
  | 1 => f y (hp - 1 - x)
  | 2 => f (wp - 1 - x) (hp - 1 - y)
  | _ => f (wp - 1 - y) x

/-- An output sample in its container (R206). -/
def depthBytes (wide : Bool) (bd v : Nat) : List Byte :=
  if wide then leBytes 2 v
  else if bd > 8 then leBytes 1 (min 255 ((v + 2 ^ (bd - 9)) / 2 ^ (bd - 8))) else leBytes 1 v

/-- The draw bit rule of a flip mode (R201). -/
def flipApplied (mode : Nat) (bit : Bool) : Bool := mode == 1 || (mode == 2 && bit)

end Sys2Proof.Machine
end

