-- ==== Sys2Proof/Machine/Float.lean ====
section
/-!
DEFINITION. Floating point, exactly and then rounded once (R131, R156, R172, R176): values are m × 2^e with a sign.
-/
namespace Sys2Proof.Machine

/-- A float value: NaN, an infinity, or (−1)^neg × m × 2^e. -/
inductive FVal where
  | nan
  | inf (neg : Bool)
  | fin (neg : Bool) (m : Nat) (e : Int)
  deriving DecidableEq, Repr

/-- Which codes of a format are special (R156). -/
inductive FKind where
  | ieee | e4m3 | finite
  deriving DecidableEq, Repr

/-- A float format (R156): exponent bits, mantissa bits, bias, special codes. -/
structure FFmt where
  eb : Nat
  mb : Nat
  bias : Nat
  kind : FKind
  deriving DecidableEq, Repr

def fp8e4 : FFmt := ⟨4, 3, 7, .e4m3⟩
def fp8e5 : FFmt := ⟨5, 2, 15, .ieee⟩
def fp6e2 : FFmt := ⟨2, 3, 1, .finite⟩
def fp6e3 : FFmt := ⟨3, 2, 3, .finite⟩
def fp4e2 : FFmt := ⟨2, 1, 1, .finite⟩
def bfloat16 : FFmt := ⟨8, 7, 127, .ieee⟩
def fp16 : FFmt := ⟨5, 10, 15, .ieee⟩
def fp32 : FFmt := ⟨8, 23, 127, .ieee⟩

/-- Width of a format in bits. -/
def FFmt.width (F : FFmt) : Nat := 1 + F.eb + F.mb

/-- The value of a code (R156). -/
def FFmt.decode (F : FFmt) (c : Nat) : FVal :=
  let neg := c.testBit (F.eb + F.mb)
  let e := bits c F.mb F.eb
  let m := c % 2 ^ F.mb
  let special := e = 2 ^ F.eb - 1
  if F.kind = .ieee ∧ special then (if m = 0 then .inf neg else .nan)
  else if F.kind = .e4m3 ∧ special ∧ m = 2 ^ F.mb - 1 then .nan
  else if e = 0 then .fin neg m (1 - (F.bias : Int) - F.mb)
  else .fin neg (2 ^ F.mb + m) ((e : Int) - F.bias - F.mb)

/-- The magnitude code of the largest finite value (R156). -/
def FFmt.maxCode (F : FFmt) : Nat :=
  match F.kind with
  | .ieee => (2 ^ F.eb - 1) * 2 ^ F.mb - 1
  | .e4m3 => 2 ^ (F.eb + F.mb) - 2
  | .finite => 2 ^ (F.eb + F.mb) - 1

/-- The magnitude code of m × 2^e rounded toward zero with the exponent range unbounded, and what is left as a
fraction `rem / 2^sh` of the distance to the next code (R172, R176). -/
def FFmt.split (F : FFmt) (m : Nat) (e : Int) : Nat × Nat × Nat :=
  if m = 0 then (0, 0, 0)
  else
    let base : Int := 1 - (F.bias : Int) - F.mb
    let q : Int := max (e + (Nat.log2 m : Int) - F.mb) base
    let idx := (q - base).toNat
    if q ≤ e then (idx * 2 ^ F.mb + m * 2 ^ (e - q).toNat, 0, 0)
    else
      let sh := (q - e).toNat
      (idx * 2 ^ F.mb + m / 2 ^ sh, m % 2 ^ sh, sh)

/-- How a value is rounded (R172, R176): to nearest even, toward zero, or up when the fraction exceeds a draw. -/
inductive Rnd where
  | nearest
  | zero
  | stochastic (draw : Nat)
  deriving DecidableEq, Repr

/-- The magnitude code of m × 2^e rounded, exponent range unbounded. -/
def FFmt.roundMag (F : FFmt) (r : Rnd) (m : Nat) (e : Int) : Nat :=
  let (c, rem, sh) := F.split m e
  match r with
  | .zero => c
  | .nearest =>
    if rem = 0 then c
    else if 2 * rem > 2 ^ sh ∨ (2 * rem = 2 ^ sh ∧ c % 2 = 1) then c + 1 else c
  | .stochastic d => if rem = 0 then c else if rem * 2 ^ 32 / 2 ^ sh > d then c + 1 else c

/-- Put a sign on a magnitude code. -/
def FFmt.signed (F : FFmt) (neg : Bool) (c : Nat) : Nat := c + b2n neg * 2 ^ (F.eb + F.mb)

/-- The canonical NaN of a format (R131, R173). -/
def FFmt.nanCode (F : FFmt) : Nat :=
  match F.kind with
  | .ieee => (2 ^ F.eb - 1) * 2 ^ F.mb + 2 ^ (F.mb - 1)
  | _ => 2 ^ (F.eb + F.mb) - 1

/-- The code of an infinity in an IEEE format. -/
def FFmt.infCode (F : FFmt) : Nat := (2 ^ F.eb - 1) * 2 ^ F.mb

/-- A value rounded to nearest even in an IEEE format; overflow gives an infinity (R131, R166). -/
def FFmt.encode (F : FFmt) : FVal → Nat
  | .nan => F.nanCode
  | .inf neg => F.signed neg F.infCode
  | .fin neg m e =>
    let c := F.roundMag .nearest m e
    F.signed neg (if c > F.maxCode then F.infCode else c)

/-- Exact product. -/
def fvMul : FVal → FVal → FVal
  | .nan, _ | _, .nan => .nan
  | .inf a, .inf b => .inf (a != b)
  | .inf a, .fin b m _ | .fin b m _, .inf a => if m = 0 then .nan else .inf (a != b)
  | .fin a m e, .fin b n f => .fin (a != b) (m * n) (e + f)

/-- A signed integer mantissa of a finite value at exponent `q ≤ e`. -/
def alignMant (neg : Bool) (m : Nat) (e q : Int) : Int :=
  let x : Int := (m * 2 ^ (e - q).toNat : Nat)
  if neg then -x else x

/-- Exact sum; an exact zero from cancellation is +0. -/
def fvAdd : FVal → FVal → FVal
  | .nan, _ | _, .nan => .nan
  | .inf a, .inf b => if a = b then .inf a else .nan
  | .inf a, .fin .. => .inf a
  | .fin .., .inf b => .inf b
  | .fin a m e, .fin b n f =>
    let q := min e f
    let x := alignMant a m e q + alignMant b n f q
    if x = 0 then .fin (a && b) 0 q else .fin (x < 0) x.natAbs q

/-- Negation. -/
def fvNeg : FVal → FVal
  | .nan => .nan
  | .inf a => .inf (!a)
  | .fin a m e => .fin (!a) m e

/-- The integer square root of `n` (bit by bit, fuel `k` bits). -/
def isqrtAux (n : Nat) : Nat → Nat → Nat
  | 0, r => r
  | k + 1, r => let t := r + 2 ^ k; isqrtAux n k (if t * t ≤ n then t else r)

/-- A quotient exact to more bits than any format keeps, with a sticky last bit. -/
def fvDiv : FVal → FVal → FVal
  | .nan, _ | _, .nan => .nan
  | .inf _, .inf _ => .nan
  | .inf a, .fin b _ _ => .inf (a != b)
  | .fin a _ _, .inf b => .fin (a != b) 0 0
  | .fin a m e, .fin b n f =>
    if n = 0 then (if m = 0 then .nan else .inf (a != b))
    else
      let k := 64 + Nat.log2 n
      let x := m * 2 ^ k
      .fin (a != b) (2 * (x / n) + b2n (x % n ≠ 0)) (e - f - k - 1)

/-- A square root exact to more bits than any format keeps, with a sticky last bit. -/
def fvSqrt : FVal → FVal
  | .nan => .nan
  | .inf neg => if neg then .nan else .inf false
  | .fin neg m e =>
    if m = 0 then .fin neg 0 0
    else if neg then .nan
    else
      let k : Nat := if (e - 64) % 2 = 0 then 64 else 65
      let x := m * 2 ^ k
      let r := isqrtAux x (Nat.log2 x / 2 + 1) 0
      .fin false (2 * r + b2n (r * r ≠ x)) ((e - k) / 2 - 1)

/-- `a < b` for values that are not NaN; the zeros are equal. -/
def fvLt : FVal → FVal → Bool
  | .nan, _ | _, .nan => false
  | .inf a, .inf b => a && !b
  | .inf a, .fin .. => a
  | .fin .., .inf b => !b
  | .fin a m e, .fin b n f => let q := min e f; alignMant a m e q < alignMant b n f q

/-- `a = b` for values that are not NaN; the zeros are equal. -/
def fvEq : FVal → FVal → Bool
  | .nan, _ | _, .nan => false
  | .inf a, .inf b => a == b
  | .fin a m e, .fin b n f => let q := min e f; alignMant a m e q == alignMant b n f q
  | _, _ => false

/-- Is the value NaN? -/
def fvIsNan : FVal → Bool
  | .nan => true
  | _ => false

/-- Is the sign bit set? -/
def fvNegBit : FVal → Bool
  | .nan => false
  | .inf a => a
  | .fin a _ _ => a

/-- The order of vmin and vmax on codes of an IEEE format (R131): −0 below +0, a NaN gives the other operand, two NaNs
the canonical NaN. `lower` asks for the minimum. -/
def FFmt.minMax (F : FFmt) (lower : Bool) (a b : Nat) : Nat :=
  let x := F.decode a
  let y := F.decode b
  if fvIsNan x && fvIsNan y then F.nanCode
  else if fvIsNan x then b
  else if fvIsNan y then a
  else
    let less := fvLt x y || (fvEq x y && fvNegBit x && !fvNegBit y)
    if less == lower then a else b

/-- FP32 sum of codes, rounded once. -/
def f32Add (a b : Nat) : Nat := fp32.encode (fvAdd (fp32.decode a) (fp32.decode b))
/-- FP32 difference of codes. -/
def f32Sub (a b : Nat) : Nat := fp32.encode (fvAdd (fp32.decode a) (fvNeg (fp32.decode b)))
/-- FP32 product of codes. -/
def f32Mul (a b : Nat) : Nat := fp32.encode (fvMul (fp32.decode a) (fp32.decode b))
/-- FP32 quotient of codes. -/
def f32Div (a b : Nat) : Nat := fp32.encode (fvDiv (fp32.decode a) (fp32.decode b))
/-- Fused multiply-add of codes, one rounding. -/
def FFmt.fma (F : FFmt) (a b c : Nat) : Nat := F.encode (fvAdd (fvMul (F.decode a) (F.decode b)) (F.decode c))

/-- One level of tree_sum: neighbours added, empty entries passed over (R167). -/
def treeLevel : List (Option Nat) → List (Option Nat)
  | some l :: some r :: t => some (f32Add l r) :: treeLevel t
  | some l :: none :: t => some l :: treeLevel t
  | none :: x :: t => x :: treeLevel t
  | [x] => [x]
  | [] => []

/-- tree_sum over 32 entries of FP32 codes (R167). -/
def treeSum (q : List (Option Nat)) : Option Nat :=
  (treeLevel (treeLevel (treeLevel (treeLevel (treeLevel q))))).headD none

/-- A finite value truncated toward zero. -/
def truncInt (neg : Bool) (m : Nat) (e : Int) : Int :=
  let x : Int := if e ≥ 0 then (m * 2 ^ e.toNat : Nat) else (m / 2 ^ (-e).toNat : Nat)
  if neg then -x else x

/-- Float to integer: toward zero, saturating; NaN gives 0 (R134). -/
def fvToInt (lo hi : Int) : FVal → Int
  | .nan => 0
  | .inf neg => if neg then lo else hi
  | .fin neg m e => max lo (min hi (truncInt neg m e))

/-- An integer as a value. -/
def fvOfInt (x : Int) : FVal := .fin (x < 0) x.natAbs 0

end Sys2Proof.Machine
end

