-- ==== Sys2Proof/Machine/Operands.lean ====
section
/-!
DEFINITION. Vector operands and the element operations of the vector unit (R115, R116, R129 to R134, R139, R170, R178
to R180).
-/
namespace Sys2Proof.Machine

/-- The element types of the V format (R129). -/
inductive VType where
  | i32 | u32 | i16 | u16 | i8 | u8 | f32 | f16 | bf16
  deriving DecidableEq, Repr

/-- The type a code names; codes 0x9 to 0xF are undefined (R129). -/
def vtypeOf (c : Nat) : Option VType :=
  [VType.i32, .u32, .i16, .u16, .i8, .u8, .f32, .f16, .bf16][c]?

/-- Element width in bits. -/
def VType.width : VType → Nat
  | .i32 | .u32 | .f32 => 32
  | .i16 | .u16 | .f16 | .bf16 => 16
  | .i8 | .u8 => 8

/-- The float format of a type, if it is one. -/
def VType.float? : VType → Option FFmt
  | .f32 => some fp32
  | .f16 => some fp16
  | .bf16 => some bfloat16
  | _ => none

/-- Is the integer type signed? -/
def VType.signed : VType → Bool
  | .i32 | .i16 | .i8 => true
  | _ => false

/-- The value of an integer element. -/
def VType.intVal (t : VType) (c : Nat) : Int := if t.signed then sval t.width c else (c % 2 ^ t.width : Nat)

/-- The least value of an integer type. -/
def VType.lo (t : VType) : Int := if t.signed then -(2 ^ (t.width - 1) : Nat) else 0
/-- The greatest value of an integer type. -/
def VType.hi (t : VType) : Int := if t.signed then (2 ^ (t.width - 1) : Nat) - 1 else (2 ^ t.width : Nat) - 1

/-- Element `e` of width `w` (R115). -/
def elemOf (v : BitVec 1024) (w e : Nat) : Nat := bits v.toNat (w * e) w

/-- Lane `i` of a vector (R115). -/
def laneOf (v : BitVec 1024) (i : Nat) : Nat := elemOf v 32 i

/-- The register made of elements of width `w`, element 0 first. -/
def packElems (w : Nat) (es : List Nat) : BitVec 1024 :=
  BitVec.ofNat 1024 (es.foldr (fun x acc => x % 2 ^ w + 2 ^ w * acc) 0)

/-- The elements of a register. -/
def elemsOf (v : BitVec 1024) (w : Nat) : List Nat := (List.range (1024 / w)).map (elemOf v w)

/-- Apply an element function under a predicate: a masked-off lane keeps its old value (R116). -/
def mapElems (w : Nat) (pg : BitVec 32) (old : BitVec 1024) (f : Nat → Nat) : BitVec 1024 :=
  packElems w ((List.range (1024 / w)).map (fun e => if pg.getLsbD (w * e / 32) then f e else elemOf old w e))

/-- The 128 bytes of a vector register (R115). -/
def vecBytes (v : BitVec 1024) : List Byte := leBytes 128 v.toNat

/-- The vector register of 128 bytes. -/
def vecOfBytes (bs : List Byte) : BitVec 1024 := BitVec.ofNat 1024 (leNat bs)

/-- The vector arithmetic operations of R130. -/
inductive VArith where
  | add | sub | mul | fma | min | max | and | or | xor | sll | srl | sra | abs | neg | div | sqrt
  deriving DecidableEq, Repr

/-- Is the combination of operation and type allowed (R130)? -/
def VArith.allows (o : VArith) (t : VType) : Bool :=
  match o with
  | .fma => t.float?.isSome
  | .and | .or | .xor | .sll | .srl | .sra => t.float?.isNone
  | .div | .sqrt => t == .f32
  | _ => true

/-- Does the operation take one operand, with the vs2 field zero (R130)? -/
def VArith.unary : VArith → Bool
  | .abs | .neg | .sqrt => true
  | _ => false

/-- An integer element operation (R130): results wrap. -/
def VArith.int (o : VArith) (t : VType) (a b d : Nat) : Nat :=
  let w := t.width
  let x := t.intVal a
  let y := t.intVal b
  match o with
  | .add => (a + b) % 2 ^ w
  | .sub => (a + 2 ^ w - b % 2 ^ w) % 2 ^ w
  | .mul => (a * b) % 2 ^ w
  | .min => if x ≤ y then a else b
  | .max => if x ≥ y then a else b
  | .and => a &&& b
  | .or => a ||| b
  | .xor => a ^^^ b
  | .sll => (a <<< (b % w)) % 2 ^ w
  | .srl => a >>> (b % w)
  | .sra => wrap w (sval w a / 2 ^ (b % w))
  | .abs => wrap w x.natAbs
  | .neg => wrap w (-x)
  | .fma | .div | .sqrt => d

/-- A float element operation (R130, R131): exact, then rounded once. -/
def VArith.flt (o : VArith) (F : FFmt) (a b d : Nat) : Nat :=
  let x := F.decode a
  let y := F.decode b
  match o with
  | .add => F.encode (fvAdd x y)
  | .sub => F.encode (fvAdd x (fvNeg y))
  | .mul => F.encode (fvMul x y)
  | .fma => F.fma a b d
  | .min => F.minMax true a b
  | .max => F.minMax false a b
  | .abs => a % 2 ^ (F.eb + F.mb)
  | .neg => a ^^^ 2 ^ (F.eb + F.mb)
  | .div => F.encode (fvDiv x y)
  | .sqrt => F.encode (fvSqrt x)
  | .and | .or | .xor | .sll | .srl | .sra => d

/-- One element of a vector arithmetic operation. -/
def VArith.elem (o : VArith) (t : VType) (a b d : Nat) : Nat :=
  match t.float? with
  | some F => o.flt F a b d
  | none => o.int t a b d

/-- A vector arithmetic operation under a predicate (R130). -/
def vArith (o : VArith) (t : VType) (pg : BitVec 32) (x y old : BitVec 1024) : BitVec 1024 :=
  let w := t.width
  mapElems w pg old (fun e => o.elem t (elemOf x w e) (elemOf y w e) (elemOf old w e))

/-- The condition of a vcmp on one lane: 0 eq, 1 ne, 2 lt, 3 le (R132). -/
def cmpLane (t : VType) (cond a b : Nat) : Bool :=
  match t.float? with
  | some F =>
    let x := F.decode a
    let y := F.decode b
    if fvIsNan x || fvIsNan y then cond == 1
    else match cond with
      | 0 => fvEq x y
      | 1 => !fvEq x y
      | 2 => fvLt x y
      | _ => fvLt x y || fvEq x y
  | none =>
    let x := t.intVal a
    let y := t.intVal b
    match cond with
    | 0 => x == y
    | 1 => x != y
    | 2 => x < y
    | _ => x ≤ y

/-- A predicate from a condition on each lane. -/
def predOf (f : Nat → Bool) : BitVec 32 :=
  BitVec.ofNat 32 ((List.range 32).foldl (fun a i => a + b2n (f i) * 2 ^ i) 0)

/-- Convert one element (R134). -/
def cvtElem (src dst : VType) (c : Nat) : Nat :=
  match src.float?, dst.float? with
  | some F, some G => G.encode (F.decode c)
  | some F, none => wrap dst.width (fvToInt dst.lo dst.hi (F.decode c))
  | none, some G => G.encode (fvOfInt (src.intVal c))
  | none, none =>
    let x := src.intVal c
    if dst.lo ≤ x ∧ x ≤ dst.hi then wrap dst.width x
    else Config.vcvtRange src.ctorIdx dst.ctorIdx c % 2 ^ dst.width

/-- vcvt (R134): at one width under the predicate, between widths elements 0 to 31. -/
def vCvt (src dst : VType) (pg : BitVec 32) (x old : BitVec 1024) : BitVec 1024 :=
  let w := dst.width
  if src.width = w then mapElems w pg old (fun e => cvtElem src dst (elemOf x w e))
  else
    let es := (List.range 32).map (fun e => cvtElem src dst (elemOf x src.width e))
    let low := packElems w es
    if src.width < w ∧ 32 * w < 1024 then
      -- destination wider, with elements past 31: their bytes are unstated (log entry 5)
      BitVec.ofNat 1024 (low.toNat % 2 ^ 512 + 2 ^ 512 * (Config.vcvtFill x).toNat)
    else low

/-- An FP32 code with NaN made canonical. -/
def canonF32 (c : Nat) : Nat := if fvIsNan (fp32.decode c) then fp32.nanCode else c

/-- The order of vred min and max (R170: that of R131). -/
def redPick (t : VType) (lower : Bool) (a b : Nat) : Nat :=
  match t.float? with
  | some F => F.minMax lower a b
  | none => (if lower then VArith.min else VArith.max).int t a b 0

/-- vred (R134, R170): kind 0 sum, 1 min, 2 max over the active lanes; no active lane gives 0. -/
def vRed (t : VType) (kind : Nat) (pg : BitVec 32) (x : BitVec 1024) : Nat :=
  let act := (List.range 32).filter (fun i => pg.getLsbD i)
  let vals := act.map (laneOf x)
  match vals with
  | [] => 0
  | v :: r =>
    if kind = 0 then
      match t.float? with
      | some _ =>
        canonF32 ((treeSum ((List.range 32).map (fun i => if pg.getLsbD i then some (laneOf x i) else none))).getD 0)
      | none => vals.foldl (fun a b => (a + b) % 2 ^ 32) 0
    else
      let m := r.foldl (fun a b => redPick t (kind == 1) a b) v
      if t = .f32 then canonF32 m else m

/-- The candidates of a troute, with their biased scores (R178). -/
def routeKeys (sc bias : BitVec 1024) : List (Nat × Nat) :=
  (List.range 32).filterMap (fun e =>
    if fvIsNan (fp32.decode (laneOf sc e)) then none
    else
      let k := f32Add (laneOf sc e) (laneOf bias e)
      if fvIsNan (fp32.decode k) then none else some (e, k))

/-- Candidate `a` ranks before candidate `b` (R178). -/
def routeBefore (a b : Nat × Nat) : Bool :=
  let x := fp32.decode a.2
  let y := fp32.decode b.2
  fvLt y x || (fvEq x y && a.1 < b.1)

/-- Is an FP32 code finite and above zero? -/
def f32Positive (c : Nat) : Bool :=
  match fp32.decode c with
  | .fin neg m _ => !neg && m ≠ 0
  | _ => false

/-- troute (R178): the selected expert numbers in lanes 0 to k − 1, the gate weights in lanes 8 to 7 + k. -/
def vRoute (sc bias : BitVec 1024) (k : Nat) : BitVec 1024 :=
  let sel := ((sortBy (fun a b => !routeBefore b a) (routeKeys sc bias)).take k).map Prod.fst
  let j := sel.length
  let sum := match sel.map (laneOf sc) with
    | [] => 0
    | v :: r => r.foldl f32Add v
  let gate (e : Nat) : Nat :=
    if f32Positive sum then f32Div (laneOf sc e) sum else f32Div (fp32.encode (fvOfInt 1)) (fp32.encode (fvOfInt j))
  packElems 32 ((List.range 32).map (fun i =>
    if i < k then (sel[i]?).getD 0xFFFFFFFF
    else if 8 ≤ i ∧ i < 8 + k then ((sel[i - 8]?).map gate).getD 0
    else 0))

/-- A lookup table (R179), as read: X0, INV_H, NSEG clamped to 1 .. 1,024, EXTRAPOLATE, the breakpoints. -/
structure LutTable where
  x0 : Nat
  invH : Nat
  nseg : Nat
  extrapolate : Bool
  y : List Nat

/-- NSEG as it acts (R179). -/
def lutSegs (n : Nat) : Nat := if n = 0 then 1 else min n 1024

/-- A table from its bytes (R179). -/
def lutOf (bs : List Byte) : LutTable :=
  let n := lutSegs (leAt bs 8 2)
  { x0 := leAt bs 0 4, invH := leAt bs 4 4, nseg := n, extrapolate := leAt bs 10 1 % 2 = 1,
    y := (List.range (n + 1)).map (fun i => leAt bs (0x40 + 4 * i) 4) }

/-- Is an FP32 code finite? -/
def f32Finite (c : Nat) : Bool :=
  match fp32.decode c with
  | .fin .. => true
  | _ => false

/-- Where vlut takes one lane's value (R180): nowhere for a NaN, an end breakpoint, or segment `i` with the fraction's code. -/
inductive LutPick where
  | nan
  | point (i : Nat)
  | seg (i f : Nat)
  deriving DecidableEq, Repr

/-- The place of one lane (R180). -/
def lutPick (t : LutTable) (x : Nat) : LutPick :=
  if fvIsNan (fp32.decode x) then .nan
  else
    let u := f32Mul (f32Sub x t.x0) t.invH
    let uv := fp32.decode u
    if fvIsNan uv then .nan
    else if fvLt uv (.fin false 0 0) then (if t.extrapolate && f32Finite u then .seg 0 u else .point 0)
    else if !fvLt uv (fvOfInt t.nseg) then
      (if t.extrapolate && f32Finite u then .seg (t.nseg - 1) (f32Sub u (fp32.encode (fvOfInt (t.nseg - 1)))) else .point t.nseg)
    else
      match uv with
      | .fin neg m e =>
        let i := (truncInt neg m e).toNat
        .seg i (fp32.encode (fvAdd uv (fvNeg (fvOfInt i))))
      | _ => .nan

/-- The breakpoints that one lane reads. -/
def lutPoints (t : LutTable) (x : Nat) : List Nat :=
  match lutPick t x with
  | .nan => []
  | .point i => [i]
  | .seg i _ => [i, i + 1]

/-- vlut on one lane (R180). -/
def lutLane (t : LutTable) (x : Nat) : Nat :=
  let yAt (i : Nat) : Nat := t.y.getD i 0
  match lutPick t x with
  | .nan => fp32.nanCode
  | .point i => canonF32 (yAt i)
  | .seg i f => canonF32 (fp32.fma f (f32Sub (yAt (i + 1)) (yAt i)) (yAt i))

end Sys2Proof.Machine
end

