-- ==== Sys2Proof/Machine/TensorMath.lean ====
section
/-!
DEFINITION. The arithmetic of the tensor array (R156 to R176): operand strings, products in their fixed order,
conversion and rounding.
-/
namespace Sys2Proof.Machine

/-! ## Formats (R136) -/

/-- The element format of a float-family tensor format. -/
def tFloat (fmt : Nat) : Option FFmt :=
  match fmt with
  | 0 | 2 => some fp8e4
  | 1 | 3 => some fp8e5
  | 4 => some fp6e2
  | 5 => some fp6e3
  | 6 => some fp4e2
  | 10 => some bfloat16
  | 11 => some fp16
  | 12 => some fp32
  | _ => none

/-- Is the format of the integer family? -/
def tIsInt (fmt : Nat) : Bool := fmt == 7 || fmt == 8 || fmt == 9 || fmt == 13

/-- Is it an MX format, with scales? -/
def tIsMx (fmt : Nat) : Bool := 2 ≤ fmt && fmt ≤ 7

/-- Is it BF16 or FP16 (the wide path, R167)? -/
def tIsWide (fmt : Nat) : Bool := fmt == 10 || fmt == 11

/-- Element width in bits. -/
def tWidth (fmt : Nat) : Nat :=
  match fmt with
  | 4 | 5 => 6
  | 6 | 9 => 4
  | 10 | 11 => 16
  | 12 | 13 => 32
  | _ => 8

/-- Element `j` of a string of elements of width `w` (R158). -/
def strElem (bs : List Byte) (w j : Nat) : Nat := bits (leNat bs) (w * j) w

/-- The string of a list of element codes (R158). -/
def strOf (w : Nat) (es : List Nat) : List Byte :=
  leBytes (w * es.length / 8) (es.foldr (fun x acc => x % 2 ^ w + 2 ^ w * acc) 0)

/-! ## Weight blocks (R159 to R162) -/

/-- K, the multiplicands of an activation row (R159). -/
def wbufK (w : WBuf) : Nat := if w.fmt = 6 ∨ w.fmt = 9 ∨ w.mode = 1 then 64 else 32

/-- Bytes of a stored element row (R160, R161). -/
def rowBytes (fmt mode : Nat) : Nat :=
  if mode = 1 then 32
  else match fmt with
    | 4 | 5 => 24
    | 10 | 11 => 64
    | _ => 32

/-- Scale rows of a block: one per reduction block for an MX format (R160, R161). -/
def scaleRows (fmt mode : Nat) : Nat := if tIsMx fmt then (if fmt = 6 ∨ mode = 1 then 2 else 1) else 0

/-- The existing weights of reduction block `b` in column `n`: multiplicand k and weight code (R160 to R162, R165). -/
def weightsOf (w : WBuf) (b n : Nat) : List (Nat × Nat) :=
  if w.mode = 1 then
    (List.range 16).flatMap (fun g16 =>
      let g := g16 / 2 + 8 * b
      let slot := g16 % 2
      let idx := bits ((w.meta24.getD (g / 2) []).getD n 0).toNat (4 * (g % 2) + 2 * slot) 2
      [(4 * g + idx, ((w.rows.getD (2 * g + slot) []).getD n 0).toNat)])
  else
    (List.range 32).filterMap (fun j =>
      let k := 32 * b + j
      let two := w.fmt = 6 ∨ w.fmt = 9
      let r := if two then k / 2 else k
      if w.sub.testBit (r / 8) then
        let row := w.rows.getD r []
        some (k, strElem (if two then (row.drop (16 * (k % 2))).take 16 else row) (tWidth w.fmt) n)
      else none)

/-- The scale code of column `n` for block `b`; 127 in a format without scales (R157). -/
def weightScale (w : WBuf) (b n : Nat) : Nat :=
  if tIsMx w.fmt then ((w.scales.getD b []).getD n 0).toNat else 127

/-! ## Activation rows (R163) -/

/-- An activation row: its format, its element codes, its scale codes by block. -/
structure ActRow where
  fmt : Nat
  codes : List Nat
  scales : List Nat

/-- Is the code a zero of its format (R156)? -/
def isZeroCode (fmt c : Nat) : Bool :=
  match tFloat fmt with
  | some F => c % 2 ^ (F.eb + F.mb) == 0
  | none => c == 0

/-- The scale of a row for block `b`. -/
def actScale (a : ActRow) (b : Nat) : Nat := if tIsMx a.fmt then a.scales.getD b 0 else 127

/-- The value of an element code of the float family. -/
def tVal (fmt c : Nat) : FVal :=
  match tFloat fmt with
  | some F => F.decode c
  | none => .nan

/-- The value of an element code of the integer family. -/
def tInt (fmt c : Nat) : Int := sval (tWidth fmt) c

/-- Is the value a finite zero? -/
def fvIsZero : FVal → Bool
  | .fin _ m _ => m == 0
  | _ => false

/-- Multiply a value by 2^e. -/
def fvScale (e : Int) : FVal → FVal
  | .fin n m f => .fin n m (f + e)
  | x => x

/-- The products of block `b`: k and the exact product of the codes' values. -/
def products (a : ActRow) (w : WBuf) (b n : Nat) : List (Nat × FVal) :=
  (weightsOf w b n).map (fun p => (p.1, fvMul (tVal a.fmt (a.codes.getD p.1 0)) (tVal w.fmt p.2)))

/-- Does R165 leave the element unchanged for block `b` (float family)? A product of an element whose scale is NaN is
no zero. The exact product is tested: one of the wide path that is not zero but rounds to zero in FP32 (R167) counts as none (the
model's choice, log entry 128). -/
def skipsBlock (a : ActRow) (w : WBuf) (b n : Nat) (ps : List (Nat × FVal)) : Bool :=
  ps.isEmpty
    || ((List.range 32).all (fun j => isZeroCode a.fmt (a.codes.getD (32 * b + j) 0)) && actScale a b ≠ 0xFF)
    || (ps.all (fun p => fvIsZero p.2) && actScale a b ≠ 0xFF && weightScale w b n ≠ 0xFF)

/-- The exponent of a block's scales. -/
def blockExp (a : ActRow) (w : WBuf) (b n : Nat) : Int := ((actScale a b : Int) - 127) + ((weightScale w b n : Int) - 127)

/-- The block sum of the narrow path (R166). -/
def narrowBlock (a : ActRow) (w : WBuf) (b n : Nat) (ps : List (Nat × FVal)) : Nat :=
  let vs := ps.map Prod.snd
  let pinf := vs.contains (.inf false)
  let ninf := vs.contains (.inf true)
  if vs.any fvIsNan || (pinf && ninf) || actScale a b == 0xFF || weightScale w b n == 0xFF then fp32.nanCode
  else if pinf then fp32.infCode
  else if ninf then fp32.signed true fp32.infCode
  else
    match fvScale (blockExp a w b n) (vs.foldl fvAdd (.fin false 0 0)) with
    | .fin neg m e => fp32.encode (.fin (neg && m ≠ 0) m e)
    | x => fp32.encode x

/-- The block sum of the wide path (R167): each product rounded, then the fixed tree. -/
def wideBlock (a : ActRow) (w : WBuf) (b n : Nat) (ps : List (Nat × FVal)) : Nat :=
  let e := blockExp a w b n
  let bad := actScale a b == 0xFF || weightScale w b n == 0xFF
  let r (v : FVal) : Nat := if bad then fp32.nanCode else fp32.encode (fvScale e v)
  let q := (List.range 32).map (fun j =>
    match ps.filter (fun p => p.1 = 32 * b + j) with
    | [] => none
    | [p] => some (r p.2)
    | p :: p' :: _ => some (Config.doubleProduct (r p.2) (r p'.2) % 2 ^ 32))
  (treeSum q).getD 0

/-- One block of a float-family tmac on one accumulator element (R165 to R167, R169). -/
def floatBlock (a : ActRow) (w : WBuf) (n : Nat) (acc : Nat) (b : Nat) : Nat :=
  let ps := products a w b n
  if skipsBlock a w b n ps then acc
  else f32Add acc (if tIsWide a.fmt || tIsWide w.fmt then wideBlock a w b n ps else narrowBlock a w b n ps)

/-- Round a quotient by a power of two, half to even (R168). -/
def roundHalfEven (s : Int) (k : Nat) : Int :=
  let q := s / (2 ^ k : Nat)
  let r := s % (2 ^ k : Nat)
  if k = 0 then s
  else if 2 * r > (2 ^ k : Nat) ∨ (2 * r = (2 ^ k : Nat) ∧ q % 2 = 1) then q + 1 else q

/-- One block of an integer-family tmac (R165, R168). -/
def intBlock (a : ActRow) (w : WBuf) (n : Nat) (acc : Nat) (b : Nat) : Nat :=
  let ws := weightsOf w b n
  let ps : List Int := ws.map (fun p => tInt a.fmt (a.codes.getD p.1 0) * tInt w.fmt p.2)
  if ps.all (· == 0) || actScale a b == 0xFF || weightScale w b n == 0xFF then acc
  else
    let s : Int := ps.foldl (· + ·) (0 : Int)
    let e := blockExp a w b n
    let v : Int := if e ≥ 0 then s * (2 ^ e.toNat : Nat) else roundHalfEven s (-e).toNat
    wrap 32 (max (-(2 ^ 31 : Nat)) (min ((2 ^ 31 : Nat) - 1) (sval 32 acc + v)))

/-- A tmac's update of one accumulator element: block 0 before block 1 (R166 to R168). -/
def macElem (a : ActRow) (w : WBuf) (n : Nat) (acc : Nat) : Nat :=
  (List.range (wbufK w / 32)).foldl (if tIsInt a.fmt then intBlock a w n else floatBlock a w n) acc

/-! ## Conversion (R172 to R176) -/

/-- Rounding of a tstore element. -/
def rndOf (mode draw : Nat) : Rnd :=
  match mode with
  | 0 => .nearest
  | 1 => .zero
  | _ => .stochastic draw

/-- A value to a float format that is not MX (R172, R173). -/
def toFloat (F : FFmt) (mode : Nat) (sat : Bool) (draw : Nat) : FVal → Nat
  | .nan => F.nanCode
  | .inf neg =>
    if sat then F.signed neg F.maxCode
    else if F.kind = .e4m3 then F.signed neg F.nanCode else F.signed neg F.infCode
  | .fin neg m e =>
    let c := F.roundMag (rndOf mode draw) m e
    if c ≤ F.maxCode then F.signed neg c
    else if sat ∨ mode = 1 then F.signed neg F.maxCode
    else if F.kind = .e4m3 then F.signed neg F.nanCode else F.signed neg F.infCode

/-- An element of an MX row after scaling: overflow takes the largest finite magnitude (R174). -/
def toMxElem (F : FFmt) (mode draw : Nat) : FVal → Nat
  | .fin neg m e => F.signed neg (min F.maxCode (F.roundMag (rndOf mode draw) m e))
  | _ => 0

/-- emax of an MX element format (R174). -/
def mxEmax (fmt : Nat) : Int :=
  match fmt with
  | 2 => 8
  | 3 => 15
  | 4 => 2
  | 5 => 4
  | _ => 2

/-- The exponent of a finite non-zero value: floor(log2 |v|). -/
def fvLog2 : FVal → Int
  | .fin _ m e => e + Nat.log2 m
  | _ => 0

/-- The scale of an MX float row (R174). -/
def mxScale (fmt : Nat) (vs : List FVal) : Nat :=
  let big := vs.filter (fun v => !fvIsZero v)
  if vs.any (fun v => match v with | .fin .. => false | _ => true) then 0xFF
  else match big with
    | [] => 0
    | v :: r => (max 0 (min 254 ((r.foldl (fun a x => max a (fvLog2 x)) (fvLog2 v)) - mxEmax fmt + 127))).toNat

/-- An integer row to MXINT8: the scale and the codes (R175). -/
def toMxInt8 (mode : Nat) (vs : List Int) : Nat × List Nat :=
  let big := vs.foldl (fun a v => max a v.natAbs) 0
  let l := if big = 0 then 0 else Nat.log2 big + 1
  let e := l - 7
  (127 + e, vs.map (fun v =>
    let q : Int := if mode = 0 then roundHalfEven v e else (if v < 0 then -((v.natAbs / 2 ^ e : Nat) : Int) else (v.natAbs / 2 ^ e : Nat))
    wrap 8 (max (-128) (min 127 q))))

/-- One integer element to .int8 or .int4 (R175). -/
def toInt (w : Nat) (sat : Bool) (v : Int) : Nat :=
  if sat then wrap w (max (-(2 ^ (w - 1) : Nat)) (min ((2 ^ (w - 1) : Nat) - 1) v)) else wrap w v

/-- A .fp32 element (R173): copied, but an infinity under SAT becomes the largest finite value. -/
def toF32 (sat : Bool) (c : Nat) : Nat :=
  match fp32.decode c with
  | .inf neg => if sat then fp32.signed neg fp32.maxCode else c
  | _ => c

/-- Convert one accumulator row (R172 to R176): the element codes and, for an MX target, the scale. -/
def convertRow (fmt mode : Nat) (sat : Bool) (draw : Nat → Nat) (row : List Nat) : List Nat × Option Nat :=
  if tIsInt fmt then
    let vs := row.map (sval 32)
    match fmt with
    | 7 => let (x, cs) := toMxInt8 mode vs; (cs, some x)
    | 13 => (row, none)
    | _ => (vs.map (toInt (tWidth fmt) sat), none)
  else if fmt = 12 then (row.map (toF32 sat), none)
  else
    match tFloat fmt with
    | none => (row, none)
    | some F =>
      let vs := row.map fp32.decode
      if tIsMx fmt then
        let x := mxScale fmt vs
        if x = 0xFF then (vs.map (fun _ => 0), some x)
        else (vs.zipIdx.map (fun p => toMxElem F mode (draw p.2) (fvScale (127 - (x : Int)) p.1)), some x)
      else (vs.zipIdx.map (fun p => toFloat F mode sat (draw p.2) p.1), none)

/-- The random word of a stochastic tstore element (R176). -/
def storeDraw (v31 : BitVec 1024) (tag m n : Nat) : Nat :=
  let l (i : Nat) : BitVec 32 := BitVec.ofNat 32 (laneOf v31 i)
  let d := scree ⟨l 0, l 1, l 2, l 3⟩ ⟨BitVec.ofNat 32 (8 * m + n / 4), BitVec.ofNat 32 tag, l 4, 4⟩
  ([d.w0, d.w1, d.w2, d.w3].getD (n % 4) 0).toNat

end Sys2Proof.Machine
end

