-- ==== Sys2Proof/Machine/Baler.lean ====
section
/-!
DEFINITION. The baler (R239 to R257): its jobs, checks, pixel arithmetic, layout and delivery.
-/
namespace Sys2Proof.Machine

/-! ## Job context and consumer table (R43, R257) -/

/-- The baler's job context. -/
structure BalerCtx where
  table : Nat
  B : Nat
  C : Nat
  ringMin : Nat
  slot : Nat
  valid : Bool
  deriving DecidableEq, Repr

/-- The address of a job's context. -/
def balerCtxAddr (s : State) (d job : Nat) : Nat := s.fld Fld.BALER_CTX_BASE_BASE d * 64 + job % 64 * 64

/-- The context's fields. -/
def balerCtxOf (b : List Byte) : BalerCtx :=
  { table := leAt b 0 8, B := leAt b 8 4, C := leAt b 0xC 2, ringMin := leAt b 0xE 2, slot := leAt b 0x10 4,
    valid := leAt b 0x14 1 % 2 == 1 }

/-- The context of a job. -/
def balerCtx (s : State) (d job : Nat) : BalerCtx := balerCtxOf (peek s (balerCtxAddr s d job) 64)

/-- When a job context is valid (R243). -/
def balerCtxValid (c : BalerCtx) : Bool :=
  c.valid && 1 ≤ c.B && 1 ≤ c.C && c.B % c.C == 0 && c.B / c.C ≤ 65535 && (1 ≤ c.ringMin && c.ringMin ≤ 256)
    && c.slot % 64 == 0 && 64 ≤ c.slot

/-- A consumer table entry (R43). -/
structure Consumer where
  ring : Nat
  rkey : Nat
  group : Nat
  stride : Nat
  depth : Nat
  deriving DecidableEq, Repr

/-- Slots per bale, B/C. -/
def perBale (c : BalerCtx) : Nat := c.B / c.C

/-- The consumer of a slot (R212). -/
def consumerOf (c : BalerCtx) (q : Nat) : Nat := q / perBale c

/-- The entry of a consumer. -/
def consumerEntry (s : State) (c : BalerCtx) (k : Nat) : Consumer :=
  let b := peek s (c.table + 32 * k) 32
  { ring := leAt b 0 8, rkey := leAt b 8 4, group := leAt b 0xC 4 % 4096, stride := leAt b 0x10 4, depth := leAt b 0x14 2 }

/-- The ring depth and stride that check 2 asks for (R44, R239, R537). -/
def consumerOk (c : BalerCtx) (e : Consumer) : Bool :=
  (1 ≤ e.depth && e.depth ≤ 256) && perBale c * c.slot + roundUp (perBale c) 64 ≤ e.stride

/-- Where the bale of a step starts (R44, R45). -/
def baleBase (e : Consumer) (step : Nat) : Nat := e.ring + step % e.depth * e.stride

/-- Where a slot starts (R44). -/
def slotAddr (c : BalerCtx) (e : Consumer) (step q : Nat) : Nat := baleBase e step + q % perBale c * c.slot

/-- Where a slot's map byte lies (R239). -/
def mapAddr (c : BalerCtx) (e : Consumer) (step q : Nat) : Nat := baleBase e step + perBale c * c.slot + q % perBale c

/-- A slot map byte (R240). -/
def mapByte (valid : Bool) (subst : Bool) (attempt : Nat) : Nat := b2n valid + 2 * b2n subst + 4 * attempt

/-! ## Descriptors (R241, R242) -/

/-- FINAL. -/
def Job.final (j : Job) : Bool := j.flags.testBit 0
/-- FOREIGN. -/
def Job.foreign (j : Job) : Bool := j.flags.testBit 1
/-- Step. -/
def Job.step (j : Job) : Nat := leAt j.desc 0x08 4
/-- Slot. -/
def Job.slot (j : Job) : Nat := leAt j.desc 0x0C 4
/-- Attempt. -/
def Job.attempt (j : Job) : Nat := leAt j.desc 0x10 1

/-- The IMAGE fields of a descriptor. -/
structure Image where
  input : Nat
  fstride : Nat
  yPitch : Nat
  cPitch : Nat
  cb : Nat
  cr : Nat
  w : Nat
  h : Nat
  frames : Nat
  chroma : Nat
  wide : Bool
  bd : Nat
  matrix : Nat
  full : Bool
  bgr : Bool
  code : Nat
  nhwc : Bool
  channels : Nat
  wt : Nat
  ht : Nat
  fs : Nat
  rs : Nat
  cs : Nat
  pad : Nat
  mean : List Nat
  scale : List Nat
  sat : Bool
  deriving DecidableEq, Repr

/-- Channels of a code; 0 for the reserved one. -/
def channelsOf (c : Nat) : Nat := [1, 3, 4, 0].getD c 0

/-- The IMAGE fields. -/
def imageOf (j : Job) : Image :=
  let d := j.desc
  { input := leAt d 0x18 8, fstride := leAt d 0x20 4, yPitch := leAt d 0x24 2, cPitch := leAt d 0x26 2, cb := leAt d 0x28 4,
    cr := leAt d 0x2C 4, w := leAt d 0x30 2, h := leAt d 0x32 2, frames := leAt d 0x34 1, chroma := leAt d 0x35 1 % 4,
    wide := (leAt d 0x35 1).testBit 2, bd := leAt d 0x36 1, matrix := leAt d 0x37 1 % 4, full := (leAt d 0x37 1).testBit 2,
    bgr := (leAt d 0x37 1).testBit 3, code := leAt d 0x38 1, nhwc := leAt d 0x39 1 % 2 == 1,
    channels := channelsOf (bits (leAt d 0x39 1) 1 2), wt := leAt d 0x3A 2, ht := leAt d 0x3C 2, fs := leAt d 0x40 4,
    rs := leAt d 0x44 4, cs := leAt d 0x48 4, pad := leAt d 0x4C 4,
    mean := (List.range 4).map (fun k => leAt d (0x50 + 4 * k) 4), scale := (List.range 4).map (fun k => leAt d (0x60 + 4 * k) 4),
    sat := j.flags.testBit 2 }

/-- Bytes of an output element (R246). -/
def elemBytes (code : Nat) : Nat := [1, 2, 4, 2, 2, 1, 1].getD code 1

/-- Bytes of an input sample. -/
def Image.b (g : Image) : Nat := if g.wide then 2 else 1

/-- Columns and rows of a chroma plane (R244). -/
def chromaDims (g : Image) : Nat × Nat := if g.chroma = 0 then (g.w / 2, g.h / 2) else (g.w, g.h)

/-- The constraints of R247. -/
def layoutOk (g : Image) : Bool :=
  let e := elemBytes g.code
  g.fs % e == 0 && g.rs % e == 0 && g.cs % e == 0 &&
    (if g.nhwc then g.channels * e ≤ g.cs && g.wt * g.cs ≤ g.rs && g.ht * g.rs ≤ g.fs
     else g.wt * e ≤ g.rs && g.ht * g.rs ≤ g.cs && g.channels * g.cs ≤ g.fs)

/-- Check 1 for IMAGE. -/
def imageOk (j : Job) : Bool :=
  let g := imageOf j
  g.chroma ≠ 3 && g.channels ≠ 0 && g.code ≤ 6
    && g.fstride % 64 == 0 && g.yPitch % 64 == 0 && g.cPitch % 64 == 0 && g.cb % 64 == 0 && g.cr % 64 == 0
    && (16 ≤ g.w && g.w ≤ 8192) && (16 ≤ g.h && g.h ≤ 8192) && (g.chroma ≠ 0 || (g.w % 2 == 0 && g.h % 2 == 0))
    && (1 ≤ g.frames && g.frames ≤ 64) && [8, 10, 12].contains g.bd && (g.wide || g.bd == 8)
    && g.w ≤ g.wt && g.h ≤ g.ht && g.w * g.b ≤ g.yPitch && (g.chroma == 2 || (chromaDims g).1 * g.b ≤ g.cPitch)
    && layoutOk g

/-- Check 1 (R241, R242, R247). -/
def balerFieldsOk (j : Job) : Bool :=
  let d := j.desc
  let n := leAt d 0x20 4
  (1 ≤ j.op && j.op ≤ 5) && j.flags < 8 && leAt d 5 1 % 4 == 1 && leAt d 0x11 1 == 0 && zeroBytes d 0x3E 2 && zeroBytes d 0x70 16
    && j.attempt ≤ 15 && leAt d 0x14 4 % 64 == 0 && !(j.op == 4 && (j.final || j.foreign)) && !(j.foreign && j.attempt == 0)
    && (j.op ≠ 1 || imageOk j) && ((j.op ≠ 2 && j.op ≠ 5) || (n % 64 == 0 && 1 ≤ n && n ≤ 2 ^ 31))

/-! ## Checks (R243) -/

/-- The input spans: the rows that IMAGE reads, or COPY's input. -/
def balerSpans (j : Job) : List Span :=
  let g := imageOf j
  let plane (f o pitch : Nat) (dims : Nat × Nat) : List Span :=
    (List.range dims.2).map (fun r => (g.input + f * g.fstride + o + r * pitch, dims.1 * g.b))
  match j.op with
  | 1 => (List.range g.frames).flatMap (fun f =>
      plane f 0 g.yPitch (g.w, g.h)
        ++ (if g.chroma = 2 then [] else plane f g.cb g.cPitch (chromaDims g) ++ plane f g.cr g.cPitch (chromaDims g)))
  | 2 => [(leAt j.desc 0x18 8, leAt j.desc 0x20 4)]
  | _ => []

/-- Check 3 of one span: populated DRAM or the stook SRAM of the enqueuing context. -/
def stookSpan (s : State) (origin : Option Nat) (p : Span) : Nat :=
  match regionOf s p.1 with
  | .tile _ => if inFailedMemory s p.1 then 0x10 else 0x07
  | _ => ownSpan s origin p

/-- The part offset and extent. CLOSE has none in the spec, so its check 4 never fails on it (the model's choice, log entry 43). -/
def partOf (c : BalerCtx) (j : Job) : Nat × Nat :=
  match j.op with
  | 1 => (leAt j.desc 0x14 4, (imageOf j).frames * (imageOf j).fs)
  | 2 | 5 => (leAt j.desc 0x14 4, leAt j.desc 0x20 4)
  | 3 => (leAt j.desc 0x14 4, c.slot)
  | _ => (0, 0)

/-- Checks 1 to 4: the failing check and its status. -/
def balerEarly (s : State) (d : Nat) (j : Job) : Nat × Nat :=
  if !balerFieldsOk j then (1, 0x81)
  else
    let c := balerCtx s d j.jobId
    let n := leAt j.desc 0x12 2
    if !balerCtxValid c || c.B ≤ j.slot || (j.op == 4 && (n == 0 || perBale c < n))
        || !consumerOk c (consumerEntry s c (consumerOf c j.slot)) then (2, 0x81)
    else
      let sp := ((balerSpans j).findSome? (fun p => let e := stookSpan s j.origin p; if e = 0 then none else some e)).getD 0
      let (o, n) := partOf c j
      if sp ≠ 0 then (3, sp)
      else if stepBeyond c.B j.step ∨ o + n > c.slot then (4, 0x05)
      else (0, 0)

/-- Is the window gate open (R250)? -/
def windowOpen (s : State) (d : Nat) (j : Job) : Bool :=
  let c := balerCtx s d j.jobId
  j.step + 1 ≤ counterVal s (releasedName j.jobId) + c.ringMin
    && (j.foreign || j.step ≤ counterVal s (deliveredName j.jobId))

/-! ## Pixels (R244 to R247) -/

/-- A sample of the input as read: little-endian in the 16-bit container and held to the bit depth. -/
def inputSample (s : State) (g : Image) (a : Nat) : Nat :=
  if g.wide then min (2 ^ g.bd - 1) (leNat (peek s a 2)) else leNat (peek s a 1)

/-- Y, Cb and Cr of a pixel. -/
def pixelOf (s : State) (g : Image) (f x y : Nat) : Nat × Nat × Nat :=
  let base := g.input + f * g.fstride
  let at_ (o pitch x y : Nat) : Nat := inputSample s g (base + o + y * pitch + x * g.b)
  let Y := at_ 0 g.yPitch x y
  if g.chroma = 2 then (Y, 2 ^ (g.bd - 1), 2 ^ (g.bd - 1))
  else
    let (cx, cy) := if g.chroma = 0 then (x / 2, y / 2) else (x, y)
    (Y, at_ g.cb g.cPitch cx cy, at_ g.cr g.cPitch cx cy)

/-- KY, KRV, KGU, KGV, KBU of a matrix and range (R245). -/
def matrixCoefs (m : Nat) (full : Bool) : Int × Int × Int × Int × Int :=
  match m, full with
  | 1, false => (19077, 26149, 6419, 13320, 33050)
  | 1, true => (16384, 22970, 5638, 11700, 29032)
  | 2, false => (19077, 29372, 3494, 8731, 34610)
  | 2, true => (16384, 25802, 3069, 7670, 30402)
  | _, false => (19077, 27503, 3069, 10657, 35091)
  | _, true => (16384, 24160, 2696, 9361, 30825)

/-- The channel values of a pixel (R245); channel 3 is not one of them. -/
def colourOf (g : Image) (p : Nat × Nat × Nat) : List Nat :=
  let (Y, cb, cr) := p
  if g.matrix = 0 then
    if g.channels = 1 then [Y] else if g.bgr then [cr, cb, Y] else [Y, cb, cr]
  else
    let o : Int := 2 ^ (g.bd - 8)
    let (ky, krv, kgu, kgv, kbu) := matrixCoefs g.matrix g.full
    let y : Int := Y - (if g.full then 0 else 16 * o)
    let u : Int := cb - 128 * o
    let v : Int := cr - 128 * o
    let fin (t : Int) : Nat := (max 0 (min ((2 : Int) ^ g.bd - 1) (t / 16384))).toNat
    if g.channels = 1 then [fin (ky * y + 8192)]
    else
      let rgb := [fin (ky * y + krv * v + 8192), fin (ky * y - kgu * u - kgv * v + 8192), fin (ky * y + kbu * u + 8192)]
      if g.bgr then rgb.reverse else rgb

/-- An FP32 value rounded to the nearest integer, ties to even, held to −128 to 127; NaN gives 0 (R246). -/
def toInt8 (v : FVal) : Int :=
  match v with
  | .nan => 0
  | .inf neg => if neg then -128 else 127
  | .fin neg m e =>
    let r : Nat := if e ≥ 0 then m * 2 ^ e.toNat
      else
        let k := (-e).toNat
        let q := m / 2 ^ k
        let rem := m % 2 ^ k
        if 2 * rem > 2 ^ k ∨ (2 * rem = 2 ^ k ∧ q % 2 = 1) then q + 1 else q
    max (-128) (min 127 (if neg then -(r : Int) else r))

/-- A channel value as an output element (R246). -/
def elementOf (g : Image) (c v : Nat) : List Byte :=
  match g.code with
  | 0 => depthBytes false g.bd v
  | 1 => leBytes 2 v
  | code =>
    let y := f32Mul (f32Sub (fp32.encode (fvOfInt v)) (g.mean.getD c 0)) (g.scale.getD c 0)
    let f := fp32.decode y
    match code with
    | 2 => leBytes 4 y
    | 3 => leBytes 2 (toFloat fp16 0 g.sat 0 f)
    | 4 => leBytes 2 (toFloat bfloat16 0 g.sat 0 f)
    | 5 => leBytes 1 (toFloat fp8e4 0 g.sat 0 f)
    | _ => leBytes 1 (wrap 8 (toInt8 f))

/-- Padding: the low 8 × e bits of PAD_BITS. -/
def padElement (g : Image) : List Byte := leBytes (elemBytes g.code) g.pad

/-- The element at a place of the tensor (R245 to R247). -/
def tensorElement (s : State) (g : Image) (f y x c : Nat) : List Byte :=
  if g.w ≤ x ∨ g.h ≤ y ∨ c = 3 then padElement g else elementOf g c ((colourOf g (pixelOf s g f x y)).getD c 0)

/-- The byte of an IMAGE extent at offset `t` (R247): of the element that lies there, or zero. -/
def imageByte (s : State) (g : Image) (t : Nat) : Byte :=
  let e := elemBytes g.code
  let f := t / g.fs
  let r := t % g.fs
  let (c, y, xo) := if g.nhwc then (0, r / g.rs, r % g.rs) else (r / g.cs, r % g.cs / g.rs, r % g.cs % g.rs)
  let (c, x, k) := if g.nhwc then (xo % g.cs / e, xo / g.cs, xo % g.cs % e) else (c, xo / e, xo % e)
  if c < g.channels ∧ y < g.ht ∧ x < g.wt then (tensorElement s g f y x c).getD k 0 else 0

/-! ## Running (R249, R255) -/

/-- The bytes of a part. -/
def partBytes (s : State) (c : BalerCtx) (j : Job) : List Byte :=
  let (_, n) := partOf c j
  match j.op with
  | 1 => (List.range n).map (imageByte s (imageOf j))
  | 2 => peek s (leAt j.desc 0x18 8) n
  | _ => List.replicate n 0

/-- Data from a slot address on, in writes of at most 1 MiB. -/
def splitWrites (a : Nat) (bs : List Byte) : List (Nat × List Byte) :=
  (List.range (ceilDiv bs.length 1048576)).map (fun k => (a + k * 1048576, (bs.drop (k * 1048576)).take 1048576))

/-- The map byte that a job writes, if it writes one (R242). -/
def jobMapByte (j : Job) : Option Nat :=
  if j.op = 3 then some (mapByte false true 15)
  else if j.final then some (mapByte true (j.attempt ≠ 0) j.attempt) else none

/-- The engine-specific record bytes (R255). -/
def balerEng (writes consumer map check : Nat) : List Byte :=
  leBytes 4 writes ++ leBytes 2 consumer ++ leBytes 1 map ++ leBytes 1 check ++ leBytes 8 0

/-- The writes of a job: address, data, immediate. -/
def balerWrites (s : State) (c : BalerCtx) (e : Consumer) (j : Job) : List (Nat × List Byte × Option Nat) :=
  if j.op = 4 then [(baleBase e j.step, [], some (j.step % 65536 * 65536 + leAt j.desc 0x12 2))]
  else
    (splitWrites (slotAddr c e j.step j.slot + (partOf c j).1) (partBytes s c j)).map (fun w => (w.1, w.2, none))
      ++ ((jobMapByte j).elim [] (fun m => [(mapAddr c e j.step j.slot, [BitVec.ofNat 8 m], none)]))

/-- The consumer field of a record: known once check 2 reads the table. -/
def balerConsumer (s : State) (d : Nat) (j : Job) : Nat :=
  let c := balerCtx s d j.jobId
  if balerCtxValid c && j.slot < c.B then consumerOf c j.slot else 0

/-- A job that has passed checks 1 to 4 reads its input (R252). -/
def balerWork (d : Nat) (s : State) (j : Job) : Started :=
  let c := balerCtx s d j.jobId
  let (_, bad, s1) := readRows s (unitMaster (.baler d)) (balerSpans j)
  let eng := balerEng 0 (consumerOf c j.slot) 0 0
  if bad then failWith s1 0x80 eng
  else
    let ws := balerWrites s c (consumerEntry s c (consumerOf c j.slot)) j
    { status := 0, xfer := ws.foldl (fun n w => n + w.2.1.length) 0, aux := [ws.length], st := s1,
      eng := balerEng 0 (consumerOf c j.slot) ((jobMapByte j).getD 0) 0 }

/-- The lines that check 2 reads: the job's context and its consumer's entry. -/
def balerCheckReads (s : State) (d : Nat) (j : Job) : List Span :=
  if !balerFieldsOk j then []
  else
    let c := balerCtx s d j.jobId
    [(balerCtxAddr s d j.jobId, 64), (c.table + 32 * consumerOf c j.slot, 32)]

/-- Checks 1 to 4 with the reads of check 2 (R243): the outcome that ends the job there, if one does, and the state. The context
is tested before the consumer's entry is read; a poisoned one ends the job with 0x80 at check 2 (R324; log entry 42). -/
def balerChecks (s : State) (d : Nat) (j : Job) : Option Started × State :=
  let m := unitMaster (.baler d)
  let c := balerCtx s d j.jobId
  let fails (s : State) (st consumer chk : Nat) : Option Started × State :=
    (some (failWith s st (balerEng 0 consumer 0 chk)), s)
  if !balerFieldsOk j then fails s 0x81 0 1
  else
    let (bad, s1) := readSpans s m [(balerCtxAddr s d j.jobId, 64)]
    if bad then fails s1 0x80 0 2
    else if !balerCtxValid c || c.B ≤ j.slot then fails s1 0x81 0 2
    else
      let (bad, s2) := readSpans s1 m [(c.table + 32 * consumerOf c j.slot, 32)]
      if bad then fails s2 0x80 (balerConsumer s d j) 2
      else
        let (chk, st) := balerEarly s d j
        if chk ≠ 0 then fails s2 st (balerConsumer s d j) chk else (none, s2)

/-- What a job reads: its context, its consumer's entry, its input, its group entry. -/
def balerReads (d : Nat) (s : State) (j : Job) : List Span :=
  let c := balerCtx s d j.jobId
  let e := consumerEntry s c (consumerOf c j.slot)
  balerCheckReads s d j ++ [(s.fld Fld.ROCE_GROUP_BASE_BASE 0 * 4096 + e.group * 4, 4)] ++ balerSpans j

/-- A started job hands its writes to the RoCE engine; one that failed a check is over. -/
def balerLaunch (s : State) (d : Nat) (j : Job) : State :=
  match (jobsOf s (.baler d)).find? (fun k => k.seq = j.seq) with
  | none => s
  | some k =>
    if k.phase ≠ .running then s
    else if k.status ≠ 0 then updateJob s (.baler d) j.seq (fun k => { k with phase := .ended, xfer := 0, eng := putAt k.eng 6 [0] })
    else
      let c := balerCtx s d j.jobId
      let e := consumerEntry s c (consumerOf c j.slot)
      let ws := (balerWrites s c e j).map (fun w => (⟨d, j.seq, e.group, w.1, e.rkey, w.2.1, w.2.2⟩ : BaleWrite))
      pumpBales { s with outbox := s.outbox ++ ws }

/-- A job that has passed its checks starts (R249), its checks' reads made in `t`. -/
def balerBegin (s t : State) (d : Nat) (j : Job) : State :=
  let u : EngUnit := .baler d
  match prepare s (unitMaster u) (balerReads d s j) [] with
  | .stall s => s
  | .go => balerLaunch (dropHost (startJob u j (internalParity u (balerWork d t j))) (unitMaster u)) d j

/-- The held jobs of a baler whose gate is open, first enqueued first. -/
def openHeld (s : State) (d : Nat) : List Job :=
  (jobsOf s (.baler d)).filter (fun j => j.phase = .held ∧ windowOpen s d j)

/-- Take the next job of the queue (R243, R251): it ends at its checks, is held by the window gate, waits because 32 are held, 8
run or an earlier held job may start, or starts. -/
def balerTake (s : State) (d op : Nat) : State :=
  let u : EngUnit := .baler d
  match firstWaiting s u with
  | none => s
  | some j =>
    if !takesOp [1, 2, 3, 4, 5] op j then s
    else
      match prepare s (unitMaster u) (balerCheckReads s d j) [] with
      | .stall s => s
      | .go =>
        match balerChecks s d j with
        | (some r, _) => dropHost (refuseJob u j r) (unitMaster u)
        | (none, t) =>
          if !windowOpen s d j then
            if phaseCount (jobsOf s u) .held < 32 then
              dropHost (updateJob t u j.seq (fun j => { j with phase := .held, eng := balerEng 0 (balerConsumer s d j) 0 0 }))
                (unitMaster u)
            else s
          else if 8 ≤ phaseCount (jobsOf s u) .running || !(openHeld s d).isEmpty then s
          else balerBegin s t d j

/-- A held job whose gate is open starts: job `i` of those held, if it is the first of them (R250). -/
def balerGate (s : State) (d i : Nat) : State :=
  match ((jobsOf s (.baler d)).filter (fun j => j.phase = .held))[i]? with
  | none => s
  | some j =>
    if (openHeld s d).head?.all (fun k => k.seq ≠ j.seq) || phaseCount (jobsOf s (.baler d)) .running ≥ 8 then s
    else balerBegin s s d j

/-- The slots that a job which ended OK has written, as CAIRN counts them (R445): a FINAL one for another module, or a void. -/
def tallySlot (s : State) (j : Job) : State :=
  let t := Cells.get (fun _ => ({} : JobTally)) s.tally j.jobId
  let put (t : JobTally) : State := { s with tally := Cells.put (fun _ => {}) s.tally j.jobId t }
  if j.op = 3 then put { t with voids := t.voids + 1 }
  else if j.foreign then put { t with replaced := t.replaced + 1 }
  else s

/-- BALER_SLOTS.FINAL and firmware's own counts after a job that ended OK. -/
def countBale (s : State) (d : Nat) (j : Job) : State :=
  if j.status = 0 ∧ (j.final ∨ j.op = 3) then tallySlot (s.satAdd Fld.BALER_SLOTS_FINAL d 1) j else s

/-- The replacement that this module processes as its own sample has filled its slot (R229, R46). -/
def ownReplacement (s : State) (d : Nat) (j : Job) : State :=
  let p := j.step * (balerCtx s d j.jobId).B + j.slot
  match tryOf s j.jobId p with
  | some t =>
    if j.status = 0 ∧ j.final ∧ ¬j.foreign ∧ t.phase = .here ∧ t.attempt = j.attempt then
      { dropTry s j.jobId p with slots := s.slots ++ [⟨j.jobId, p, true⟩] }
    else s
  | none => s

/-- A job ends: job `i` of those whose outcome is final (R249, R251). -/
def balerEnd (s : State) (d i : Nat) : State :=
  let u : EngUnit := .baler d
  let s := pumpBales s
  match ((jobsOf s u).filter (fun j => j.phase = .ended))[i]? with
  | none => s
  | some j =>
    match endReady s u j with
    | .stall s => s
    | .go =>
      let c := balerCtx s d j.jobId
      (endBeyond (ownReplacement (countBale (endJob s u j) d j) d j) j (balerCtxValid c && stepBeyond c.B j.step)).modAdd
        Fld.BALER_STATUS_DONE d 1

/-- A write of BALER_ABORT (R253): no further writes of the jobs aborted. -/
def writeBalerAbort (s : State) (d : Nat) (a : CsrAcc) : State :=
  let s := writeAbort s (.baler d) Fld.BALER_ABORT_TAG Fld.BALER_ABORT_JOB Fld.BALER_ABORT_RES_STATUS Fld.BALER_ABORT_RES_COUNT d a
  { s with outbox := s.outbox.filter (fun w => w.die ≠ d || (balerJob s d w.seq).isSome) }

/-- IMAGE (R244). -/
def execBalerImage (d : PDie) (s : State) : Host.Outcome State Fault Refusal := .next (balerTake s d 1)

/-- BALER_COPY (R242). -/
def execBalerCopy (d : PDie) (s : State) : Host.Outcome State Fault Refusal := .next (balerTake s d 2)

/-- BALER_VOID (R242). -/
def execBalerVoid (d : PDie) (s : State) : Host.Outcome State Fault Refusal := .next (balerTake s d 3)

/-- BALER_CLOSE (R45, R242). -/
def execBalerClose (d : PDie) (s : State) : Host.Outcome State Fault Refusal := .next (balerTake s d 4)

/-- ZERO (R242). -/
def execBalerZero (d : PDie) (s : State) : Host.Outcome State Fault Refusal := .next (balerTake s d 5)

/-- WINDOW_GATE_OPEN (R250): job `i` of the held jobs. -/
def execWindowGateOpen (d : PDie) (i : Nat) (s : State) : Host.Outcome State Fault Refusal := .next (balerGate s d i)

/-- BALER_JOB_END (R249): job `i` of those whose outcome is final. -/
def execBalerJobEnd (d : PDie) (i : Nat) (s : State) : Host.Outcome State Fault Refusal := .next (balerEnd s d i)

/-- BALER_ABORT (R253). -/
def execBalerAbort (d : PDie) (a : CsrAcc) (s : State) : Host.Outcome State Fault Refusal :=
  .next (onPdie s (fun s => writeBalerAbort s d a))

end Sys2Proof.Machine
end

