-- ==== Sys2Proof/Machine/Aes.lean ====
section
/-!
DEFINITION. AES-256-XTS as R310 uses it (FIPS 197 and IEEE 1619, named there): data units of whole blocks.
-/
namespace Sys2Proof.Machine

/-- Multiplication by x in the field of AES. -/
def aesX (a : Nat) : Nat := let b := a * 2 % 256; if a < 128 then b else b ^^^ 0x1B

/-- Product in the field of AES. -/
def aesMul (a b : Nat) : Nat :=
  ((List.range 8).foldl (fun (p : Nat × Nat) i => (if b.testBit i then p.1 ^^^ p.2 else p.1, aesX p.2)) (0, a)).1

/-- The inverse of a byte, 0 for 0: its 254th power. -/
def aesInv (a : Nat) : Nat := (List.range 253).foldl (fun r _ => aesMul r a) a

/-- A byte rotated left. -/
def rol8 (a n : Nat) : Nat := (a * 2 ^ n + a / 2 ^ (8 - n)) % 256

/-- SubBytes on one byte. -/
def aesSub (a : Nat) : Nat := let b := aesInv a; b ^^^ rol8 b 1 ^^^ rol8 b 2 ^^^ rol8 b 3 ^^^ rol8 b 4 ^^^ 0x63

/-- Its inverse. -/
def aesUnsub (a : Nat) : Nat := aesInv (rol8 a 1 ^^^ rol8 a 3 ^^^ rol8 a 6 ^^^ 0x05)

/-- Bytewise exclusive or. -/
def xorBytes (a b : List Nat) : List Nat := (a.zip b).map (fun p => p.1 ^^^ p.2)

/-- The first `n` words of the key schedule of a 32-byte key. -/
def aesSchedule (key : List Nat) : Nat → List (List Nat)
  | 0 => []
  | n + 1 =>
    let ws := aesSchedule key n
    let w := if n < 8 then (key.drop (4 * n)).take 4
      else
        let t := ws.getD (n - 1) []
        let t := if n % 8 = 0 then
            xorBytes ((t.drop 1 ++ t.take 1).map aesSub) [(List.range (n / 8 - 1)).foldl (fun c _ => aesX c) 1, 0, 0, 0]
          else if n % 8 = 4 then t.map aesSub else t
        xorBytes (ws.getD (n - 8) []) t
    ws ++ [w]

/-- The 15 round keys of AES-256. -/
def aesKeys (key : List Nat) : List (List Nat) :=
  let ws := aesSchedule key 60
  (List.range 15).map (fun r => ((ws.drop (4 * r)).take 4).flatten)

/-- ShiftRows; `dir` is 1, or 3 for its inverse. -/
def aesShift (dir : Nat) (b : List Nat) : List Nat :=
  (List.range 16).map (fun i => b.getD ((i + dir * 4 * (i % 4)) % 16) 0)

/-- MixColumns with a row of coefficients. -/
def aesMix (c b : List Nat) : List Nat :=
  (List.range 16).map (fun i =>
    (List.range 4).foldl (fun a j => a ^^^ aesMul (c.getD ((j + 4 - i % 4) % 4) 0) (b.getD (i / 4 * 4 + j) 0)) 0)

/-- Encrypt one block. -/
def aesEncrypt (keys : List (List Nat)) (b : List Nat) : List Nat :=
  (List.range 14).foldl (fun b r =>
    let b := aesShift 1 (b.map aesSub)
    xorBytes (if r = 13 then b else aesMix [2, 3, 1, 1] b) (keys.getD (r + 1) [])) (xorBytes b (keys.getD 0 []))

/-- Decrypt one block. -/
def aesDecrypt (keys : List (List Nat)) (b : List Nat) : List Nat :=
  (List.range 14).foldl (fun b r =>
    let b := (aesShift 3 b).map aesUnsub
    let b := xorBytes b (keys.getD (13 - r) [])
    if r = 13 then b else aesMix [14, 11, 13, 9] b) (xorBytes b (keys.getD 14 []))

/-- The tweak of the next block: times x in the field of XTS. -/
def xtsNext (t : List Nat) : List Nat :=
  let v := leNat (t.map (BitVec.ofNat 8))
  let w := v * 2 % 2 ^ 128
  (leBytes 16 (if v < 2 ^ 127 then w else w ^^^ 0x87)).map BitVec.toNat

/-- The blocks of a data unit through the cipher, with their tweaks. -/
def xtsBlocks (f : List Nat → List Nat) : Nat → List Nat → List Nat → List Nat
  | 0, _, _ => []
  | n + 1, t, d => xorBytes (f (xorBytes (d.take 16) t)) t ++ xtsBlocks f n (xtsNext t) (d.drop 16)

/-- AES-256-XTS of a granule (R310): four data units of 4,096 bytes, unit j with tweak LGN × 4 + j. -/
def xtsGranule (enc : Bool) (key : List Byte) (lgn : Nat) (d : List Byte) : List Byte :=
  let k := key.map BitVec.toNat
  let k1 := aesKeys (k.take 32)
  let k2 := aesKeys (k.drop 32)
  let f := if enc then aesEncrypt k1 else aesDecrypt k1
  (List.range 4).flatMap (fun j =>
    let t := aesEncrypt k2 ((leBytes 16 (lgn * 4 + j)).map BitVec.toNat)
    (xtsBlocks f 256 t (((d.drop (4096 * j)).take 4096).map BitVec.toNat)).map (BitVec.ofNat 8))

end Sys2Proof.Machine
end

