-- ==== Sys2Proof/Machine/Flash.lean ====
section
/-!
DEFINITION. Flash media: places, superblocks, streams, retirement, metadata, the map cache (R282 to R285, R296 to R313).
-/
namespace Sys2Proof.Machine

/-! ## State -/

/-- The key of a volume. -/
def volKey (x v : Nat) : Nat := x * 16 + v
/-- A volume. -/
def volOf (s : State) (x v : Nat) : FlVol := Cells.get (fun _ => {}) s.flash.vols (volKey x v)
/-- The state with a volume changed. -/
def setVol (s : State) (x v : Nat) (w : FlVol) : State :=
  { s with flash := { s.flash with vols := Cells.put (fun _ => {}) s.flash.vols (volKey x v) w } }
/-- The geometry of an X-die. -/
def geoOf (s : State) (x : Nat) : NandGeo := Cells.get (fun _ => {}) s.flash.geo x
/-- Pages per block. -/
def ppbOf (s : State) (x : Nat) : Nat := (geoOf s x).ppb
/-- Blocks per die. -/
def bpdOf (s : State) (x : Nat) : Nat := (geoOf s x).bpd
/-- FIRST_GROUP. -/
def firstGroup (s : State) (x v : Nat) : Nat := s.fld Fld.FL_VOL_CFG_FIRST_GROUP (volKey x v)
/-- GROUP_COUNT. -/
def groupCount (s : State) (x v : Nat) : Nat := s.fld Fld.FL_VOL_CFG_GROUP_COUNT (volKey x v)
/-- Superblocks of a volume. -/
def sbCount (s : State) (x v : Nat) : Nat := groupCount s x v * bpdOf s x
/-- The logical capacity LC. -/
def volLc (s : State) (x v : Nat) : Nat := s.fld Fld.FL_VOL_CAP_LC (volKey x v)
/-- The volume's state (R312). -/
def volState (s : State) (x v : Nat) : Nat := s.fld Fld.FL_VOL_STATE_STATE (volKey x v)
/-- An entry that maps nothing. -/
def unmapped : Nat := 0xFFFFFFFF
/-- The key of the metadata of a volume in the die groups configured for it (R466). -/
def metaKey (s : State) (x v : Nat) : Nat := (volKey x v * 64 + firstGroup s x v) * 128 + groupCount s x v
/-- Metadata of a volume on flash, in its die groups. -/
def metaOf (s : State) (x v : Nat) : Option FlMeta := Cells.get (fun _ => none) s.flash.metas (metaKey s x v)
/-- The state with a volume's metadata replaced. -/
def setMeta (s : State) (x v : Nat) (m : Option FlMeta) : State :=
  { s with flash := { s.flash with metas := Cells.put (fun _ => none) s.flash.metas (metaKey s x v) m } }
/-- The map changes since the metadata was written. -/
def logOf (s : State) (x v : Nat) : List (Nat × Nat) := Cells.get (fun _ => []) s.flash.logs (metaKey s x v)
/-- The state with that log replaced. -/
def setLog (s : State) (x v : Nat) (l : List (Nat × Nat)) : State :=
  { s with flash := { s.flash with logs := Cells.put (fun _ => []) s.flash.logs (metaKey s x v) l } }

/-! ## Places (R284, R285) -/

/-- The key of page `p` of block `b` of die `i` of die group `g`. -/
def pageKey (x g b p i : Nat) : Nat := (((x * 64 + g) * 65536 + b) * 4096 + p) * 16 + i

/-- The first page key of a superblock of a volume. -/
def sbBase (s : State) (x v sb : Nat) : Nat := pageKey x (firstGroup s x v + sb / bpdOf s x) (sb % bpdOf s x) 0 0

/-- The superblock of a physical granule. -/
def sbOfPgn (s : State) (x pgn : Nat) : Nat := pgn / 16 / ppbOf s x

/-- The page key of a physical granule. -/
def pgnKey (s : State) (x v pgn : Nat) : Nat := sbBase s x v (sbOfPgn s x pgn) + pgn % (ppbOf s x * 16)

/-- The page at a physical granule number, if one has been programmed since the block's last erase. -/
def pageAt (s : State) (x v pgn : Nat) : Option FlPage :=
  let k := pgnKey s x v pgn
  (s.flash.pages.find? (fun e => e.1 == k)).map Prod.snd

/-- The value of an absent page; no command programs it. -/
def noPage : FlPage := { vol := 16, lgn := 0 }

/-- Program a page. -/
def putPage (s : State) (k : Nat) (p : FlPage) : State :=
  { s with flash := { s.flash with pages := Cells.put (fun _ => noPage) s.flash.pages k p } }

/-- Is the die at position `i` of a die group failed? -/
def dieDead (s : State) (x g i : Nat) : Bool := floorBit s (15 + 16 * x + i) g || nandFailed s (16 * x + i)

/-- The positions of a die group without a working die. -/
def deadMask (s : State) (x g : Nat) : Nat := ((List.range 16).filter (dieDead s x g)).foldl (fun m i => m + 2 ^ i) 0

/-- The number of set bits among 16. -/
def ones16 (m : Nat) : Nat := ((List.range 16).filter (fun i => m.testBit i)).length

/-- Good positions of a superblock with these positions retired; fewer than 8 count as none (R303). -/
def goodPositions (mask : Nat) : Nat := let n := 16 - ones16 mask; if n < 8 then 0 else n

/-- A superblock. -/
def sbOf (w : FlVol) (sb : Nat) : FlSb := Cells.get (fun _ => {}) w.sbs sb

/-- The state with a superblock changed. -/
def setSb (s : State) (x v sb : Nat) (b : FlSb) : State :=
  let w := volOf s x v
  setVol s x v { w with sbs := Cells.put (fun _ => {}) w.sbs sb b }

/-- The positions of a superblock that are not used: retired, or on dead dies (R306). -/
def badMask (s : State) (x v sb : Nat) : Nat :=
  (sbOf (volOf s x v) sb).bad ||| deadMask s x (firstGroup s x v + sb / bpdOf s x)

/-- Good positions of a superblock. -/
def sbGood (s : State) (x v sb : Nat) : Nat := goodPositions (badMask s x v sb)

/-- The listed superblocks of a volume's group k. -/
def listedIn (s : State) (x v k : Nat) : List Nat :=
  ((volOf s x v).sbs.map Prod.fst).filter (fun sb => sb / bpdOf s x == k && sb < sbCount s x v)

/-- Good physical granules G (R306). -/
def goodGranules (s : State) (x v : Nat) : Nat :=
  ppbOf s x * ((List.range (groupCount s x v)).foldl (fun n k =>
    let l := listedIn s x v k
    n + (bpdOf s x - l.length) * goodPositions (deadMask s x (firstGroup s x v + k))
      + l.foldl (fun n sb => n + sbGood s x v sb) 0) 0)

/-- Free superblocks of a volume. -/
def freeCount (s : State) (x v : Nat) : Nat :=
  (List.range (groupCount s x v)).foldl (fun n k =>
    let l := listedIn s x v k
    n + (if goodPositions (deadMask s x (firstGroup s x v + k)) = 0 then 0 else bpdOf s x - l.length)
      + (l.filter (fun sb => (sbOf (volOf s x v) sb).phase = .free && sbGood s x v sb ≠ 0)).length) 0

/-- The lowest superblock that is not listed and has good positions: free, never erased. -/
def freshSb (s : State) (x v : Nat) : Option Nat :=
  let w := volOf s x v
  (List.range (groupCount s x v)).findSome? (fun k =>
    if goodPositions (deadMask s x (firstGroup s x v + k)) = 0 then none
    else
      ((List.range (min (bpdOf s x) ((listedIn s x v k).length + 1))).map (k * bpdOf s x + ·)).find? (fun sb =>
        !w.sbs.any (fun e => e.1 == sb)))

/-- The free superblock of lowest erase count, then lowest number (R302). -/
def nextFree (s : State) (x v : Nat) : Option Nat :=
  let w := volOf s x v
  let listed := (w.sbs.filter (fun e => e.2.phase = .free && sbGood s x v e.1 ≠ 0 && e.1 < sbCount s x v)).map
    (fun e => (e.2.erase, e.1))
  let all := (match freshSb s x v with | some sb => [(0, sb)] | none => []) ++ listed
  (all.foldl (fun (best : Option (Nat × Nat)) e =>
    match best with
    | none => some e
    | some b => if e.1 < b.1 ∨ (e.1 = b.1 ∧ e.2 < b.2) then some e else some b) none).map Prod.snd

/-- The lowest and the highest erase count of a good superblock. -/
def eraseRange (s : State) (x v : Nat) : Nat × Nat :=
  let es := ((volOf s x v).sbs.filter (fun e => sbGood s x v e.1 ≠ 0)).map (fun e => e.2.erase)
  let es := if (freshSb s x v).isSome then 0 :: es else es
  (es.foldl min (es.getD 0 0), es.foldl max 0)

/-! ## Volume states (R307, R312) -/

/-- Record state and cause in the metadata (R307). -/
def recordState (s : State) (x v st cause : Nat) : State :=
  match metaOf s x v with
  | some m => setMeta s x v (some { m with st := st, cause := cause })
  | none => s

/-- Change a volume's state, raising its source (R312). -/
def setVolState (s : State) (x v st cause : Nat) : State :=
  if volState s x v = st then s
  else
    let s := (s.setFld Fld.FL_VOL_STATE_STATE (volKey x v) st).setFld Fld.FL_VOL_STATE_RO_CAUSE (volKey x v) cause
    raiseSource s (400 + 64 * x + v)

/-- A volume becomes READONLY (R307); garbage collection stops. -/
def makeReadonly (s : State) (x v cause : Nat) : State :=
  if volState s x v ≠ 3 then s
  else
    let s := setVol s x v { volOf s x v with gc := false, victim := none }
    recordState (setVolState s x v 4 cause) x v 4 cause

/-- Map pages and data granules at a logical capacity. -/
def neededGranules (lc : Nat) : Nat := lc + ceilDiv lc 4096

/-- MEDIA_WORN when G has fallen too low (R307). -/
def checkWorn (s : State) (x v : Nat) : State :=
  if 100 * goodGranules s x v < 102 * neededGranules (volLc s x v) then makeReadonly s x v 0x0A else s

/-- Retire positions of a superblock (R303). -/
def retire (s : State) (x v sb mask : Nat) : State :=
  let b := sbOf (volOf s x v) sb
  let new := b.bad ||| mask
  let new := if goodPositions (new ||| deadMask s x (firstGroup s x v + sb / bpdOf s x)) = 0 then 0xFFFF else new
  let s := setSb s x v sb { b with bad := new }
  let s := s.modAdd Fld.FL_VOL_CNT_RETIRED (volKey x v) (ones16 new - ones16 b.bad)
  checkWorn s x v

/-- The erase limit that acts. -/
def eraseLimit (s : State) (x v : Nat) : Nat :=
  let l := s.fld Fld.FL_VOL_CFG_ERASE_LIMIT (volKey x v)
  if l = 0 then 65535 else l

/-- The parity set of a superblock is released (R298, R300). -/
def dropParity (s : State) (x v sb : Nat) : State :=
  let r := sbBase s x v sb / 16
  { s with flash := { s.flash with parity := Cells.drop (fun k => r ≤ k && k < r + 4096) s.flash.parity } }

/-- Erase a superblock (R302, R303): it is free, and positions that failed, or all at the limit, are retired. -/
def eraseSb (s : State) (x v sb : Nat) (fails : List Nat) : State :=
  let base := sbBase s x v sb
  let s := dropParity s x v sb
  let s := { s with flash := { s.flash with pages := Cells.drop (fun k => base ≤ k && k < base + 65536) s.flash.pages } }
  let w := volOf s x v
  let s := setVol s x v { w with repair := w.repair.filter (fun e => sbOfPgn s x e.2 ≠ sb) }
  let b := sbOf (volOf s x v) sb
  let s := setSb s x v sb { b with phase := .free, erase := b.erase + 1 }
  let bad := ((List.range 16).filter (fun i => fails.contains (sb * 16 + i))).foldl (fun m i => m + 2 ^ i) 0
  if eraseLimit s x v ≤ b.erase + 1 then retire s x v sb 0xFFFF else if bad = 0 then s else retire s x v sb bad

/-! ## Valid granules -/

/-- Physical granules that the map or the map directory names in a superblock. -/
def validIn (s : State) (x v sb : Nat) : List (Bool × Nat × Nat) :=
  let w := volOf s x v
  let here (e : Nat × Nat) : Bool := sbOfPgn s x e.2 == sb
  (w.map.filter here).map (fun e => (false, e.1, e.2)) ++ (w.mapLoc.filter here).map (fun e => (true, e.1, e.2))

/-- Pages programmed in a superblock. -/
def programmedIn (s : State) (x v sb : Nat) : Nat :=
  let base := sbBase s x v sb
  (s.flash.pages.filter (fun e => base ≤ e.1 && e.1 < base + 65536)).length

/-- Does a superblock that is filled or closed hold an invalid granule (R307)? -/
def someInvalid (s : State) (x v : Nat) : Bool :=
  (volOf s x v).sbs.any (fun e => (e.2.phase = .closed || e.2.phase = .filled)
    && (validIn s x v e.1).length < programmedIn s x v e.1)

/-! ## Streams (R298 to R302) -/

/-- Two pages combined by exclusive or; a page that is shorter counts as zero beyond its end. -/
def xorPages : List Byte → List Byte → List Byte
  | [], b => b
  | a, [] => a
  | x :: a, y :: b => (x ^^^ y) :: xorPages a b

/-- The programmed pages of a page row, but for one (by page key). -/
def rowOthers (s : State) (k : Nat) : List (Nat × FlPage) := s.flash.pages.filter (fun e => e.1 / 16 == k / 16 && e.1 != k)

/-- The data of a page rebuilt from its row's parity page and the row's other pages (R298, R301). -/
def rebuildData (s : State) (k : Nat) : List Byte :=
  (rowOthers s k).foldl (fun d e => xorPages d e.2.data) (Cells.get (fun _ => []) s.flash.parity (k / 16))

/-- Program a page of an open superblock: its row's parity page takes its data in (R298). -/
def programAt (s : State) (k : Nat) (p : FlPage) : State :=
  let s := putPage s k p
  let q := Cells.get (fun _ => []) s.flash.parity (k / 16)
  { s with flash := { s.flash with parity := Cells.put (fun _ => []) s.flash.parity (k / 16) (xorPages q p.data) } }

/-- The outcome of writing a page: its place, or the operation waits, or it fails. -/
inductive Prog where
  | ok (pgn : Nat) (s : State)
  | wait (s : State)
  | fail (code : Nat) (s : State)

/-- Parity sets in use on an X-die (R298): of every superblock open or waiting for verification. -/
def parityBusy (s : State) (x : Nat) : Nat :=
  (List.range 16).foldl (fun n v =>
    n + ((volOf s x v).sbs.filter (fun e => e.2.phase = .opened || e.2.phase = .filled)).length) 0

/-- The next page of a stream, skipping positions. -/
def nextPage (s : State) (x : Nat) (t : FlStream) : Option Nat :=
  ((List.range 16).map (t.next + ·)).find? (fun n => n < ppbOf s x * 16 && !t.skip.testBit (n % 16))

/-- A stream of a volume. -/
def streamOf (w : FlVol) (host : Bool) : Option FlStream := if host then w.host else w.reloc

/-- The volume with a stream replaced. -/
def setStream (w : FlVol) (host : Bool) (t : Option FlStream) : FlVol := if host then { w with host := t } else { w with reloc := t }

/-- Open a superblock for a stream that has none (R298, R302, R304, R307). -/
def openSb (s : State) (x v : Nat) (host : Bool) : Prog :=
  let free := freeCount s x v
  if host && free ≤ 1 then
    if someInvalid s x v then .wait s else .fail 0x09 (makeReadonly s x v 0x09)
  else if 16 ≤ parityBusy s x then .wait s
  else
    match nextFree s x v with
    | none => .wait s
    | some sb =>
      let s := setSb s x v sb { sbOf (volOf s x v) sb with phase := .opened }
      .ok 0 (setVol s x v (setStream (volOf s x v) host (some ⟨sb, badMask s x v sb, 0⟩)))

/-- Take the next page of a stream: its physical granule number. A superblock whose last row is taken is filled. -/
def takePage (s : State) (x v : Nat) (host : Bool) : Prog :=
  let opened : Prog := if (streamOf (volOf s x v) host).isSome then .ok 0 s else openSb s x v host
  match opened with
  | .wait s => .wait s
  | .fail c s => .fail c s
  | .ok _ s =>
    match streamOf (volOf s x v) host with
    | none => .wait s
    | some t =>
      match nextPage s x t with
      | none => .wait s
      | some n =>
        let t' := { t with next := n + 1 }
        let s := if (nextPage s x t').isSome then setVol s x v (setStream (volOf s x v) host (some t'))
          else
            let s := setVol s x v (setStream (volOf s x v) host none)
            setSb s x v t.sb { sbOf (volOf s x v) t.sb with phase := .filled }
        .ok (t.sb * ppbOf s x * 16 + n) s

/-- Point the map at a granule's new page. Its map page becomes dirty, cached or not. -/
def setMap (s : State) (x v lgn pgn : Nat) : State :=
  let w := volOf s x v
  let c : List MapPg := Cells.get (fun _ => []) s.flash.cache x
  let q := lgn / 4096
  let late := if c.any (fun p => p.vol = v ∧ p.q = q) ∨ w.changed.contains q then w.changed else w.changed ++ [q]
  let s := setVol s x v { w with map := Cells.put (fun _ => unmapped) w.map lgn pgn, changed := late }
  let s := setLog s x v (logOf s x v ++ [(lgn, pgn)])
  let c := c.map (fun p => if p.vol = v ∧ p.q = q then { p with dirty := true } else p)
  { s with flash := { s.flash with cache := Cells.put (fun _ => []) s.flash.cache x c } }

/-- Point the map or the map directory at a page's new place. -/
def setPlace (s : State) (x v : Nat) (isMap : Bool) (n pgn : Nat) : State :=
  if isMap then
    let w := volOf s x v
    setVol s x v { w with mapLoc := Cells.put (fun _ => unmapped) w.mapLoc n pgn }
  else setMap s x v n pgn

/-- Program a page through a stream (R299, R300, R303): a page that fails to program, or lies on a dead die, retires its
block, and the page is written at the next position. `fails` counts the failures still to come; the places of those met are
collected. -/
def programPage (x v : Nat) (host : Bool) (p : FlPage) : Nat → Nat → List Nat → State → Prog × List Nat
  | 0, _, met, s => (.wait s, met)
  | fuel + 1, fails, met, s =>
    match takePage s x v host with
    | .wait s => (.wait s, met)
    | .fail c s => (.fail c s, met)
    | .ok pgn s =>
      let sb := sbOfPgn s x pgn
      let i := pgn % 16
      let dead := dieDead s x (firstGroup s x v + sb / bpdOf s x) i
      if dead || fails ≠ 0 then
        programPage x v host p fuel (if dead then fails else fails - 1) (met ++ [pgn]) (retire s x v sb (2 ^ i))
      else
        let w := volOf s x v
        let s := setVol s x v { w with seq := w.seq + 1 }
        (.ok pgn (programAt s (pgnKey s x v pgn) { p with seq := w.seq }), met)

/-- Program a page and point the map or the map directory at it, and the places where programming failed. -/
def placePage (s : State) (x v : Nat) (host : Bool) (p : FlPage) (fails : Nat) : Prog × List Nat :=
  match programPage x v host p (fails + 17) fails [] s with
  | (.ok pgn s, met) => (.ok pgn (setPlace s x v p.isMap p.lgn pgn), met)
  | r => r

/-- Are the other programmed pages of a page's row on working dies and whole? -/
def rowReadable (s : State) (x v pgn : Nat) : Bool :=
  let g := firstGroup s x v + sbOfPgn s x pgn / bpdOf s x
  (rowOthers s (pgnKey s x v pgn)).all (fun e => !dieDead s x g (e.1 % 16) && !e.2.torn)

/-- After a program failure at a place, the pages that the read-back finds damaged on earlier rows of that block (R300): the
stream that failed is to write their granules again. -/
def noteDamage (s : State) (x v : Nat) (host : Bool) (rows : List Nat) (place : Nat) : State :=
  let at_ (row : Nat) : Nat := sbOfPgn s x place * ppbOf s x * 16 + row * 16 + place % 16
  let ps := (rows.eraseDups.map at_).filter (fun n => n < place && (pageAt s x v n).isSome)
  let s := ps.foldl (fun s n => match pageAt s x v n with
    | some p => putPage s (pgnKey s x v n) { p with torn := true }
    | none => s) s
  let w := volOf s x v
  setVol s x v { w with repair := w.repair ++ (ps.map (fun n => (host, n))).filter (fun e => !w.repair.contains e) }

/-- The volume with a damaged page taken off its list. -/
def dropRepair (s : State) (x v : Nat) (e : Bool × Nat) : State :=
  let w := volOf s x v
  setVol s x v { w with repair := w.repair.filter (· ≠ e) }

/-- Write the granule of a damaged page again, rebuilt from its row's parity (R300), if the map still names the page; where the
row cannot be read it stays as it is. -/
def repairOne (s : State) (x v : Nat) (e : Bool × Nat) : Prog :=
  match pageAt s x v e.2 with
  | none => .ok 0 (dropRepair s x v e)
  | some p =>
    if !((validIn s x v (sbOfPgn s x e.2)).any (fun g => g.2.2 == e.2)) || !rowReadable s x v e.2 then .ok 0 (dropRepair s x v e)
    else
      match (placePage s x v e.1 { p with data := rebuildData s (pgnKey s x v e.2), torn := false } 0).1 with
      | .ok n t =>
        let t := (dropRepair t x v e).satAdd Fld.FL_PARREC_PARITY x 1
        .ok n (setVol t x v { volOf t x v with rebuilt := (volOf t x v).rebuilt + 1 })
      | r => r

/-- Write again what a stream has to, as far as it can. -/
def doRepairs (s : State) (x v : Nat) (host : Bool) : Prog :=
  ((volOf s x v).repair.filter (·.1 == host)).foldl (fun (r : Prog) e =>
    match r with
    | .ok _ s => repairOne s x v e
    | r => r) (.ok 0 s)

/-- The state that an operation leaves. -/
def Prog.st : Prog → State
  | .ok _ s | .wait s | .fail _ s => s

/-- Write a page through a stream, and count the places where programming failed: what the read-back finds damaged in the blocks
that failed is written again, at the latest before the stream's next page (R300). -/
def writePageCounted (s : State) (x v : Nat) (host : Bool) (p : FlPage) (fails : Nat) (damaged : List Nat) : Prog × Nat :=
  match doRepairs s x v host with
  | .ok _ s =>
    let (r, met) := placePage s x v host p fails
    let note (t : State) : State := met.foldl (fun t n => noteDamage t x v host damaged n) t
    (match r with
      | .ok pgn t => .ok pgn (doRepairs (note t) x v host).st
      | .wait t => .wait (note t)
      | .fail c t => .fail c (note t), met.length)
  | r => (r, 0)

/-- Write a page through a stream. -/
def writePage (s : State) (x v : Nat) (host : Bool) (p : FlPage) (fails : Nat) (damaged : List Nat) : Prog :=
  (writePageCounted s x v host p fails damaged).1

/-! ## The map cache (R296) -/

/-- The map cache of an X-die, least recently used first. -/
def mapCache (s : State) (x : Nat) : List MapPg := Cells.get (fun _ => []) s.flash.cache x

/-- The state with a map cache replaced. -/
def setCache (s : State) (x : Nat) (c : List MapPg) : State :=
  { s with flash := { s.flash with cache := Cells.put (fun _ => []) s.flash.cache x c } }

/-- Map page reads in progress. -/
def fillsOf (s : State) (x : Nat) : List (Nat × Nat) := Cells.get (fun _ => []) s.flash.fills x

/-- The state with those reads replaced. -/
def setFills (s : State) (x : Nat) (l : List (Nat × Nat)) : State :=
  { s with flash := { s.flash with fills := Cells.put (fun _ => []) s.flash.fills x l } }

/-- The size of the map cache that acts, in GiB. -/
def cacheGib (s : State) (x : Nat) : Nat := max 1 (min 64 (s.fld Fld.FL_MAPCACHE_SIZE x))

/-- Is a map page cached? -/
def cached (s : State) (x v q : Nat) : Bool := (mapCache s x).any (fun p => p.vol == v && p.q == q)

/-- Use a map page: it becomes the most recently used. -/
def touchPage (s : State) (x v q : Nat) : State :=
  let c := mapCache s x
  setCache s x (c.filter (fun p => !(p.vol == v && p.q == q)) ++ c.filter (fun p => p.vol == v && p.q == q))

/-- The content of a map page: its 4,096 entries (R296). -/
def mapBytes (s : State) (x v q : Nat) : List Byte :=
  (List.range 4096).flatMap (fun k => leBytes 4 (Cells.get (fun _ => unmapped) (volOf s x v).map (q * 4096 + k)))

/-- The map pages of a volume that have changed since they were written: dirty in the cache, or changed outside it. -/
def dirtyPages (s : State) (x v : Nat) : List Nat :=
  (((mapCache s x).filter (fun p => p.vol == v && p.dirty)).map MapPg.q ++ (volOf s x v).changed).eraseDups

/-- Write a map page to flash through the relocation stream and mark it clean. -/
def writeMapPage (s : State) (x v q fails : Nat) (damaged : List Nat) : Prog :=
  match writePage s x v false { vol := v, lgn := q, isMap := true, data := mapBytes s x v q } fails damaged with
  | .ok pgn s =>
    let w := volOf s x v
    let s := setVol s x v { w with changed := w.changed.filter (· ≠ q) }
    .ok pgn (setCache s x ((mapCache s x).map (fun p => if p.vol = v ∧ p.q = q then { p with dirty := false } else p)))
  | r => r

/-- Write every map page of a volume that has changed; the failures of the first write are given. -/
def writeDirty (s : State) (x v fails : Nat) (damaged : List Nat) : Prog :=
  (dirtyPages s x v).zipIdx.foldl (fun (r : Prog) q =>
    match r with
    | .ok _ s => writeMapPage s x v q.1 (if q.2 = 0 then fails else 0) damaged
    | r => r) (.ok 0 s)

/-! ## Metadata (R308) -/

/-- Write a volume's metadata; the changes logged since the last are covered. -/
def writeMeta (s : State) (x v : Nat) : State :=
  let w := volOf s x v
  let m : FlMeta :=
    { first := firstGroup s x v, count := groupCount s x v, lc := volLc s x v, st := volState s x v,
      cause := s.fld Fld.FL_VOL_STATE_RO_CAUSE (volKey x v), map := w.map, mapLoc := w.mapLoc, sbs := w.sbs }
  setLog (setMeta s x v (some m)) x v []

/-- FLUSH of a volume (R308): every dirty map page, then the metadata. -/
def flushVol (s : State) (x v fails : Nat) (damaged : List Nat) : Prog :=
  match writeDirty s x v fails damaged with
  | .ok _ s => .ok 0 (writeMeta s x v)
  | r => r

/-- An ordered FLUSH that the device makes itself (R482): ORDER_BLOCKED as R291 states; as every ordered task it bounds the
tasks that block the next one. -/
def flushOrdered (s : State) (x v : Nat) : Prog :=
  let w := volOf s x v
  let s := setVol s x v { w with fails := [], ordered := [Cells.get (fun _ => 0) s.flash.next x] }
  if w.fails.any (w.ordered.foldl max 0 < ·) then .fail 0x14 s else flushVol s x v 0 []

/-- An ordered FLUSH of every READWRITE volume (R482); a failure names its X-die. -/
def flashFlushAll (s : State) : Prog :=
  ((List.range 32).filter (fun k => s.fld Fld.FL_VOL_STATE_STATE k == 3)).foldl (fun (r : Prog) k =>
    match r with
    | .ok _ s =>
      match flushOrdered s (k / 16) (k % 16) with
      | .fail _ s => .fail (k / 16) s
      | r => r
    | r => r) (.ok 0 s)

/-- Metadata that is valid for a volume: its recorded groups are those configured, where alone the mount reads (R466). -/
def validMeta (s : State) (x v : Nat) : Option FlMeta :=
  (metaOf s x v).filter (fun m => m.first == firstGroup s x v && m.count == groupCount s x v)

/-- The superblocks of a volume that is not mounted: those of valid metadata, else free but for the factory bad blocks
(R303). -/
def initialSbs (s : State) (x v : Nat) : Cells FlSb :=
  match validMeta s x v with
  | some m => m.sbs
  | none =>
    (geoOf s x).bad.foldl (fun (c : Cells FlSb) e =>
      let (g, b, i) := e
      let k := g - firstGroup s x v
      if firstGroup s x v ≤ g ∧ k < groupCount s x v ∧ b < bpdOf s x then
        let sb := k * bpdOf s x + b
        let o := Cells.get (fun _ => {}) c sb
        let bad := o.bad ||| 2 ^ i
        Cells.put (fun _ => {}) c sb { o with bad := if goodPositions bad = 0 then 0xFFFF else bad }
      else c) []

/-- Each granule changed since the last FLUSH holds its content of that FLUSH or one written later, as a free value says
(R309); an entry whose page is gone is not one of them. -/
def recoverMap (s : State) (x v : Nat) (m : FlMeta) : Cells Nat × State :=
  (((logOf s x v).map Prod.fst).eraseDups).foldl (fun (r : Cells Nat × State) lgn =>
    let cs := (Cells.get (fun _ => unmapped) m.map lgn :: ((logOf s x v).filter (fun e => e.1 == lgn)).map Prod.snd).filter
      (fun pgn => pgn == unmapped || (pageAt s x v pgn).elim false (fun p => !p.isMap && p.vol == v && p.lgn == lgn))
    let (f, t) := r.2.fresh 32
    (Cells.put (fun _ => unmapped) r.1 lgn (cs.getD (f.toNat % cs.length) unmapped), t)) (m.map, s)

/-- Mount a volume (R466): its metadata, if valid, gives map, superblocks, capacity and state. A superblock that holds
pages is closed; the others are free. -/
def mountVol (s : State) (x v : Nat) : State :=
  if volState s x v ≠ 1 ∨ groupCount s x v = 0 then s
  else
    match validMeta s x v with
    | none => setVol s x v { volOf s x v with sbs := initialSbs s x v }
    | some m =>
      let (map, s) := recoverMap s x v m
      let held := ((s.flash.pages.map (fun e => e.1 / 65536)).filter (fun b =>
        b / 65536 / 64 == x && m.first ≤ b / 65536 % 64 && b / 65536 % 64 < m.first + m.count)).eraseDups
      let sbs := Cells.mapVal (fun _ => ({} : FlSb)) (fun _ b => { b with phase := .free }) m.sbs
      let w := { volOf s x v with map := map, mapLoc := m.mapLoc, sbs := sbs }
      let w := held.foldl (fun (w : FlVol) b =>
        let sb := (b / 65536 % 64 - m.first) * bpdOf s x + b % 65536
        { w with sbs := Cells.put (fun _ => {}) w.sbs sb { sbOf w sb with phase := .closed } }) w
      let s := (setVol s x v w).setFld Fld.FL_VOL_CAP_LC (volKey x v) m.lc
      if s.flag Fld.FL_VOL_CFG_ENCRYPT (volKey x v) && w.key.isNone then setVolState s x v 2 0
      else setVolState s x v m.st m.cause

/-- Erasing die groups for a volume removes what else was recorded there. -/
def dropMetas (s : State) (x v : Nat) : State :=
  let f := firstGroup s x v
  let n := groupCount s x v
  { s with flash := { s.flash with
      metas := Cells.mapVal (fun _ => none) (fun k m =>
        if k / 131072 = x ∧ k ≠ metaKey s x v ∧ m.elim false (fun m => m.first < f + n && f < m.first + m.count) then none
        else m)
        s.flash.metas } }

/-! ## Losing the controllers' state (R309, R471) -/

/-- Power is lost (R309): of each volume changed since its last completed FLUSH, pages of the superblocks that were open are
damaged, as free values say. -/
def tearOpen (s : State) : State :=
  (List.range 32).foldl (fun s k =>
    let (x, v) := (k / 16, k % 16)
    (if (logOf s x v).isEmpty then [] else (volOf s x v).sbs.filter (fun e => e.2.phase = .opened)).foldl (fun s e =>
      let base := sbBase s x v e.1
      (s.flash.pages.filter (fun p => base ≤ p.1 && p.1 < base + 65536)).foldl (fun s p =>
        let (f, s) := s.fresh 1
        putPage s p.1 { p.2 with torn := p.2.torn || f == 1 }) s) s) s

/-- Metadata with the places that map pages have come to, for a volume in use. -/
def keepPlaces (s : State) (k : Nat) (m : FlMeta) : FlMeta :=
  let (x, v) := (k / 131072, k / 8192 % 16)
  if 2 ≤ volState s x v ∧ metaKey s x v = k then { m with mapLoc := (volOf s x v).mapLoc } else m

/-- The media of `old` in the state `new` that follows a loss of the controllers' state. -/
def flashMedia (old new : State) : State :=
  let metas := Cells.mapVal (fun _ => none) (fun k (m : Option FlMeta) => m.map (keepPlaces old k)) old.flash.metas
  { new with flash := { pages := old.flash.pages, metas := metas, logs := old.flash.logs } }

end Sys2Proof.Machine
end

