-- ==== Sys2Proof/Machine/FlashTask.lean ====
section
/-!
DEFINITION. Flash tasks (R286 to R295), garbage collection (R304, R305), keys (R311) and volume configuration (R312).
-/
namespace Sys2Proof.Machine

/-- The master ID of a flash controller. -/
def flashMaster (x : Nat) : Nat := 0x380 + x

/-! ## Tasks -/

/-- The tasks of an X-die in flight, in order of acceptance. -/
def tasksOf (s : State) (x : Nat) : List FlTask := Cells.get (fun _ => []) s.flash.tasks x

/-- The state with an X-die's tasks replaced. -/
def setTasks (s : State) (x : Nat) (l : List FlTask) : State :=
  { s with flash := { s.flash with tasks := Cells.put (fun _ => []) s.flash.tasks x l } }

/-- The state with one task changed. -/
def setTask (s : State) (x : Nat) (t : FlTask) : State :=
  setTasks s x ((tasksOf s x).map (fun u => if u.seq = t.seq then t else u))

/-- Operation. -/
def FlTask.op (t : FlTask) : Nat := leAt t.desc 0 1
/-- Volume. -/
def FlTask.vol (t : FlTask) : Nat := leAt t.desc 8 1 % 16
/-- Granule count. -/
def FlTask.count (t : FlTask) : Nat := leAt t.desc 0x0C 4
/-- First LGN. -/
def FlTask.lgn (t : FlTask) : Nat := leAt t.desc 0x10 5
/-- Buffer address. -/
def FlTask.buf (t : FlTask) : Nat := leAt t.desc 0x18 8
/-- Completion record address. -/
def FlTask.rec_ (t : FlTask) : Nat := leAt t.desc 0x20 8
/-- ORDERED, as FORMAT and FLUSH always are (R291). -/
def FlTask.ordered (t : FlTask) : Bool := (leAt t.desc 1 1).testBit 0 || t.op == 4 || t.op == 5
/-- Is the task a READ or a WRITE? -/
def FlTask.moves (t : FlTask) : Bool := t.op == 1 || t.op == 2

/-- Does a span lie in the memories of R286, and if not, is it in failed memory? 0, ACCESS_DENIED, UNIT_FAILED. -/
def flashSpan (s : State) (a n : Nat) : Nat :=
  if inFailedMemory s a then 0x10
  else if !inOneMemory s a n then 0x07
  else match regionOf s a with | .dram | .stook _ | .tile _ => 0 | _ => 0x07

/-- The bytes of a task's buffer. -/
def FlTask.span (t : FlTask) : Span := (t.buf, if t.moves then t.count * 16384 else 0)

/-- Does a flash task of an X-die have its buffer or record address in SRAM (R475, R481)? -/
def flashTouchesSram (s : State) (x : Nat) : Bool :=
  let sram (a : Nat) : Bool := match regionOf s a with | .stook _ | .tile _ => true | _ => false
  (tasksOf s x).any (fun t => sram t.rec_ || (t.moves && sram t.buf))

/-! ## Submission (R286, R287) -/

/-- The result of a submission in FL_LAST. -/
def setLast (s : State) (x w m status : Nat) (seq : Option Nat) : State :=
  let k := x * 64 + w
  let s := (s.setFld Fld.FL_LAST_STATUS k status).setFld Fld.FL_LAST_MASTER k m
  match seq with
  | some n => s.setFld Fld.FL_LAST_SEQ k n
  | none => s

/-- The tests of a submission whose descriptor can be read now (R286). -/
def takeSubmit (s : State) (x w m ad : Nat) : State :=
  let r := memRead s (flashMaster x) 3 ad 64
  let t : FlTask := { seq := Cells.get (fun _ => 0) s.flash.next x + 1, desc := r.data }
  let s := dropHost r.st (flashMaster x)
  if r.bad then setLast s x w m 0x07 none
  else if t.rec_ % 32 ≠ 0 ∨ flashSpan s t.rec_ 32 ≠ 0 ∨ !counterValid (leAt t.desc 6 2) then setLast s x w m 0x07 none
  else if 4096 ≤ (tasksOf s x).length then setLast s x w m 0x03 none
  else
    let s := { s with flash := { s.flash with next := Cells.put (fun _ => 0) s.flash.next x t.seq } }
    setLast (noteUse (setTasks s x (tasksOf s x ++ [t])) (leAt t.desc 4 1) (flashUse x)) x w m 0 (some (t.seq - 1))

/-- A submission (R286): while the host holds the descriptor's line, or an earlier submission to the controller waits, it waits
too. -/
def submitTask (s : State) (x w m ad : Nat) : State :=
  let behind : Bool := s.heldPuts.any (fun h => match h with
    | .submit y _ _ _ => x == y
    | .put .. | .event .. | .packet .. | .furrow .. => false)
  if behind then { s with heldPuts := s.heldPuts ++ [.submit x w m ad] }
  else if ad % 64 ≠ 0 ∨ flashSpan s ad 64 ≠ 0 then setLast s x w m 0x07 none
  else
    match prepare s (flashMaster x) [(ad, 64)] [] with
    | .stall s => { s with heldPuts := s.heldPuts ++ [.submit x w m ad] }
    | .go => takeSubmit s x w m ad

/-- A write of FL_SUBMIT (R10, R286). -/
def writeFlSubmit (s : State) (m x w : Nat) (a : CsrAcc) : State :=
  match a with
  | .full v => submitTask s x w m (v.toNat % 2 ^ 52)
  | _ => violation s 0 m (regAddr .FL_SUBMIT (x * 64 + w)) true

/-! ## Order and checks (R289, R291) -/

/-- May a waiting task start (R291)? -/
def mayStart (s : State) (x : Nat) (t : FlTask) : Bool :=
  (tasksOf s x).all (fun u => u.vol != t.vol || t.seq ≤ u.seq || !(t.ordered || u.ordered))

/-- Check 1. -/
def flFieldsOk (t : FlTask) : Bool :=
  let d := t.desc
  (1 ≤ t.op && t.op ≤ 5) && leAt d 1 1 < 2 && leAt d 5 1 % 4 == 0 && leAt d 4 1 < 64 && zeroBytes d 9 3 && zeroBytes d 0x28 24
    && (match t.op with
        | 1 | 2 => 1 ≤ t.count && t.count ≤ 4096 && t.buf % 64 == 0
        | 3 => 1 ≤ t.count && t.count ≤ 2 ^ 24
        | _ => t.count == 0)

/-- Does the volume meet R285 and R306 for FORMAT? -/
def formatOk (s : State) (x v : Nat) : Bool :=
  firstGroup s x v + groupCount s x v ≤ 64 && sbCount s x v * ppbOf s x * 16 ≤ unmapped
    && neededGranules (volLc s x v) ≤ 93 * goodGranules s x v / 100

/-- Does an ORDERED task fail check 7 (R291): did a task accepted between the previous ORDERED one and it end with a failure? -/
def orderBlocked (w : FlVol) (seq : Nat) : Bool :=
  let prev := (w.ordered.filter (· < seq)).foldl max 0
  w.fails.any (fun f => prev < f && f < seq)

/-- The checks of R289: the first that fails and its status, or (0, 0). -/
def flCheck (s : State) (x : Nat) (t : FlTask) : Nat × Nat :=
  let v := t.vol
  let st := volState s x v
  let sp := if t.moves then flashSpan s t.buf (t.count * 16384) else 0
  if !flFieldsOk t then (1, 0x81)
  else if groupCount s x v = 0 then (2, 0x83)
  else if st = 5 then (3, 0x10)
  else if st = 2 ∨ (t.op = 5 ∧ s.flag Fld.FL_VOL_CFG_ENCRYPT (volKey x v) ∧ (volOf s x v).key = none) then (3, 0x84)
  else if st ≠ 3 ∧ st ≠ 4 ∧ t.op ≠ 5 then (3, 0x85)
  else if sp ≠ 0 then (4, sp)
  else if (t.moves ∨ t.op = 3) ∧ volLc s x v < t.lgn + t.count then (5, 0x05)
  else if t.op = 5 ∧ !formatOk s x v then (5, 0x05)
  else if (t.op = 2 ∨ t.op = 3) ∧ st = 4 then (6, s.fld Fld.FL_VOL_STATE_RO_CAUSE (volKey x v))
  else if t.ordered ∧ orderBlocked (volOf s x v) t.seq then (7, 0x14)
  else (0, 0)

/-! ## Map pages of a task (R296) -/

/-- The map pages of a task. -/
def taskPages (t : FlTask) : List Nat :=
  if t.count = 0 then [] else (List.range ((t.lgn + t.count - 1) / 4096 - t.lgn / 4096 + 1)).map (· + t.lgn / 4096)

/-- Does a running task hold a map page? -/
def pageHeld (s : State) (x : Nat) (p : MapPg) : Bool :=
  (tasksOf s x).any (fun t => t.phase = .running && t.vol == p.vol && t.op ≤ 3
    && t.lgn / 4096 ≤ p.q && p.q ≤ (t.lgn + t.count - 1) / 4096)

/-- Put a map page into the cache, evicting if it is full; it waits while nothing can be evicted. -/
def installPage (s : State) (x v q fails : Nat) (damaged : List Nat) : Prog :=
  let add (s : State) : State := setCache s x (mapCache s x ++ [{ vol := v, q := q }])
  if (mapCache s x).length < cacheGib s x * 65536 then .ok 0 (add s)
  else
    match (mapCache s x).find? (fun p => !pageHeld s x p) with
    | none => .wait s
    | some p =>
      let out (s : State) : State := setCache s x ((mapCache s x).filter (fun o => !(o.vol == p.vol && o.q == p.q)))
      if p.dirty then
        match writeMapPage s x p.vol p.q fails damaged with
        | .ok _ s => .ok 0 (add (out s))
        | r => r
      else .ok 0 (add (out s))

/-- Look for one map page of a task: counted as a miss once; a page never written is installed, another is asked for. -/
def wantPage (x q : Nat) (r : FlTask × State) : FlTask × State :=
  let (t, s) := r
  if cached s x t.vol q then (t, touchPage s x t.vol q)
  else
    let first := !t.missed.contains q
    let t := if first then { t with misses := t.misses + 1, missed := t.missed ++ [q] } else t
    let s := if first then s.modAdd Fld.FL_MAPMISS_MISSES x 1 else s
    if Cells.get (fun _ => unmapped) (volOf s x t.vol).mapLoc q = unmapped then (t, (installPage s x t.vol q 0 []).st)
    else if (fillsOf s x).contains (t.vol, q) then (t, s)
    else (t, setFills s x (fillsOf s x ++ [(t.vol, q)]))

/-- Look for every map page of a task: whether all are present. -/
def wantPages (s : State) (x : Nat) (t : FlTask) : Bool × FlTask × State :=
  let (t, s) := (taskPages t).foldl (fun r q => wantPage x q r) (t, s)
  ((taskPages t).all (fun q => cached s x t.vol q), t, s)

/-! ## Granules -/

/-- A decoded page (R301): its data and whether parity rebuilt it, or nothing. -/
def decodePage (s : State) (x v : Nat) (isMap : Bool) (n pgn : Nat) (bad lost : Bool) : Option (List Byte × Bool) × State :=
  let (inj, s) := match injFire s 7 x with
    | some (_, s) => (true, s)
    | none => (false, s)
  let sb := sbOfPgn s x pgn
  let dead := dieDead s x (firstGroup s x v + sb / bpdOf s x) (pgn % 16)
  let ph := (sbOf (volOf s x v) sb).phase
  match pageAt s x v pgn with
  | none => (none, s)
  | some p =>
    if inj || p.vol != v || p.lgn != n || p.isMap != isMap then (none, s)
    else if !bad && !dead && !p.torn then (some (p.data, false), s)
    else if (ph = .opened || ph = .filled) && !lost && rowReadable s x v pgn then
      (some (rebuildData s (pgnKey s x v pgn), true), s.satAdd Fld.FL_PARREC_PARITY x 1)
    else (none, s)

/-- The key that a volume's data is encrypted with; none when it is not encrypted. -/
def volCipher (s : State) (x v : Nat) : Option (List Byte) :=
  if s.flag Fld.FL_VOL_CFG_ENCRYPT (volKey x v) then (volOf s x v).key else none

/-- A granule read that failed at every step is counted (R301). -/
def countUncorr (s : State) (x v : Nat) : State := detect (s.satAdd Fld.FL_VOL_CNT_UNCORR (volKey x v) 1) 7

/-- End a task's work with a status. -/
def finish (t : FlTask) (status : Nat) : FlTask := { t with finished := true, status := status }

/-- READ of granule `j` (R288, R301, R310). -/
def readGranule (x : Nat) (f : NandFaults) (r : FlTask × State) (j : Nat) : FlTask × State :=
  let (t, s) := r
  if t.finished then r
  else
    let v := t.vol
    let n := t.lgn + j
    let a := t.buf + j * 16384
    let pgn := Cells.get (fun _ => unmapped) (volOf s x v).map n
    if pgn = unmapped then ({ t with done := t.done + 1, writes := t.writes ++ [(a, List.replicate 16384 0)] }, s)
    else
      match decodePage s x v false n pgn (f.bad.contains j) (f.lost.contains j) with
      | (none, s) => ({ finish t 0x82 with failed := n + 1 }, countUncorr s x v)
      | (some (d, par), s) =>
        let d := match volCipher s x v with
          | some k => xtsGranule false k n d
          | none => d
        ({ t with done := t.done + 1, writes := t.writes ++ [(a, d)], recovered := min 255 (t.recovered + b2n par) }, s)

/-- WRITE of granule `j` (R299, R307, R310): `stop` is set once the task must wait. -/
def writeGranule (x : Nat) (f : NandFaults) (r : Bool × FlTask × State) (j : Nat) : Bool × FlTask × State :=
  let (stop, t, s) := r
  if stop || t.finished then r
  else
    let v := t.vol
    let n := t.lgn + j
    let fail (s : State) (c : Nat) : Bool × FlTask × State := (false, { finish t c with failed := n + 1 }, s)
    if volState s x v ≠ 3 then fail s (if volState s x v = 4 then s.fld Fld.FL_VOL_STATE_RO_CAUSE (volKey x v) else 0x84)
    else
      let q := memRead s (flashMaster x) 3 (t.buf + j * 16384) 16384
      if q.bad then fail q.st 0x80
      else
        let d := match volCipher q.st x v with
          | some k => xtsGranule true k n q.data
          | none => q.data
        match writePage q.st x v true { vol := v, lgn := n, data := d } (f.prog.filter (· == j)).length f.damaged with
        | .ok _ s => (false, { t with done := t.done + 1 }, s)
        | .wait s => (true, t, s)
        | .fail c s => fail s c

/-- TRIM of granule `j`. -/
def trimGranule (x : Nat) (r : FlTask × State) (j : Nat) : FlTask × State :=
  let (t, s) := r
  if t.finished then r
  else if volState s x t.vol ≠ 3 then
    let c := if volState s x t.vol = 4 then s.fld Fld.FL_VOL_STATE_RO_CAUSE (volKey x t.vol) else 0x84
    ({ finish t c with failed := t.lgn + j + 1 }, s)
  else
    let n := t.lgn + j
    ({ t with done := t.done + 1 },
      if Cells.get (fun _ => unmapped) (volOf s x t.vol).map n = unmapped then s else setMap s x t.vol n unmapped)

/-- FORMAT (R303, R306, R308): superblocks that hold pages are erased, nothing is mapped, the metadata is written and the
volume is READWRITE. -/
def formatVol (s : State) (x v : Nat) (f : NandFaults) : State :=
  let s := dropMetas s x v
  let s := setCache s x ((mapCache s x).filter (fun p => p.vol ≠ v))
  let s := setFills s x ((fillsOf s x).filter (fun p => p.1 ≠ v))
  let w := volOf s x v
  let s := setVol s x v { w with map := [], mapLoc := [], host := none, reloc := none, gc := false, victim := none }
  let held := ((s.flash.pages.map (fun e => e.1 / 65536)).filter (fun b =>
    b / 65536 / 64 == x && firstGroup s x v ≤ b / 65536 % 64
      && b / 65536 % 64 < firstGroup s x v + groupCount s x v)).eraseDups
  let s := held.foldl (fun s b => eraseSb s x v ((b / 65536 % 64 - firstGroup s x v) * bpdOf s x + b % 65536) f.erase) s
  writeMeta (setVolState s x v 3 0) x v

/-- The work of a task that has passed its checks: as far as it can go. -/
def taskWork (s : State) (x : Nat) (t : FlTask) (f : NandFaults) : FlTask × State :=
  match t.op with
  | 4 =>
    match flushVol s x t.vol f.prog.length f.damaged with
    | .ok _ s => (finish t 0, s)
    | .wait s => (t, s)
    | .fail c s => (finish t c, s)
  | 5 => (finish t 0, formatVol s x t.vol f)
  | _ =>
    let (all, t, s) := wantPages s x t
    if !all then (t, s)
    else
      let js := (List.range (t.count - t.done)).map (· + t.done)
      match t.op with
      | 1 => let (t, s) := js.foldl (readGranule x f) (t, s); (if t.finished then t else finish t 0, s)
      | 2 => let (stop, t, s) := js.foldl (writeGranule x f) (false, t, s); (if t.finished || stop then t else finish t 0, s)
      | _ => let (t, s) := js.foldl (trimGranule x) (t, s); (if t.finished then t else finish t 0, s)

/-- The tasks of an operation that may start, or go on after waiting. A task whose operation is undefined is taken by any
row; its checks refuse it. -/
def proceedable (s : State) (x op : Nat) : List FlTask :=
  (tasksOf s x).filter (fun t => (t.op = op || !(1 ≤ t.op && t.op ≤ 5)) && !t.finished
    && (t.phase = .running || (t.phase = .waiting && mayStart s x t)))

/-- The `i`-th such task starts, or goes on. -/
def flProceed (s : State) (x op i : Nat) (f : NandFaults) : State :=
  match (proceedable s x op)[i]? with
  | none => s
  | some t =>
    let (chk, st) := if t.phase = .waiting then flCheck s x t else (0, 0)
    if st ≠ 0 then setTask s x { finish t st with phase := .running, check := chk }
    else
      match prepare s (flashMaster x) (if t.op = 2 then [t.span] else []) [] with
      | .stall s => s
      | .go =>
        let s1 := setTask s x { t with phase := .running }
        match (if t.phase = .waiting then injFire s1 11 (flashMaster x) else none) with
        | some (_, s2) => setTask (detect s2 11) x (finish { t with phase := .running } 0x80)
        | none =>
          let (t, s) := taskWork s1 x { t with phase := .running } f
          let n := (volOf s x t.vol).rebuilt - (volOf s1 x t.vol).rebuilt
          dropHost (setTask s x { t with recovered := min 255 (t.recovered + n) }) (flashMaster x)

/-! ## End and abort (R292 to R294) -/

/-- The record of a task (R294). -/
def flRecord (x : Nat) (t : FlTask) : List Byte :=
  recordBytes (leAt t.desc 2 2) (leAt t.desc 4 1) t.status 6 x (leAt t.desc 6 2) (if t.moves then t.count * 16384 else 0)
    (leBytes 4 t.done ++ leBytes 4 t.misses ++ leBytes 5 t.failed ++ leBytes 1 t.recovered ++ leBytes 1 t.check ++ [0])

/-- Note an ended task for the order of later ones (R291). What no task in flight comes after is forgotten. -/
def noteOrder (s : State) (x : Nat) (t : FlTask) : State :=
  let w := volOf s x t.vol
  let w := if t.status = 0 then w else { w with fails := w.fails ++ [t.seq] }
  let w := if t.ordered then { w with ordered := w.ordered ++ [t.seq] } else w
  let old := (w.ordered.filter (fun o => (tasksOf s x).all (fun u => u.vol != t.vol || o < u.seq))).foldl max 0
  setVol s x t.vol { w with ordered := w.ordered.filter (old ≤ ·), fails := w.fails.filter (old < ·) }

/-- The tasks that may end now. -/
def flEndable (s : State) (x : Nat) : List FlTask :=
  (tasksOf s x).filter (fun t => t.phase = .ended || (t.phase = .running && t.finished))

/-- A task ends (R294): its buffer writes, its record, its increment. -/
def flEnd (s : State) (x i : Nat) : State :=
  match (flEndable s x)[i]? with
  | none => s
  | some t =>
    let m := flashMaster x
    match prepare s m [] ((t.rec_, 32) :: writeSpans t.writes) with
    | .stall s => s
    | .go =>
      let s := (performWrites s m t.desc t.writes).st
      let s := counterAdd (memPut s m t.rec_ (flRecord x t)) (leAt t.desc 6 2) 1
      let s := setTasks s x ((tasksOf s x).filter (fun u => u.seq ≠ t.seq))
      dropHost ((noteOrder s x t).modAdd Fld.FL_STATUS_DONE x 1) m

/-- Give a task its final outcome before its work is done: what it has done stays (R292, R293, R313). A READ has completed
the granules that are whole in its buffer. -/
def cutTask (s : State) (x status : Nat) (t : FlTask) : State :=
  let (lens, s) := cutLens s t.writes
  let (ws, s) := performSome (dropHost s (flashMaster x)) (flashMaster x) t.writes lens
  let whole := (lens.filter (· == 16384)).length
  setTask s x { t with phase := .ended, finished := true, status := status, check := 0, writes := ws,
                       done := if t.op = 1 then whole else t.done }

/-- A write of FL_ABORT (R293). -/
def writeFlAbort (s : State) (x : Nat) (a : CsrAcc) : State :=
  if !Fld.FL_ABORT_JOB.reached a then s
  else
    let ts := (tasksOf s x).filter (fun t => t.phase ≠ .ended && leAt t.desc 4 1 == Fld.FL_ABORT_JOB.presented a
      && leAt t.desc 2 2 == Fld.FL_ABORT_TAG.presented a)
    let s := ts.foldl (fun s t => cutTask s x 0x01 t) s
    (s.setFld Fld.FL_ABORT_RES_STATUS x (if ts.isEmpty then 0x02 else 0x01)).setFld Fld.FL_ABORT_RES_COUNT x ts.length

/-! ## Failed units (R306, R313) -/

/-- Is the flash of an X-die failed: its controller or one of its NAND channels? -/
def flashFailed (s : State) (x : Nat) : Bool :=
  xUnitFailed s x 0 || (List.range 16).any (fun c => nandFailed s (16 * x + c))

/-- Every volume of an X-die goes OFFLINE and its tasks end (R313). -/
def failFlash (s : State) (x : Nat) : State :=
  (List.range 16).foldl (fun s v =>
    if volState s x v = 0 ∨ volState s x v = 5 then s
    else
      let s := ((tasksOf s x).filter (fun t => t.vol == v && t.phase ≠ .ended)).foldl (fun s t => cutTask s x 0x10 t) s
      setVolState s x v 5 0) s

/-- NAND channel `c` is marked failed. -/
def failNandChannel (s : State) (c : Nat) : State := failFlash s (c / 16)

/-- NAND die `n` of channel `c` is marked failed: its volume loses good granules (R306, R307). -/
def failNandDie (s : State) (c n : Nat) : State :=
  (List.range 16).foldl (fun s v =>
    let x := c / 16
    if firstGroup s x v ≤ n ∧ n < firstGroup s x v + groupCount s x v ∧ volState s x v = 3 then checkWorn s x v else s) s

/-! ## Verification and garbage collection (R300, R304, R305) -/

/-- Move a granule to a new page of the relocation stream, if the map still names its old one. -/
def moveGranule (s : State) (x v : Nat) (e : Bool × Nat × Nat) (p : FlPage) (fails : Nat) (damaged : List Nat) : Prog × Nat :=
  writePageCounted s x v false { p with isMap := e.1, lgn := e.2.1, torn := false } fails damaged

/-- The programmed pages of a superblock on dead dies or damaged, by row and position. -/
def unreadable (s : State) (x v sb : Nat) : List (Nat × Nat) :=
  let base := sbBase s x v sb
  let g := firstGroup s x v + sb / bpdOf s x
  (s.flash.pages.filter (fun e => base ≤ e.1 && e.1 < base + 65536 && (e.2.torn || dieDead s x g (e.1 % 16)))).map
    (fun e => ((e.1 - base) / 16, e.1 % 16))

/-- Verify the `i`-th filled superblock of a volume (R300): each page that fails hard decoding (row, position) is rebuilt from its
row's parity, unless another page of its row fails too; its valid granules are written again. The blocks that fail are retired
(R303). The parity set is released once every page has passed or been rebuilt. While a granule must wait for its place nothing is
done. -/
def verifySb (s : State) (x v i : Nat) (bad : List (Nat × Nat)) (f : NandFaults) : State :=
  match (((volOf s x v).sbs.filter (fun e => e.2.phase = .filled)).map Prod.fst)[i]? with
  | none => s
  | some sb =>
    let bad := (bad.filter (fun b => b.1 < ppbOf s x) ++ unreadable s x v sb).eraseDups
    let fixed := bad.filter (fun b => (bad.filter (fun c => c.1 == b.1 && c.2 != b.2)).isEmpty)
    let r := (validIn s x v sb).foldl (fun (r : Prog) e =>
      match r with
      | .ok n s =>
        if fixed.contains (e.2.2 / 16 % ppbOf s x, e.2.2 % 16) then
          match pageAt s x v e.2.2 with
          | some p =>
            (match (moveGranule s x v e { p with data := rebuildData s (pgnKey s x v e.2.2) } (if n = 0 then f.prog.length else 0)
                f.damaged).1 with
              | .ok _ s => .ok (n + 1) s
              | r => r)
          | none => r
        else r
      | r => r) (.ok 0 s)
    match r with
    | .ok _ s =>
      let s := s.satAdd Fld.FL_PARREC_PARITY x fixed.length
      let m := (bad.map Prod.snd).eraseDups.foldl (fun m p => m + 2 ^ p) 0
      let s := if m = 0 then s else retire s x v sb m
      if fixed.length < bad.length then s
      else dropParity (setSb s x v sb { sbOf (volOf s x v) sb with phase := .closed }) x v sb
    | .wait _ | .fail .. => s

/-- The victim of R304: the closed superblock with the fewest valid granules, lower erase count, lower number. -/
def nextVictim (s : State) (x v : Nat) : Option Nat :=
  let cs := ((volOf s x v).sbs.filter (fun e => e.2.phase = .closed)).map (fun e =>
    ((validIn s x v e.1).length, e.2.erase, e.1))
  (cs.foldl (fun (best : Option (Nat × Nat × Nat)) e =>
    match best with
    | none => some e
    | some b =>
      if e.1 < b.1 ∨ (e.1 = b.1 ∧ (e.2.1 < b.2.1 ∨ (e.2.1 = b.2.1 ∧ e.2.2 < b.2.2))) then some e else some b) none).map
    (·.2.2)

/-- LOW and HIGH as they act (R304). -/
def gcLimits (s : State) (x : Nat) : Nat × Nat :=
  let l := max 2 (s.fld Fld.FL_GC_LOW x)
  (l, max l (s.fld Fld.FL_GC_HIGH x))

/-- Garbage collection starts (R304, R307). -/
def gcStart (s : State) (x v : Nat) : State :=
  if volState s x v ≠ 3 ∨ (volOf s x v).gc ∨ (gcLimits s x).1 ≤ freeCount s x v then s
  else
    match nextVictim s x v with
    | none => s
    | some sb => setVol s x v { volOf s x v with gc := true, victim := some sb }

/-- The victim holds no valid granule: changed map pages are written, it is erased, and collection goes on or stops. -/
def gcErase (s : State) (x v sb : Nat) (f : NandFaults) : State :=
  match writeDirty s x v f.prog.length f.damaged with
  | .ok _ s =>
    let s := eraseSb s x v sb f.erase
    let w := volOf s x v
    if (gcLimits s x).2 ≤ freeCount s x v ∨ volState s x v ≠ 3 then setVol s x v { w with gc := false, victim := none }
    else
      match nextVictim s x v with
      | none => setVol s x v { w with gc := false, victim := none }
      | some n => setVol s x v { w with victim := some n }
  | .wait s | .fail _ s => s

/-- Move the first of these granules that can be decoded; `f` gives the outcome of reading the `j`-th. Those that cannot stay
where they are. -/
def gcMoveFrom (s : State) (x v : Nat) (f : NandFaults) : Nat → List (Bool × Nat × Nat) → State
  | _, [] => s
  | j, e :: r =>
    match decodePage s x v e.1 e.2.1 e.2.2 (f.bad.contains j) (f.lost.contains j) with
    | (none, s) => gcMoveFrom (countUncorr s x v) x v f (j + 1) r
    | (some (d, _), s) =>
      let (p, n) := moveGranule s x v e { vol := v, lgn := e.2.1, data := d } f.prog.length f.damaged
      p.st.satAdd Fld.FL_PARREC_REDIRECT x n

/-- One valid granule of the victim is moved (R305), or the empty victim is erased. -/
def gcMove (s : State) (x v : Nat) (f : NandFaults) : State :=
  match (volOf s x v).victim with
  | none => s
  | some sb =>
    match validIn s x v sb with
    | [] => gcErase s x v sb f
    | es => gcMoveFrom s x v f 0 es

/-- Does a task wait for a map page? -/
def waitsFor (v q : Nat) (t : FlTask) : Bool := t.phase == .running && !t.finished && t.vol == v && t.missed.contains q

/-- A map page read from flash ends (R296): it is installed, and a rebuild counts for the tasks that wait for it (R294), or they
fail (R301). -/
def mapFill (s : State) (x i : Nat) (f : NandFaults) : State :=
  match (fillsOf s x)[i]? with
  | none => s
  | some (v, q) =>
    let pgn := Cells.get (fun _ => unmapped) (volOf s x v).mapLoc q
    match decodePage s x v true q pgn (f.bad.contains 0) (f.lost.contains 0) with
    | (some (_, par), t) =>
      match installPage t x v q f.prog.length f.damaged with
      | .ok _ t =>
        let t := setFills t x ((fillsOf t x).eraseIdx i)
        if !par then t
        else setTasks t x ((tasksOf t x).map (fun u => if waitsFor v q u then { u with recovered := min 255 (u.recovered + 1) } else u))
      | r => r.st
    | (none, s) =>
      let s := setFills (countUncorr s x v) x ((fillsOf s x).eraseIdx i)
      setTasks s x ((tasksOf s x).map (fun t =>
        if waitsFor v q t then { finish t 0x82 with failed := max t.lgn (q * 4096) + 1 } else t))

/-! ## Keys and configuration (R311, R312, R297) -/

/-- Zero the key data registers of an X-die. -/
def clearKeyData (s : State) (x : Nat) : State := (List.range 8).foldl (fun s k => s.wr .FL_KEY_DATA (x * 8 + k) 0) s

/-- The 64 bytes in the key data registers. -/
def keyData (s : State) (x : Nat) : List Byte :=
  (List.range 8).flatMap (fun k => leBytes 8 (s.rd .FL_KEY_DATA (x * 8 + k)).toNat)

/-- A write of FL_KEY_DATA (R311). -/
def writeFlKeyData (s : State) (m x k : Nat) (a : CsrAcc) : State :=
  let c := x * 8 + k
  if !isCoreMaster m then violation s 1 m (regAddr .FL_KEY_DATA c) true
  else s.wr .FL_KEY_DATA c ((s.rd .FL_KEY_DATA c &&& ~~~(accMask a)) ||| accValue a)

/-- LOAD (R311). -/
def loadKey (s : State) (x v : Nat) : State :=
  let key := keyData s x
  let s := clearKeyData s x
  if key.take 32 = key.drop 32 then s.setFld Fld.FL_KEY_CMD_RESULT x 1
  else
    let s := setVol (s.setFld Fld.FL_KEY_CMD_RESULT x 0) x v { volOf s x v with key := some key }
    if volState s x v ≠ 2 then s
    else
      match metaOf s x v with
      | some m => setVolState s x v m.st m.cause
      | none => s

/-- CLEAR (R311): an encrypted volume in use becomes LOCKED. -/
def clearKey (s : State) (x v : Nat) : State :=
  let s := setVol (clearKeyData s x) x v { volOf s x v with key := none }
  if s.flag Fld.FL_VOL_CFG_ENCRYPT (volKey x v) && (volState s x v == 3 || volState s x v == 4) then
    setVolState s x v 2 0
  else s

/-- A write of FL_KEY_CMD (R311). -/
def writeFlKeyCmd (s : State) (m x : Nat) (a : CsrAcc) : State :=
  let ad := regAddr .FL_KEY_CMD x
  let v := Fld.FL_KEY_CMD_VOL.presented a
  let l := Fld.FL_KEY_CMD_LOAD.presented a
  let c := Fld.FL_KEY_CMD_CLEAR.presented a
  if !isCoreMaster m then violation s 1 m ad true
  else if l = 1 ∧ c = 1 then violation s 4 m ad true
  else if l = 1 then loadKey s x v
  else if c = 1 then clearKey s x v
  else s

/-- A write of FL_VOL_CFG (R312): ignored unless the volume is ABSENT or UNFORMATTED. Of a failed X-die it is OFFLINE. -/
def writeVolCfg (s : State) (x v : Nat) (a : CsrAcc) : State :=
  let st := volState s x v
  if st ≠ 0 ∧ st ≠ 1 then s
  else
    let s := s.plainWrite .FL_VOL_CFG (volKey x v) false a
    let s := setVol s x v { volOf s x v with sbs := initialSbs s x v }
    if groupCount s x v = 0 then setVolState s x v 0 0
    else if flashFailed s x then setVolState s x v 5 0
    else setVolState s x v 1 0

/-- A write of FL_VOL_CAP: LC only while UNFORMATTED. -/
def writeVolCap (s : State) (x v : Nat) (a : CsrAcc) : State :=
  if volState s x v = 1 then s.plainWrite .FL_VOL_CAP (volKey x v) false a else s

/-- Do FL_MAPCACHE and FL_AUX ignore writes (R297)? -/
def flashAreasLocked (s : State) (x : Nat) : Bool :=
  (List.range 16).any (fun v => 2 ≤ volState s x v && volState s x v ≤ 4)

/-- Do the map cache and the auxiliary area of an X-die lie in populated DRAM (R297)? -/
def flashAreasOk (s : State) (x : Nat) : Bool :=
  inDram s (s.fld Fld.FL_MAPCACHE_BASE x * 2 ^ 30) (cacheGib s x * 2 ^ 30)
    && inDram s (s.fld Fld.FL_AUX_BASE x * 2 ^ 20) (64 * 2 ^ 20 + 16 * ppbOf s x * 16384)

/-! ## Commands -/

/-- FL_SUBMIT (R286). -/
def execFlSubmit (x : XDie) (w : Fin 64) (m : Master) (a : CsrAcc) (s : State) : Host.Outcome State Fault Refusal :=
  .next (onXdie s (fun s => writeFlSubmit s m.toNat x w a))

/-- FLASH_READ (R289). -/
def execFlashRead (x : XDie) (i : Nat) (f : NandFaults) (s : State) : Host.Outcome State Fault Refusal :=
  .next (flProceed s x 1 i f)

/-- FLASH_WRITE (R299). -/
def execFlashWrite (x : XDie) (i : Nat) (f : NandFaults) (s : State) : Host.Outcome State Fault Refusal :=
  .next (flProceed s x 2 i f)

/-- TRIM (R289). -/
def execFlashTrim (x : XDie) (i : Nat) (f : NandFaults) (s : State) : Host.Outcome State Fault Refusal :=
  .next (flProceed s x 3 i f)

/-- FLUSH (R308). -/
def execFlashFlush (x : XDie) (i : Nat) (f : NandFaults) (s : State) : Host.Outcome State Fault Refusal :=
  .next (flProceed s x 4 i f)

/-- FORMAT (R306). -/
def execFlashFormat (x : XDie) (i : Nat) (f : NandFaults) (s : State) : Host.Outcome State Fault Refusal :=
  .next (flProceed s x 5 i f)

/-- FLASH_TASK_END (R294). -/
def execFlashTaskEnd (x : XDie) (i : Nat) (s : State) : Host.Outcome State Fault Refusal := .next (flEnd s x i)

/-- FL_ABORT (R293). -/
def execFlAbort (x : XDie) (a : CsrAcc) (s : State) : Host.Outcome State Fault Refusal :=
  .next (onXdie s (fun s => writeFlAbort s x a))

/-- MAP_PAGE_FILL (R296). -/
def execMapPageFill (x : XDie) (i : Nat) (f : NandFaults) (s : State) : Host.Outcome State Fault Refusal :=
  .next (mapFill s x i f)

/-- SUPERBLOCK_VERIFY (R300). -/
def execSuperblockVerify (x : XDie) (v : Fin 16) (i : Nat) (bad : List (Nat × Fin 16)) (f : NandFaults) (s : State) :
    Host.Outcome State Fault Refusal :=
  .next (verifySb s x v i (bad.map (fun b => (b.1, b.2.val))) f)

/-- GARBAGE_COLLECTION (R304). -/
def execGarbageCollection (x : XDie) (v : Fin 16) (s : State) : Host.Outcome State Fault Refusal := .next (gcStart s x v)

/-- RELOCATE_GRANULE (R305). -/
def execRelocateGranule (x : XDie) (v : Fin 16) (f : NandFaults) (s : State) : Host.Outcome State Fault Refusal :=
  .next (gcMove s x v f)

/-- KEY_LOAD (R311). -/
def execKeyLoad (x : XDie) (m : Master) (a : CsrAcc) (s : State) : Host.Outcome State Fault Refusal :=
  .next (onXdie s (fun s => if Fld.FL_KEY_CMD_LOAD.presented a = 1 then writeFlKeyCmd s m.toNat x a else s))

/-- KEY_CLEAR (R311). -/
def execKeyClear (x : XDie) (m : Master) (a : CsrAcc) (s : State) : Host.Outcome State Fault Refusal :=
  .next (onXdie s (fun s => if Fld.FL_KEY_CMD_CLEAR.presented a = 1 then writeFlKeyCmd s m.toNat x a else s))

/-- FL_KEY_DATA (R311). -/
def execFlKeyData (x : XDie) (k : Fin 8) (m : Master) (a : CsrAcc) (s : State) : Host.Outcome State Fault Refusal :=
  .next (onXdie s (fun s => writeFlKeyData s m.toNat x k a))

/-- FL_VOL_CFG_WRITE (R312). -/
def execFlVolCfgWrite (x : XDie) (v : Fin 16) (a : CsrAcc) (s : State) : Host.Outcome State Fault Refusal :=
  .next (onXdie s (fun s => writeVolCfg s x v a))

end Sys2Proof.Machine
end

