-- ==== Sys2Proof/Machine/Flit.lean ====
section
/-!
DEFINITION. The flits of the host links as bytes (R403, R404, R406): headers, slots, CRC-64 and FEC, sent and received.
-/
namespace Sys2Proof.Machine

/-! ## Messages in slots (R406) -/

/-- Does an opcode carry a line, in four data slots? -/
def carriesLine (op : Nat) : Bool := op == 0x04 || op == 0x05 || op == 0x31 || op == 0x35

/-- Is it an opcode of the table? -/
def isOpcode (op : Nat) : Bool :=
  (1 ≤ op && op ≤ 6) || op == 0x21 || op == 0x22 || (0x31 ≤ op && op ≤ 0x37)

/-- The header slot of a message. -/
def headerSlot (m : HostMsg) : List Byte :=
  leBytes 1 m.opcode ++ leBytes 1 (b2n m.poison + 2 * (m.granted % 4)) ++ leBytes 2 (m.tag % 4096) ++ leBytes 6 (m.addr / 64 % 2 ^ 46)
    ++ leBytes 1 m.mask ++ leBytes 1 m.status ++ List.replicate 4 0

/-- The slots of a message: the header slot, and the line in four. -/
def slotBytes (m : HostMsg) : List Byte :=
  headerSlot m ++ (if carriesLine m.opcode then sliceB m.data 0 64 else [])

/-- The message that a header slot and its line say, received on a link. -/
def msgOfSlots (x : Nat) (h data : List Byte) : HostMsg :=
  { link := x, opcode := leAt h 0 1, tag := leAt h 2 2 % 4096, addr := leAt h 4 6 % 2 ^ 46 * 64, mask := leAt h 10 1,
    granted := bits (leAt h 1 1) 1 2, poison := (leAt h 1 1).testBit 0, status := leAt h 11 1, data := data }

/-- The messages that slots hold, and the slots of one that is not whole yet. A slot whose first byte is no opcode holds no
message. `n` bounds the number of slots. -/
def parseSlots (x : Nat) : Nat → List Byte → List HostMsg × List Byte
  | 0, bs => ([], bs)
  | n + 1, bs =>
    if bs.length < 16 then ([], bs)
    else
      let op := leAt bs 0 1
      if !isOpcode op then parseSlots x n (bs.drop 16)
      else if carriesLine op then
        if bs.length < 80 then ([], bs)
        else
          let r := parseSlots x n (bs.drop 80)
          (msgOfSlots x bs (sliceB bs 16 64) :: r.1, r.2)
      else
        let r := parseSlots x n (bs.drop 16)
        (msgOfSlots x bs [] :: r.1, r.2)

/-! ## CRC and FEC (R403, R404) -/

/-- The CRC-64 of R403. -/
def crc64 (bs : List Byte) : Nat := crcOf ⟨64, 0x42F0E1EBA9EA3693, 0xFFFFFFFFFFFFFFFF, false, false, 0⟩ bs

/-- The information symbols of a flit's codeword: its even or odd bytes. -/
def flitInfo (f : List Byte) (p : Nat) : List Nat := (List.range 126).map (fun i => (f.getD (2 * i + p) 0).toNat)

/-- The FEC check symbols of a flit's first 252 bytes: codeword 0's at 252 and 254, codeword 1's at 253 and 255. -/
def flitCheck (f : List Byte) : List Byte :=
  let e := rsCheck 2 (flitInfo f 0)
  let o := rsCheck 2 (flitInfo f 1)
  [e.getD 1 0, o.getD 1 0, e.getD 0 0, o.getD 0 0].map (BitVec.ofNat 8)

/-- The header of a flit (R403). -/
def flitHead (f : HostFlit) : List Byte :=
  leBytes 4 (f.seq % 1024 + f.type % 4 * 2 ^ 10 + f.ack.getD 0 % 1024 * 2 ^ 12 + b2n (f.ack.isSome && f.type != 2) * 2 ^ 22
    + f.req % 16 * 2 ^ 23)

/-- The 256 bytes of a flit the device sends: its message fills the first slots, and the others hold no message. -/
def flitBytes (f : HostFlit) : List Byte :=
  let m := f.msg.elim [] slotBytes
  let b := flitHead f ++ m ++ List.replicate (240 - m.length) 0
  let b := b ++ leBytes 8 (crc64 b)
  b ++ flitCheck b

/-- One codeword, its first symbol the highest power: the two syndromes. -/
def flitSyndromes (c : List Nat) : Nat × Nat := c.foldl (fun (s0, s1) v => (s0 ^^^ v, gfMul s1 2 ^^^ v)) (0, 0)

/-- Correct one symbol of a codeword: the codeword and the symbols corrected, none when it cannot be corrected. -/
def flitCorrect (c : List Nat) : Option (List Nat × Nat) :=
  let (s0, s1) := flitSyndromes c
  if s0 = 0 && s1 = 0 then some (c, 0)
  else if s0 = 0 then none
  else ((List.range c.length).find? (fun j => gfMul s0 (gfPow j) == s1)).map (fun j =>
    let i := c.length - 1 - j
    (c.set i (c.getD i 0 ^^^ s0), 1))

/-- The FEC of a flit (R404): the corrected 256 bytes and the symbols corrected. A codeword that cannot be corrected is
left as it is; the CRC then fails. -/
def flitFec (f : List Byte) : List Byte × Nat :=
  let word (p : Nat) : List Nat := ((List.range 128).map (fun i => (f.getD (2 * i + p) 0).toNat))
  let fix (c : List Nat) : List Nat × Nat := (flitCorrect c).getD (c, 0)
  let (e, ne) := fix (word 0)
  let (o, no) := fix (word 1)
  ((List.range 256).map (fun i => BitVec.ofNat 8 ((if i % 2 = 0 then e else o).getD (i / 2) 0)), ne + no)

end Sys2Proof.Machine
end

