-- ==== Sys2Proof/Machine/Ports.lean ====
section
/-!
DEFINITION. Ports (R350 to R355): configuration, links, link-level replay, reception of a frame, policing, and frames that
a rope port forwards (R436).
-/
namespace Sys2Proof.Machine

/-- A port register's copy. -/
def portCopy (x p : Nat) : Nat := x * 8 + p

/-- Interfaces of a port (R350). -/
def ifCount (s : State) (x p : Nat) : Nat := if p = 7 then 1 else 2 ^ s.fld Fld.PORT_CFG_MODE (portCopy x p)

/-- The rate of an interface in units of 100 Mb/s (R350). -/
def ifRate (s : State) (x p : Nat) : Nat := 16000 / ifCount s x p

/-- Is every lane of a port marked failed (R354, R462)? -/
def portFailed (s : State) (x p : Nat) : Bool := (List.range 8).all (fun l => laneFailed s x p l)

/-- Is some lane of an interface marked failed (R462)? -/
def ifLaneFailed (s : State) (x p i : Nat) : Bool :=
  (List.range 8).any (fun l => l * ifCount s x p / 8 == i && laneFailed s x p l)

/-- The enable bits that a write may set: not those of an interface with a failed lane (R354, R462). -/
def allowedEnable (s : State) (x p v : Nat) : Nat :=
  ((List.range 8).filter (fun i => v.testBit i && !ifLaneFailed s x p i)).foldl (fun n i => n + 2 ^ i) 0

/-- A write of PORT_CFG or PORT_MAC (R354). On the rope port MODE reads 0, REPLAY 1 and AN 0. -/
def writePort (s : State) (x p : Nat) (r : PortReg) (a : CsrAcc) : State :=
  let c := portCopy x p
  let on := s.fld Fld.PORT_CFG_ENABLE c ≠ 0
  match r with
  | .mac => if on then s else s.plainWrite .PORT_MAC c false a
  | .cfg =>
    let en := s.written Fld.PORT_CFG_ENABLE c a
    let keep (f : Fld) : Nat := if on ∨ p = 7 then s.fld f c else s.written f c a
    let (m, r, n) := (keep Fld.PORT_CFG_MODE, keep Fld.PORT_CFG_REPLAY, keep Fld.PORT_CFG_AN)
    let s := ((s.setFld Fld.PORT_CFG_MODE c m).setFld Fld.PORT_CFG_REPLAY c r).setFld Fld.PORT_CFG_AN c n
    s.setFld Fld.PORT_CFG_ENABLE c (allowedEnable s x p en)

/-- One bit of `PORT_STATUS.LINK`. -/
def setLinkBit (s : State) (x p i : Nat) (b : Bool) : State :=
  let c := portCopy x p
  s.setFld Fld.PORT_STATUS_LINK c (putBits (s.fld Fld.PORT_STATUS_LINK c) i 1 (b2n b))

/-- Is an interface up? -/
def ifUp (s : State) (x p i : Nat) : Bool := (s.fld Fld.PORT_STATUS_LINK (portCopy x p)).testBit i

/-- An interface comes up (R385), where the X-die has power (R477); its replay sequences start again (R442). -/
def portLinkUp (s : State) (x p i : Nat) : State :=
  if !xdiesUp s || ifUp s x p i || !ifEnabled s x p i || ifLaneFailed s x p i then s
  else
    let s := setPortIf s (ifKey x p i) { quiet := (portIfAt s (ifKey x p i)).quiet }
    postEvent (setLinkBit s x p i true) x 0x02 p i 0 0 0

/-- An interface goes down (R385). -/
def portLinkDown (s : State) (x p i : Nat) : State :=
  if ifUp s x p i then postEvent (setLinkBit s x p i false) x 0x01 p i 0 0 0 else s

/-- A received REPLAY_REQ (R353): the frames from the requested number on are sent again; frames that have left the retry
buffer are lost; an interface that is not enabled sends nothing (R354). -/
def replayRequest (s : State) (x p i seq : Nat) : State :=
  let st := portIfAt s (ifKey x p i)
  let pending (e : Nat × Frame) : Bool := (e.1 + 65536 - seq) % 65536 < 32768
  let fs := st.retry.filter pending
  let first := (fs.head?.map Prod.fst).getD st.txSeq
  let s := if first = seq then s
    else postEvent (s.satAdd Fld.PORT_CNT_FRAME_REPLAY_LOST (portCopy x p) 1) x 0x07 p i 0 0 0
  if ifEnabled s x p i then { s with wire := s.wire ++ fs.map (fun e => withPreamble st e.1 e.2) } else s

/-! ## Reception -/

/-- XCLK cycles pass for a port: its policers fill and its interfaces' quiet times grow. -/
def portTime (s : State) (x p cycles : Nat) : State :=
  let s := policeTime s x p cycles
  (List.range 8).foldl (fun s i =>
    let st := portIfAt s (ifKey x p i)
    setPortIf s (ifKey x p i) { st with quiet := min 1250000 (st.quiet + cycles) }) s

/-- Uncorrectable codewords of a frame, an injected one of the frame's interface included (R352, R514). -/
def rxUncorr (s : State) (x p i n : Nat) : Nat × State :=
  if s.fld Fld.ERR_INJ_PARAM 0 * ifCount s x p / 8 = i then
    match injFire s 8 (8 * x + p) with
    | some (_, s) => (n + 1, s)
    | none => (n, s)
  else (n, s)

/-- FEC counts and the FEC_UNCORRECTABLE event (R352, R385). -/
def rxFec (s : State) (x p i corrected uncorr : Nat) : State :=
  let c := portCopy x p
  let s := (s.satAdd Fld.PORT_CNT_FEC_CORRECTED c corrected).satAdd Fld.PORT_CNT_FEC_UNCORR c uncorr
  if uncorr = 0 then s
  else
    let s := detect s 8
    let st := portIfAt s (ifKey x p i)
    if st.quiet < 1250000 then s
    else postEvent (setPortIf s (ifKey x p i) { st with quiet := 0 }) x 0x03 p i 0 0 0

/-- Start discarding until the next in-order frame, and ask for a replay (R353). -/
def rxDiscard (s : State) (x p i : Nat) : State :=
  let st := portIfAt s (ifKey x p i)
  if st.discarding then s
  else (setPortIf s (ifKey x p i) { st with discarding := true }).satAdd Fld.PORT_CNT_FRAME_REPLAYED (portCopy x p) 1

/-- Link-level replay of a good frame (R353): whether it is the next in order. The acknowledged frames leave the retry
buffer. -/
def rxReplay (s : State) (x p i seq acked : Nat) : Bool × State :=
  let st := portIfAt s (ifKey x p i)
  let st := { st with retry := st.retry.filter (fun e => !((acked + 65536 - e.1) % 65536 < 32768)) }
  if seq = st.rxExpect then
    (true, setPortIf s (ifKey x p i) { st with rxExpect := (seq + 1) % 65536, discarding := false })
  else (false, rxDiscard (setPortIf s (ifKey x p i) st) x p i)

/-- A frame arrives at a port (R351 to R353, R400): whether it goes on to its protocol. The fabric path checks nothing; an interface
that is not enabled or not up takes nothing (R354, R477). -/
def ingress (s : State) (x : Nat) (i : RxInfo) : Bool × State :=
  let p := i.port.val
  let f := i.iface.val
  if p = 8 then (true, s)
  else if !ifEnabled s x p f || !ifUp s x p f then (false, s)
  else
    let c := portCopy x p
    let s := portTime s x p i.cycles.toNat
    let (un, s) := rxUncorr s x p f i.uncorr.toNat
    let s := rxFec s x p f i.corrected.toNat un
    if i.badFcs || un ≠ 0 then
      let s := s.satAdd Fld.PORT_CNT_FRAME_FCS c 1
      (false, if replays s x p then rxDiscard s x p f else s)
    else
      let (ok, s) := if replays s x p then rxReplay s x p f i.seq.toNat i.acked.toNat else (true, s)
      if !ok then (false, s)
      else if i.tagged then (false, s.satAdd Fld.PORT_CNT_FRAME_DISCARD c 1)
      else police s x p i.dscp.toNat i.len.toNat i.ip

/-! ## Routes (R360, R437) -/

/-- The positions of the set bits of a mask of 64. -/
def maskBits (m : Nat) : List Nat := (List.range 64).filter (fun i => m.testBit i)

/-- The ring position of a member, if a member of the rope has the module ID. -/
def memberPos (s : State) (id : Nat) : Option Nat :=
  (List.range 32).find? (fun n => s.fld Fld.ROPE_MEMBER_STATE n ≠ 0 && s.fld Fld.ROPE_MEMBER_MODULE_ID n == id)

/-- Is a module an ACTIVE or SUSPECT member (R436)? -/
def memberLive (s : State) (id : Nat) : Bool :=
  (memberPos s id).elim false (fun n => s.fld Fld.ROPE_MEMBER_STATE n == 1 || s.fld Fld.ROPE_MEMBER_STATE n == 2)

/-- Where a packet toward a module leaves: scheduler, interface, whether it crosses to the other X-die's rope port; `mask` is the
interface mask of its entry. `n` is message ID + packet + resends (R360); on the rope the route bit says east, X-die 0, or west,
X-die 1 (R437). -/
def routeTo (s : State) (x dst n mask : Nat) : Nat × Nat × Bool :=
  let bs := maskBits mask
  let b := bs.getD (n % max 1 bs.length) 0
  if b / 8 = 7 then
    let west := (memberPos s dst).elim false (fun q => (s.fld Fld.ROPE_ROUTE_WEST 0).testBit q)
    if (if west then 1 else 0) = x then (7, 0, false) else (8, 0, true)
  else (b / 8, b % 8, false)

/-- The bytes that a packet carries above its header. -/
def Packet.payload : Packet → List Byte
  | .furrow _ d => d
  | .rope _ d => d
  | .roce p => p.data
  | .segment _ _ => []

/-- The route of a packet, `mask` being the interface mask of its destination's entry. -/
def PktOut.way (s : State) (p : PktOut) (mask : Nat) : Nat × Nat × Bool :=
  match p.route with
  | .mask => routeTo s p.x p.dst p.n mask
  | .fabric => (8, 0, false)
  | .rope | .hop => (7, 0, false)
  | .onward .. => (8, 0, true)

/-- The address of the interface entry that gives a packet's next hop: that of the rope port of the other X-die where it crosses. -/
def PktOut.hopAddr (s : State) (p : PktOut) (mask : Nat) : Nat :=
  let w := p.way s mask
  if w.1 = 8 then ifEntryAddr s (1 - p.x) 7 0 else ifEntryAddr s p.x w.1 w.2.1

/-- The address-table lines that a packet needs (R356): own entry, the destination's, the interface's. -/
def PktOut.spans (s : State) (p : PktOut) : List Span :=
  let e := modEntryAddr s p.x p.dst
  let mask := leNat (peek s (e + 8) 8)
  match p.route with
  | .mask | .rope => [(modEntryAddr s p.x (moduleId s), 64), (e, 64), (p.hopAddr s mask, 16)]
  | .fabric => [(e, 64)]
  | .hop => [(modEntryAddr s p.x (moduleId s), 64)]
  | .onward .. => [(p.hopAddr s mask, 16)]

/-- An address: 16 or 4 bytes, zero where a table gives one of the other version. -/
def addrFor (v6 : Bool) (e : List Byte) (engine : Bool) : List Byte :=
  if (leAt e 0 1).testBit 1 = v6 then entryIp e engine else List.replicate (if v6 then 16 else 4) 0

/-- The frame of a Furrow or rope packet: Ethernet, IP, UDP, 48-byte header, payload, FCS (R357), its addresses from the table
(R356) or, for a packet that goes on, as they came. -/
def PktOut.frame (s : State) (p : PktOut) : Frame × State :=
  let read (s : State) (a n : Nat) : ReadRes := memRead s (0x390 + p.x) 3 a n
  let e := read s (modEntryAddr s p.x p.dst) 64
  let own := read e.st (modEntryAddr s p.x (moduleId s)) 64
  let mask := leAt e.data 8 8
  let hop := read own.st (p.hopAddr s mask) 16
  let w := p.way s mask
  let len (v6 : Bool) : Nat := 14 + (if v6 then 40 else 20) + 8 + 48 + p.pkt.payload.length + 4
  let paths := max 1 (min 16 (s.fld Fld.FUR_CFG_PATHS p.x))
  let v6 := (leAt e.data 0 1).testBit 1
  let f : Frame :=
    { x := p.x, sched := w.1, iface := w.2.1, cross := w.2.2, queue := p.queue.getD (ackQueue s p.x w.1), len := len v6, v6 := v6,
      mac := hop.data.take 6, dst := entryIp e.data p.engine, sport := (s.fld Fld.FUR_CFG_SPORT_BASE p.x + p.n % paths) % 65536,
      dscp := p.dscp, pkt := p.pkt, ackQ := p.queue.isNone, src := addrFor v6 own.data (p.x = 1), dport := s.fld Fld.FUR_CFG_UDP_PORT p.x, source := p.source }
  match p.route with
  | .mask | .rope => (f, hop.st)
  | .fabric => (f, e.st)
  | .hop =>
    let o := read s (modEntryAddr s p.x (moduleId s)) 64
    ({ f with v6 := true, len := len true, mac := [0x33, 0x33, 0, 0, 0, 1], dst := [0xFF, 0x02] ++ List.replicate 13 0 ++ [1],
              sport := s.fld Fld.FUR_CFG_SPORT_BASE p.x,
              src := if s.flag Fld.ROPE_STATUS_ID_VALID 0 then addrFor true o.data (p.x = 1) else List.replicate 16 0 }, o.st)
  | .onward src dst sport ce =>
    let h := read s (p.hopAddr s mask) 16
    let v6 : Bool := dst.length = 16
    ({ f with v6 := v6, len := len v6, mac := h.data.take 6, dst := dst, src := src, sport := sport, ce := ce }, h.st)

/-- Send a packet, or hold it, behind those of its source that are held before it, until the host has answered for the lines of the
address table (R356, R410). -/
def sendPacket (s : State) (p : PktOut) : State :=
  let behind : Bool := s.heldPuts.any (fun h => match h with
    | .packet q => q.x == p.x && q.source == p.source
    | _ => false)
  if behind then { s with heldPuts := s.heldPuts ++ [.packet p] }
  else
    match prepare s (0x390 + p.x) (p.spans s) [] with
    | .stall s => { s with heldPuts := s.heldPuts ++ [.packet p] }
    | .go => let (f, s) := p.frame s; emitFrame s f

/-- The keys under which packets wait (R391): the receive side of an engine, firmware's rope messages, packets that go on. -/
def answerSource (x : Nat) : Nat := 1000 + x
/-- Rope messages of firmware. -/
def ropeSource (x : Nat) : Nat := 1010 + x
/-- Packets forwarded from a rope port. -/
def onwardSource (x : Nat) : Nat := 1020 + x

/-- A packet dropped under R357, R384 or R436. -/
def furDrop (s : State) (x : Nat) : State := s.satAdd Fld.FUR_CNT_DROPPED x 1

/-- The egress queue of a rope message (R434). -/
def ropeQueue (type : Nat) : Nat := if type = 0x29 ∨ type = 0x2A then 61 else 60

/-- A packet for another module arrives on a rope port (R436). -/
def ropeForward (s : State) (x : Nat) (i : RxInfo) (pkt : RxPacket) : State :=
  let (src, dst, eng, q, p) := match pkt with
    | .furrow h d => (h.src.toNat, h.dst.toNat, h.dstEngine, min 59 (s.fld Fld.ROPE_CFG_FWD_QUEUE 0), Packet.furrow h d)
    | .rope h d => (h.src.toNat, h.dst.toNat, h.dstEngine, ropeQueue h.type.toNat, Packet.rope h d)
  if !memberLive s dst || src == moduleId s || !ifUp s (1 - x) 7 0 then furDrop s x
  else sendPacket s { x := x, dst := dst, engine := eng, route := .onward i.srcIp i.dstIp i.sport.toNat i.ce, queue := some q,
                      dscp := i.dscp.toNat, n := 0, pkt := p, source := onwardSource x }

/-- The address-table line that an arriving packet is tested against: the own module's entry (R356). The fabric path has no
addresses. -/
def ownSpanRx (s : State) (x : Nat) (i : RxInfo) : List Span :=
  if i.port.val = 8 then [] else [(modEntryAddr s x (moduleId s), 64)]

/-- Is a packet's destination IP address the engine's own, and the version of its header 1 (R356, R357)? -/
def addressedHere (s : State) (x : Nat) (i : RxInfo) : Bool × State :=
  if i.port.val = 8 then (i.version == 1, s)
  else
    let r := memRead s (0x390 + x) 3 (modEntryAddr s x (moduleId s)) 64
    (i.version == 1 && i.dstIp == entryIp r.data (x == 1), r.st)

/-- PORT_CFG_WRITE (R354). -/
def execPortCfgWrite (x : XDie) (p : Fin 8) (r : PortReg) (a : CsrAcc) (s : State) : Host.Outcome State Fault Refusal :=
  .next (onXdie s (fun s => writePort s x p r a))

/-- PORT_REPLAY_REQ (R353). -/
def execPortReplayReq (x : XDie) (p i : Fin 8) (seq : BitVec 16) (s : State) : Host.Outcome State Fault Refusal :=
  .next (if replays s x p then replayRequest s x p i seq.toNat else s)

/-- The Application that firmware selects in a module (R355): the first, numbered from 1, whose host interface matches the port's
MODE; 0 for none. -/
def selectApp (s : State) (x p : Nat) (apps : List (BitVec 8)) : Nat :=
  ((apps.map BitVec.toNat).findIdx? (· == s.fld Fld.PORT_CFG_MODE (portCopy x p))).elim 0 (· + 1)

/-- CMIS_POLL (R355): what the module of a field port reports. `apps` gives, for each Application it advertises, the value of
`PORT_CFG.MODE` that its host interface matches; a fault or an alarm flag is a MODULE_FAULT. -/
def cmisPoll (x p : Nat) (present : Bool) (cmis : Nat) (r : CmisReport) (s : State) : State :=
  let c := portCopy x p
  let was := s.flag Fld.PORT_STATUS_PRESENT c
  let s := { s with cmisApp := Cells.put (fun _ => 0) s.cmisApp c (if present then selectApp s x p r.apps else 0) }
  let s := (s.setFld Fld.PORT_STATUS_PRESENT c (b2n present)).setFld Fld.PORT_STATUS_CMIS_STATE c cmis
  let s := if present && !was then postEvent s x 0x04 p 0xFF 0 0 0 else if !present && was then postEvent s x 0x05 p 0xFF 0 0 0 else s
  if present && (r.fault || r.alarm) then postEvent s x 0x06 p 0xFF 0 0 0 else s

/-- CMIS_POLL (R355). -/
def execCmisPoll (x : XDie) (p : Fin 7) (present : Bool) (cmis : BitVec 3) (r : CmisReport) (s : State) : Host.Outcome State Fault Refusal :=
  .next (onXdie s (cmisPoll x p present cmis.toNat r))

/-- ROPE_FORWARD (R436): a packet for another module on a rope port. -/
def execRopeForward (x : XDie) (i : RxInfo) (pkt : RxPacket) (s : State) : Host.Outcome State Fault Refusal :=
  let (ok, s) := ingress s x i
  .next (if ok then ropeForward s x i pkt else s)

end Sys2Proof.Machine
end

