-- ==== Sys2Proof/Machine/Furrow.lean ====
section
/-!
DEFINITION. The Furrow engine as a sender (R356 to R364, R367, R375 to R383).
-/
namespace Sys2Proof.Machine

/-- A 48-byte header (R358) with the fields common to every packet an engine sends. -/
structure HdrSpec where
  type : Nat
  dst : Nat
  engine : Bool
  msg : Nat
  retransmit : Bool := false
  status : Nat := 0
  total : Nat := 0
  offset : Nat := 0
  len : Nat := 0
  job : Nat := 0
  rq : Nat := 0
  key : Nat := 0
  remote : Nat := 0

/-- The engine's oldest message that has not ended, or its next ID (R364). -/
def lowMark (f : FurSt) : Nat := ((f.msgs.find? (fun m => !m.resp)).map FurMsg.id).getD f.next

/-- The header as sent by an engine. -/
def headerOf (s : State) (x : Nat) (h : HdrSpec) : FurHdr :=
  { type := BitVec.ofNat 8 h.type, srcEngine := x = 1, dstEngine := h.engine, retransmit := h.retransmit,
    status := BitVec.ofNat 8 h.status, src := BitVec.ofNat 16 (moduleId s), dst := BitVec.ofNat 16 h.dst,
    msg := BitVec.ofNat 32 h.msg, low := BitVec.ofNat 32 (lowMark (furAt s x)), total := BitVec.ofNat 32 h.total,
    offset := BitVec.ofNat 32 h.offset, len := BitVec.ofNat 16 h.len, job := BitVec.ofNat 8 h.job, rq := BitVec.ofNat 8 h.rq,
    key := BitVec.ofNat 32 h.key, remote := BitVec.ofNat 64 h.remote }

/-- Is a destination the engine itself (R367)? -/
def isLocal (s : State) (x dst : Nat) (engine : Bool) : Bool := dst == moduleId s && engine == (x == 1)

/-- Send a packet of a source; the destination is owed no SYNC any more (R364). No queue is the ACK queue of its scheduler. -/
def sendFurrow (s : State) (x : Nat) (h : HdrSpec) (payload : List Byte) (queue : Option Nat) (dscp n source : Nat) : State :=
  let f := furAt s x
  sendPacket (setFur s x { f with syncDue := f.syncDue.filter (· ≠ (h.dst, h.engine)) })
    { x := x, dst := h.dst, engine := h.engine, route := if isLocal s x h.dst h.engine then .fabric else .mask, queue := queue,
      dscp := dscp, n := n, pkt := .furrow (headerOf s x h) payload, source := source }

/-! ## Messages -/

/-- The message of an engine at an index. -/
def msgAt (s : State) (x n : Nat) : Option FurMsg := (furAt s x).msgs[n]?

/-- Do two records describe one message? Answers to READ_REQs are numbered by their requesters. -/
def sameMsg (a b : FurMsg) : Bool := a.resp == b.resp && a.id == b.id && (!a.resp || (a.dst == b.dst && a.dstEngine == b.dstEngine))

/-- The state with a message replaced. -/
def setMsg (s : State) (x : Nat) (m : FurMsg) : State :=
  let f := furAt s x
  setFur s x { f with msgs := f.msgs.map (fun k => if sameMsg k m then m else k) }

/-- The key under which a message's packets wait (R391): its send queue, or the engine's answers. -/
def msgSource (x : Nat) (m : FurMsg) : Nat := if m.resp then answerSource x else 1 + x * 64 + m.sq

/-- Is it a packet of a message? -/
def FurMsg.owns (m : FurMsg) : Packet → Bool
  | .furrow h _ => h.type.toNat == m.type && h.msg.toNat == m.id && h.dst.toNat == m.dst && h.dstEngine == m.dstEngine
  | _ => false

/-- Send data packet `k` of a message. -/
def sendPkt (s : State) (x : Nat) (m : FurMsg) (t : TxPkt) : State :=
  let data := match m.type with
    | 3 => []
    | 5 => m.payload.take 8
    | _ => (m.payload.drop (4096 * t.k)).take 4096
  let h : HdrSpec := { type := m.type, dst := m.dst, engine := m.dstEngine, msg := m.id, retransmit := t.again ≠ 0,
                       total := m.total, offset := 4096 * t.k, len := data.length, job := m.job, rq := m.rq, key := m.key,
                       remote := m.remote }
  let c := x * 64 + m.sq
  let (q, dscp) := if m.resp then (Config.respQueue.val, (Config.replyDscp 4).toNat)
    else (s.fld Fld.FUR_SQ_CFG_EGRESS c, s.fld Fld.FUR_SQ_CFG_DSCP c)
  sendFurrow s x h data (some q) dscp (m.id + t.k + t.again) (msgSource x m)

/-- Send every packet of a new message. -/
def sendAll (s : State) (x : Nat) (m : FurMsg) : State := m.pkts.foldl (fun s t => sendPkt s x m t) s

/-- The destination table with room for a destination, most recently used last (R382). -/
def touchDest (f : FurSt) (dst start : Nat) : Option (List (Nat × Nat)) :=
  match f.dests.find? (fun e => e.1 = dst) with
  | some e => some (f.dests.filter (fun k => k.1 ≠ dst) ++ [e])
  | none =>
    if f.dests.length < 4096 then some (f.dests ++ [(dst, start)])
    else
      let idle (e : Nat × Nat) : Bool := !f.msgs.any (fun m => m.dst == e.1 && m.pkts.any (fun t => !t.acked))
      (f.dests.find? idle).map (fun e => f.dests.filter (· ≠ e) ++ [(dst, start)])

/-- May a message's packets be sent: the module is Ready, or its send queue is mapped to a privileged egress queue (R384)? -/
def maySend (s : State) (x : Nat) (m : FurMsg) : Bool :=
  moduleReady s || (!m.resp && s.fld Fld.FUR_SQ_CFG_EGRESS (x * 64 + m.sq) ≥ 60)

/-- Where a message may start now: the destination table with room for it (R382), while its packets may be sent (R384) and fewer than
4,096 messages are in flight, to which an answer does not count (R377). -/
def startRoom (s : State) (x : Nat) (m : FurMsg) : Option (List (Nat × Nat)) :=
  if !maySend s x m || (!m.resp && 4096 ≤ inFlight s x) then none
  else touchDest (furAt s x) m.dst (s.fld Fld.FUR_RATE_START x)

/-- A message that no descriptor holds back opens: its packets go, or wait until it may start. -/
def openMsg (s : State) (x : Nat) (m : FurMsg) : State :=
  let f := furAt s x
  match startRoom s x m with
  | none => setFur s x { f with msgs := f.msgs ++ [{ m with unsent := true }] }
  | some ds => sendAll (setFur s x { f with msgs := f.msgs ++ [m], dests := ds }) x m

/-- A message of firmware or of a job's programs opens under the engine's next ID. -/
def newMsg (s : State) (x : Nat) (m : FurMsg) : State :=
  let f := furAt s x
  openMsg (setFur s x { f with next := (f.next + 1) % 2 ^ 32 }) x { m with id := f.next }

/-- A replacement message goes as a SEND of its job (R230; log entry 119). -/
def sendRepl (s : State) (job dest : Nat) (b : List Byte) : State :=
  let (x, sq, rq, eng) := Config.replRoute job
  newMsg s x { id := 0, type := 2, dst := dest, dstEngine := eng, seq := 0, total := b.length, rq := rq, job := job, sq := sq,
               payload := b, pkts := [{ k := 0 }], repl := true }

/-- Is a replacement message still wanted: a reply, or a request whose attempt waits for its answer (R231)? -/
def replWanted (s : State) (m : FurMsg) : Bool :=
  leAt m.payload 0 2 == 2 || s.repl.any (fun t => t.job == leAt m.payload 2 1 && t.position == leAt m.payload 8 8
    && t.phase == .sent && t.tag == leAt m.payload 0x1C 4)

/-- The messages that wait go as far as they may start. -/
def pumpUnsent (s : State) (x : Nat) : State :=
  ((furAt s x).msgs.filter FurMsg.unsent).foldl (fun s m =>
    match startRoom s x m with
    | none => s
    | some ds =>
      let m := { m with unsent := false }
      let s := setMsg s x m
      sendAll (setFur s x { furAt s x with dests := ds }) x m) s

/-- Has a READ that ended a packet whose write is still to be performed (R361)? Its record waits for that write (R148). -/
def readOpen (s : State) (x : Nat) (j : Job) : Bool :=
  j.op == 3 && (furAt s x).writes.any (fun w => w.hdr.type == 4 && w.hdr.msg.toNat == leAt j.eng 0 4)

/-- Deliver the records of every descriptor whose outcome is final (R49, R379), but of one that waits for the host or for a write;
DONE counts those delivered. -/
def furDeliver (s : State) (x : Nat) : State :=
  let u : EngUnit := .furrow x
  ((jobsOf s u).filter (fun j => j.phase = .ended && !readOpen s x j)).foldl (fun s j =>
    match endReady s u j with
    | .stall s => s
    | .go => (endJob s u j).modAdd Fld.FUR_STATUS_DONE x 1) s

/-- A descriptor ends (R379). -/
def furFinish (s : State) (x seq status xfer : Nat) (eng : List Byte) : State :=
  furDeliver (updateJob s (.furrow x) seq (fun j => { j with phase := .ended, status := status, xfer := xfer, eng := eng })) x

/-- The packets of a message, its own source's, that have not reached an egress queue are sent no more (R380, R391). -/
def unqueue (s : State) (x : Nat) (m : FurMsg) : State :=
  { s with egressWait := s.egressWait.filter (fun f => !(f.source == msgSource x m && m.owns f.pkt)),
           heldPuts := s.heldPuts.filter (fun h => match h with
             | .packet p => !(p.source == msgSource x m && m.owns p.pkt)
             | _ => true) }

/-- A message leaves the engine; when the low mark advances its destination is owed a SYNC unless a packet follows
(R364). A packet that passed its checks is still written and acknowledged (R361). -/
def dropMsg (s : State) (x : Nat) (m : FurMsg) : State :=
  let s := unqueue s x m
  let f := furAt s x
  let g := { f with msgs := f.msgs.filter (fun k => !sameMsg k m) }
  let due := if !m.resp && lowMark g ≠ lowMark f && !g.syncDue.contains (m.dst, m.dstEngine) then [(m.dst, m.dstEngine)] else []
  pumpUnsent (setFur s x { g with syncDue := g.syncDue ++ due }) x

/-- The receive entry of an answered READ_REQ is DONE once the answer has ended. -/
def doneEntry (s : State) (x : Nat) (m : FurMsg) : State :=
  let f := furAt s x
  setFur s x { f with entries := f.entries.map (fun e =>
    if e.src = m.dst ∧ e.eng = m.dstEngine ∧ e.msg = m.id ∧ e.type ≠ 4 then { e with done := true } else e) }

/-- A message ends with a status (R362, R363, R379). A replacement message that did not arrive is sent again: a request is abandoned
only when its writer fails or is expelled (R231). -/
def endMsg (s : State) (x : Nat) (m : FurMsg) (status : Nat) : State :=
  let s := dropMsg s x m
  if m.resp then doneEntry s x m
  else if m.repl then if status ≠ 0 && replWanted s m then sendRepl s m.job m.dst m.payload else s
  else furFinish s x m.seq status (if status = 0 then m.total else 0) (furEng m.id m.dst m.resends 0 (if m.type = 5 && status = 0 then m.old else 0))

/-! ## Descriptors (R375 to R377) -/

/-- DST_ENGINE. -/
def furEngine (j : Job) : Bool := j.flags.testBit 1
/-- Its send queue. -/
def furSq (j : Job) : Nat := leAt j.desc 0x0A 1
/-- Its length. -/
def furLen (j : Job) : Nat := leAt j.desc 0x0C 4
/-- Its local span. -/
def furLocal (j : Job) : Span := if 1 ≤ j.op ∧ j.op ≤ 3 then (leAt j.desc 0x10 8, furLen j) else (0, 0)
/-- The counter of a WAIT. -/
def furWaitName (j : Job) : Nat := leAt j.desc 0x28 2

/-- Check 1 of R376. -/
def furFieldsOk (s : State) (x : Nat) (j : Job) : Bool :=
  let d := j.desc
  let n := furLen j
  j.flags < 4 && leAt d 5 1 % 4 == 0 && furSq j < 64 && zeroBytes d 0x1C 4 && zeroBytes d 0x30 16
    && s.flag Fld.FUR_SQ_CFG_ENABLE (x * 64 + furSq j) &&
    (match j.op with
     | 1 | 3 => 1 ≤ n && n ≤ 2 ^ 20
     | 2 => 1 ≤ n && n ≤ 4096 && leAt d 0x0B 1 < 64
     | 4 => n == 8
     | 5 => n == 0 && counterValid (furWaitName j)
     | _ => false)

/-- Check 2: populated DRAM, the enqueuing context's SRAM, or the host memory window. -/
def furSpan (s : State) (origin : Option Nat) (p : Span) : Nat :=
  if p.2 = 0 then 0 else if inHostWindow p.1 p.2 then 0 else ownSpan s origin p

/-- Check 3: the module entry and, but for a message to the engine itself (R367), one interface of its mask are VALID. -/
def peerKnown (s : State) (x : Nat) (j : Job) : Bool :=
  let e := peek s (modEntryAddr s x (furDst j)) 64
  leAt e 0 1 % 2 == 1 && (isLocal s x (furDst j) (furEngine j)
    || (maskBits (leAt e 8 8)).any (fun b => leNat (peek s (ifEntryAddr s x (b / 8) (b % 8) + 6) 1) % 2 == 1))

/-- The lines of the address table that check 3 reads. -/
def peerSpans (s : State) (x : Nat) (j : Job) : List Span :=
  let e := modEntryAddr s x (furDst j)
  (e, 64) :: (if isLocal s x (furDst j) (furEngine j) then []
    else (maskBits (leNat (peek s (e + 8) 8))).map (fun b => (ifEntryAddr s x (b / 8) (b % 8), 16)))

/-- The failing check of R376 and its status, of every operation. -/
def furCheck (s : State) (x : Nat) (j : Job) : Nat × Nat :=
  if !furFieldsOk s x j then (1, 0x81)
  else
    let sp := furSpan s j.origin (furLocal j)
    if sp ≠ 0 then (2, sp)
    else if !peerKnown s x j then (3, 0x83)
    else if !moduleReady s && s.fld Fld.FUR_SQ_CFG_EGRESS (x * 64 + furSq j) < 60 then (4, 0x0D)
    else (0, 0)

/-- The descriptors of a send queue, in order. -/
def sqJobs (s : State) (x q : Nat) : List Job := (jobsOf s (.furrow x)).filter (fun j => furSq j % 64 = q)

/-- May the next descriptor of a send queue start (R377)? -/
def furMay (s : State) (x q : Nat) (j : Job) : Bool :=
  let js := sqJobs s x q
  !js.any (fun k => k.phase = .running && k.op == 5)
    && (j.flags % 2 == 0 || (js.head?.elim false (fun h => h.seq == j.seq)))
    && (j.op == 5 || inFlight s x < 4096)

/-- The message of a descriptor. -/
def furMessage (f : FurSt) (j : Job) (data : List Byte) : FurMsg :=
  let n := if j.op = 1 then ceilDiv (furLen j) 4096 else 1
  { id := f.next, type := [0, 1, 2, 3, 5].getD j.op 0, dst := furDst j, dstEngine := furEngine j, seq := j.seq, total := furLen j,
    key := leAt j.desc 0x18 4, remote := leAt j.desc 0x20 8, rq := leAt j.desc 0x0B 1, job := j.jobId, sq := furSq j % 64,
    payload := data, pkts := (List.range n).map (fun k => { k := k }) }

/-- A descriptor that passed its checks sends its message; a destination waits for room in the table (R382). -/
def furSend (s : State) (x : Nat) (j : Job) : State :=
  let m := 0x390 + x
  let (a, n) := furLocal j
  let r := if j.op = 1 ∨ j.op = 2 then memRead s m 3 a n else ⟨if j.op = 4 then sliceB j.desc 0x28 8 else [], false, s⟩
  let p := internalParity (.furrow x) { status := if r.bad then 0x80 else 0, st := r.st }
  if p.status ≠ 0 then furFinish p.st x j.seq p.status 0 (furEng 0 (furDst j) 0 0 0)
  else
    let f := furAt s x
    match touchDest f (furDst j) (s.fld Fld.FUR_RATE_START x) with
    | none => s
    | some ds =>
      let msg := furMessage f j r.data
      let s := setFur p.st x { f with next := (f.next + 1) % 2 ^ 32, msgs := f.msgs ++ [msg], dests := ds }
      let s := updateJob s (.furrow x) j.seq (fun k => { k with phase := .running, eng := furEng msg.id msg.dst 0 0 0 })
      sendAll s x msg

/-- The next descriptor of a send queue starts (R376, R377). A poisoned line of the address table ends it with 0x80 at check 3
(R324). -/
def furStart (s : State) (x q op : Nat) : State :=
  match (sqJobs s x q).find? (fun j => j.phase = .waiting) with
  | none => s
  | some j =>
    if !takesOp [1, 2, 3, 4, 5] op j || !furMay s x q j then s
    else
      match prepare s (0x390 + x) (peerSpans s x j ++ (if j.op ≤ 2 then [furLocal j] else [])) [] with
      | .stall s => s
      | .go =>
        let (chk, st) := furCheck s x j
        let (bad, s) := if chk = 1 ∨ chk = 2 then (false, s) else readSpans s (0x390 + x) (peerSpans s x j)
        let (chk, st) := if bad then (3, 0x80) else (chk, st)
        if chk ≠ 0 then furFinish s x j.seq st 0 (furEng 0 (furDst j) 0 chk 0)
        else if j.op = 5 then
          updateJob s (.furrow x) j.seq (fun k => { k with phase := .running, eng := furEng 0 (furDst j) 0 0 0 })
        else dropHost (furSend s x j) (0x390 + x)

/-- A WAIT whose counter holds at least the target ends OK (R377). -/
def waitDone (s : State) (x q : Nat) : State :=
  match (sqJobs s x q).find? (fun j => j.phase = .running ∧ j.op = 5) with
  | none => s
  | some j => if leAt j.desc 0x20 8 ≤ counterVal s (furWaitName j) then furFinish s x j.seq 0 0 j.eng else s

/-- A descriptor that FUR_SUBMIT named is read (R378). An invalid counter name is refused (R47; log entry 118). A poisoned descriptor
ends with 0x80. -/
def takeFurrow (s : State) (x addr : Nat) : State :=
  let r := memRead s (0x390 + x) 3 addr 64
  if !counterValid (leAt r.data 6 2) then r.st.setFld Fld.FUR_SUBMIT_STATUS x 0x07
  else if queueFull r.st (.furrow x) r.data then r.st.setFld Fld.FUR_SUBMIT_STATUS x 0x03
  else
    let seq := r.st.jobSeq
    let s := (enqueueJob r.st (.furrow x) r.data none).setFld Fld.FUR_SUBMIT_STATUS x 0
    if r.bad then furFinish s x seq 0x80 0 (furEng 0 0 0 0 0) else furDeliver s x

/-- A submission (R378): while the host holds the descriptor's line, or an earlier submission to the engine waits, it waits too. -/
def submitFurrow (s : State) (x addr : Nat) : State :=
  let behind : Bool := s.heldPuts.any (fun h => match h with
    | .furrow y _ => x == y
    | .put .. | .event .. | .packet .. | .submit .. => false)
  if behind then { s with heldPuts := s.heldPuts ++ [.furrow x addr] }
  else if !inDram s addr 64 then s.setFld Fld.FUR_SUBMIT_STATUS x 0x07
  else
    match prepare s (0x390 + x) [(addr, 64)] [] with
    | .stall s => { s with heldPuts := s.heldPuts ++ [.furrow x addr] }
    | .go => takeFurrow s x addr

/-- A write of FUR_SUBMIT (R10, R378). -/
def furSubmit (s : State) (m x : Nat) (a : CsrAcc) : State :=
  match a with
  | .full v => submitFurrow s x (field v 6 46 * 64)
  | _ => violation s 0 m (regAddr .FUR_SUBMIT x) true

/-- A write of FUR_SQ_CFG (R378). -/
def writeSqCfg (s : State) (m x q : Nat) (a : CsrAcc) : State :=
  let c := x * 64 + q
  if s.written Fld.FUR_SQ_CFG_EGRESS c a ≥ 60 ∧ Fld.FUR_SQ_CFG_EGRESS.reached a ∧ !isCoreMaster m then
    violation s 1 m (regAddr .FUR_SQ_CFG c) true
  else s.plainWrite .FUR_SQ_CFG c false a

/-- Every message that may start now does: the module has become Ready (R384). -/
def pumpAll (s : State) : State := pumpUnsent (pumpUnsent s 0) 1

/-- A write of FUR_ABORT (R380): descriptors and their messages; the records follow at once. -/
def furAbort (s : State) (x : Nat) (a : CsrAcc) : State :=
  let hit := if Fld.FUR_ABORT_JOB.reached a then
      (abortable s (.furrow x) (Fld.FUR_ABORT_JOB.presented a) (Fld.FUR_ABORT_TAG.presented a)).map Job.seq else []
  let s := writeAbort s (.furrow x) Fld.FUR_ABORT_TAG Fld.FUR_ABORT_JOB Fld.FUR_ABORT_RES_STATUS Fld.FUR_ABORT_RES_COUNT x a
  let ms := (furAt s x).msgs.filter (fun m => !m.resp && hit.contains m.seq)
  furDeliver (ms.foldl (fun s m => dropMsg s x m) s) x

/-- A Furrow engine fails (R380). -/
def furFail (s : State) (x : Nat) : State :=
  let s := failUnit s (.furrow x)
  let f := furAt s x
  furDeliver (setFur s x { f with msgs := [], writes := [], syncDue := [], fabric := [] }) x

/-! ## Answers (R361 to R363, R383) -/

/-- The open message that an ACK or NAK from a source names by one of its packets, where that packet is as `want` says: one of the
engine's own, else an answer to a READ_REQ of that source. -/
def namedMsg (s : State) (x : Nat) (h : FurHdr) (want : TxPkt → Bool) : Option FurMsg :=
  let k := h.offset.toNat / 4096
  let hit (m : FurMsg) : Bool := m.id == h.msg.toNat && m.dst == h.src.toNat && m.dstEngine == h.srcEngine
    && m.pkts.any (fun t => t.k == k && want t)
  let ms := (furAt s x).msgs.filter hit
  (ms.find? (fun m => !m.resp)).or (ms.find? FurMsg.resp)

/-- The message that an ACK or NAK names and that still waits for that packet. -/
def answeredMsg (s : State) (x : Nat) (h : FurHdr) : Option FurMsg := namedMsg s x h (fun t => !t.acked)

/-- The open message that an ACK or NAK names: one that still waits for that packet, else one whose packet has been acknowledged
before (a second copy's answer). -/
def openNamed (s : State) (x : Nat) (h : FurHdr) : Option FurMsg := (answeredMsg s x h).or (namedMsg s x h (fun _ => true))

/-- A message with one packet changed. -/
def setPkt (m : FurMsg) (k : Nat) (g : TxPkt → TxPkt) : FurMsg := { m with pkts := m.pkts.map (fun t => if t.k = k then g t else t) }

/-- Does message `m` precede a low mark (R364)? -/
def precedes (m low : Nat) : Bool := let d := (low + 2 ^ 32 - m) % 2 ^ 32; 1 ≤ d && d ≤ 2 ^ 31

/-- A packet of a source engine carries its low mark (R364): the entries whose messages precede it are marked. -/
def noteLow (s : State) (x : Nat) (h : FurHdr) : State :=
  let f := furAt s x
  setFur s x { f with entries := f.entries.map (fun e =>
    if e.src = h.src.toNat ∧ e.eng = h.srcEngine ∧ precedes e.msg h.low.toNat then { e with passed := true } else e) }

/-- The pacing rate of a destination changed (R383). -/
def setRate (s : State) (x dst : Nat) (g : Nat → Nat) : State :=
  let f := furAt s x
  setFur s x { f with dests := f.dests.map (fun e => if e.1 = dst then (e.1, g e.2) else e) }

/-- All packets are acknowledged: the message ends, unless it is a READ that waits for its data (R379). -/
def checkAcked (s : State) (x : Nat) (m : FurMsg) : State :=
  if !m.pkts.all TxPkt.acked then setMsg s x m
  else if m.type = 3 && m.got ≠ 2 ^ ceilDiv m.total 4096 - 1 then setMsg s x m
  else endMsg s x m 0

/-- The pacing of the destination of an ACK with a CE count (R383), a second copy's ACK too. -/
def ackRate (s : State) (x : Nat) (h : FurHdr) (gap : Nat) : State :=
  match openNamed s x h with
  | none => s
  | some m => if h.status ≠ 0 ∧ s.fld Fld.FUR_RATE_GAP_DEC_GAP x ≤ gap then setRate s x m.dst (rateDown s x) else s

/-- A received ACK: `gap` XCLK cycles since the destination's last decrease. -/
def furAck (s : State) (x : Nat) (h : FurHdr) (gap : Nat) : State :=
  let s := ackRate s x h gap
  match answeredMsg s x h with
  | none => s
  | some m =>
    let m := setPkt m (h.offset.toNat / 4096) (fun t => { t with acked := true, waiting := false })
    pumpUnsent (checkAcked s x { m with old := if m.type = 5 then h.remote.toNat else m.old }) x

/-- A received NAK (R363): one that ends the message does so whichever copy of its packet drew it; one that asks to wait is for a
packet that still waits for its answer. Other statuses than those of the rule change nothing. -/
def furNak (s : State) (x : Nat) (h : FurHdr) : State :=
  let k := h.offset.toNat / 4096
  let port (s : State) (m : FurMsg) (type status key : Nat) : State := postEvent s x type 0xFF 0xFF status m.dst key
  match h.status.toNat with
  | 0x07 => (openNamed s x h).elim s (fun m => endMsg s x m 0x07)
  | 0x08 => (openNamed s x h).elim s (fun m => port (endMsg s x m 0x08) m 0x10 0x08 m.key)
  | 0x03 | 0x0D =>
    match answeredMsg s x h with
    | none => s
    | some m =>
      let st := h.status.toNat
      let s := if st = 0x0D ∧ !m.notReady then port s m 0x13 0x0D m.id else s
      let m := { m with notReady := m.notReady || st == 0x0D }
      let n := ((m.pkts.find? (fun t => t.k = k)).map TxPkt.rnr).getD 0 + 1
      let lim := s.fld Fld.FUR_TIMER_RNR_MAX x
      if lim ≠ 0 ∧ n > lim then endMsg s x m st
      else setMsg s x (setPkt m k (fun t => { t with rnr := n, waiting := true }))
  | _ => s

/-- Send packet `k` of a message again: counted in RETRANSMIT and in the record. -/
def resendPkt (s : State) (x : Nat) (m : FurMsg) (k : Nat) : State :=
  let m := setPkt { m with resends := m.resends + 1 } k (fun t => { t with again := t.again + 1 })
  let s := (setMsg s x m).satAdd Fld.FUR_CNT_RETRANSMIT x 1
  let s := if m.resp then s
    else updateJob s (.furrow x) m.seq (fun j => { j with eng := putAt j.eng 6 (leBytes 1 (min 255 m.resends)) })
  match m.pkts.find? (fun t => t.k = k) with
  | some t => sendPkt s x m t
  | none => s

/-- A packet's RTO expires (R362). -/
def furTimeout (s : State) (x n k : Nat) : State :=
  match msgAt s x n with
  | none => s
  | some m =>
    match m.pkts.find? (fun t => t.k = k && !t.acked && !t.waiting && !m.unsent) with
    | none => s
    | some t =>
      if !maySend s x m then s
      else if t.resent ≥ s.fld Fld.FUR_TIMER_RETRY_MAX x then postEvent (endMsg s x m 0x82) x 0x12 0xFF 0xFF 0x82 m.dst m.id
      else resendPkt s x (setPkt m k (fun t => { t with resent := t.resent + 1 })) k

/-- RNR_DELAY expires (R363). -/
def furRnrResend (s : State) (x n k : Nat) : State :=
  match msgAt s x n with
  | none => s
  | some m =>
    match m.pkts.find? (fun t => t.k = k && !t.acked && t.waiting) with
    | none => s
    | some _ => if maySend s x m then resendPkt s x (setPkt m k (fun t => { t with waiting := false })) k else s

/-- The sum of the rates of the interfaces in a module's mask (R383). -/
def maskRate (s : State) (x dst : Nat) : Nat :=
  (maskBits (leNat (peek s (modEntryAddr s x dst + 8) 8))).foldl
    (fun n b => if b % 8 < ifCount s x (b / 8) then n + ifRate s x (b / 8) else n) 0

/-- INC_GAP passes with no change (R383). -/
def rateUp (s : State) (x : Nat) (t : RateTarget) : State :=
  let inc := s.fld Fld.FUR_RATE_INC x
  match t with
  | .dest id =>
    match prepare s (0x390 + x) [(modEntryAddr s x id.toNat + 8, 8)] [] with
    | .stall s => s
    | .go =>
      let t := (readSpans s (0x390 + x) [(modEntryAddr s x id.toNat + 8, 8)]).2
      setRate t x id.toNat (fun r => min (r + inc) (maskRate s x id.toNat))
  | .qp i =>
    let q := qpAt s x i
    if q.st ≠ 1 then s else setQp s x i { q with rate := min (q.rate + inc) (ifRate s x (qpPort q.ctx)) }

/-- FURROW_WRITE (R376). -/
def execFurrowWrite (x : XDie) (q : Fin 64) (s : State) : Host.Outcome State Fault Refusal := .next (furStart s x q 1)

/-- FURROW_SEND (R376). -/
def execFurrowSend (x : XDie) (q : Fin 64) (s : State) : Host.Outcome State Fault Refusal := .next (furStart s x q 2)

/-- FURROW_READ (R376). -/
def execFurrowRead (x : XDie) (q : Fin 64) (s : State) : Host.Outcome State Fault Refusal := .next (furStart s x q 3)

/-- FURROW_ATOMIC_ADD (R376). -/
def execFurrowAtomicAdd (x : XDie) (q : Fin 64) (s : State) : Host.Outcome State Fault Refusal := .next (furStart s x q 4)

/-- WAIT (R377). -/
def execFurrowWait (x : XDie) (q : Fin 64) (s : State) : Host.Outcome State Fault Refusal := .next (furStart s x q 5)

/-- WAIT_SATISFIED (R377). -/
def execWaitSatisfied (x : XDie) (q : Fin 64) (s : State) : Host.Outcome State Fault Refusal := .next (waitDone s x q)

/-- FUR_SUBMIT (R378). -/
def execFurSubmit (m : Master) (x : XDie) (a : CsrAcc) (s : State) : Host.Outcome State Fault Refusal :=
  .next (onXdie s (fun s => furSubmit s m.toNat x a))

/-- FUR_SQ_CFG_WRITE (R378). -/
def execFurSqCfgWrite (m : Master) (x : XDie) (q : Fin 64) (a : CsrAcc) (s : State) : Host.Outcome State Fault Refusal :=
  .next (onXdie s (fun s => writeSqCfg s m.toNat x q a))

/-- FUR_ABORT (R380). -/
def execFurAbort (x : XDie) (a : CsrAcc) (s : State) : Host.Outcome State Fault Refusal :=
  .next (onXdie s (fun s => furAbort s x a))

/-- RETRANSMIT_TIMEOUT (R362): packet `k` of the engine's message `n`. -/
def execRetransmitTimeout (x : XDie) (n k : Nat) (s : State) : Host.Outcome State Fault Refusal := .next (furTimeout s x n k)

/-- RNR_RESEND (R363): packet `k` of the engine's message `n`. -/
def execRnrResend (x : XDie) (n k : Nat) (s : State) : Host.Outcome State Fault Refusal := .next (furRnrResend s x n k)

/-- SYNC_SEND (R364). -/
def execSyncSend (x : XDie) (dst : BitVec 16) (engine : Bool) (s : State) : Host.Outcome State Fault Refusal :=
  if (furAt s x).syncDue.contains (dst.toNat, engine) then
    .next (sendFurrow s x { type := 0x12, dst := dst.toNat, engine := engine, msg := 0 } [] none (Config.replyDscp 0x12).toNat 0
      (answerSource x))
  else .next s

/-- RATE_INCREASE (R383). -/
def execRateIncrease (x : XDie) (t : RateTarget) (s : State) : Host.Outcome State Fault Refusal := .next (rateUp s x t)

/-- NOT_READY_TOKEN (R384). -/
def execNotReadyToken (x : XDie) (p : Fin 9) (s : State) : Host.Outcome State Fault Refusal :=
  .next { s with nrEmpty := Cells.put (fun _ => false) s.nrEmpty (x.val * 9 + p.val) false }

end Sys2Proof.Machine
end

