-- ==== Sys2Proof/Machine/FurrowRx.lean ====
section
/-!
DEFINITION. The Furrow engine as a receiver (R357, R361, R364 to R374, R384), its keys, and its event ring pointer.
-/
namespace Sys2Proof.Machine

/-! ## Keys (R368 to R370) -/

/-- A key. -/
def keyAt (s : State) (i : Nat) : FurKey := Cells.get (fun _ => {}) s.keys i

/-- The state with a key replaced. -/
def setKey (s : State) (i : Nat) (k : FurKey) : State := { s with keys := Cells.put (fun _ => {}) s.keys i k }

/-- May a key grant this span (R368)? -/
def keySpanOk (s : State) (a n : Nat) : Bool := inOneMemory s a n && !inFailedMemory s a

/-- REGISTER (R368). -/
def registerKey (s : State) : State :=
  let i := s.fld Fld.FUR_KEY_CMD_INDEX 0
  let k := keyAt s i
  let rights := s.fld Fld.FUR_KEY_CMD_RIGHTS 0
  let base := s.fld Fld.FUR_KEY_BASE_BASE 0
  let len := s.fld Fld.FUR_KEY_LEN_LEN 0
  let ce := s.flag Fld.FUR_KEY_CMD_COUNT_EN 0
  let cn := s.fld Fld.FUR_KEY_CMD_COUNTER 0
  if k.st ≠ 0 || rights == 0 || len == 0 || !keySpanOk s base len || (ce && !counterValid cn) then
    s.setFld Fld.FUR_KEY_CMD_RESULT 0 1
  else
    let g := (k.gen + 1) % 2 ^ 20
    (setKey s i { st := 1, gen := if g = 0 then 1 else g, rights := rights, countEn := ce, counter := cn, base := base, len := len }).setFld
      Fld.FUR_KEY_CMD_RESULT 0 0

/-- A REVOKING key without packets in flight becomes FREE (R370). -/
def settleKey (s : State) (i : Nat) : State :=
  let k := keyAt s i
  if k.st = 2 ∧ k.inFlight = 0 then postEvent (setKey s i { k with st := 0 }) 0 0x11 0xFF 0xFF 0 0 (k.gen * 4096 + i) else s

/-- REVOKE (R370). -/
def revokeKey (s : State) : State :=
  let i := s.fld Fld.FUR_KEY_CMD_INDEX 0
  let k := keyAt s i
  if k.st ≠ 1 then s.setFld Fld.FUR_KEY_CMD_RESULT 0 1
  else settleKey ((setKey s i { k with st := 2 }).setFld Fld.FUR_KEY_CMD_RESULT 0 0) i

/-- A write of FUR_KEY_CMD. -/
def writeKeyCmd (s : State) (a : CsrAcc) : State :=
  let s := s.plainWrite .FUR_KEY_CMD 0 false a
  match Fld.FUR_KEY_CMD_OP.presented a with
  | 1 => registerKey s
  | 2 => revokeKey s
  | _ => s

/-- The status of a data packet under its key: 0, or the NAK of R369. -/
def keyCheck (s : State) (h : FurHdr) : Nat :=
  let i := h.key.toNat % 4096
  let k := keyAt s i
  let right := match h.type.toNat with | 1 => 1 | 3 => 0 | _ => 2
  let off := h.remote.toNat
  let fits : Bool := match h.type.toNat with
    | 3 => off + h.total.toNat ≤ k.len
    | 5 => (k.base + off) % 8 == 0 && off + 8 ≤ k.len
    | _ => off + h.offset.toNat + h.len.toNat ≤ k.len
  if k.st = 0 ∨ k.gen ≠ h.key.toNat / 4096 ∨ k.gen = 0 then 0x07
  else if k.st = 2 then 0x08
  else if !k.rights.testBit right then 0x07
  else if fits then 0 else 0x07

/-- A packet's count in its key (R369). -/
def keyHold (s : State) (i : Nat) : State := let k := keyAt s i; setKey s i { k with inFlight := k.inFlight + 1 }

/-- The count falls; the last packet of a REVOKING key frees it. -/
def keyRelease (s : State) (i : Nat) : State :=
  let k := keyAt s i
  settleKey (setKey s i { k with inFlight := k.inFlight - 1 }) i

/-! ## Answers -/

/-- The key of a source engine. -/
def srcKey (h : FurHdr) : Nat := h.src.toNat * 2 + b2n h.srcEngine

/-- Send the ACK of a data packet with the CE count since the last ACK to that engine (R361). -/
def sendAck (s : State) (x : Nat) (h : FurHdr) (old : Nat) : State :=
  let f := furAt s x
  let ce := Cells.get (fun _ => 0) f.ce (srcKey h)
  let s := setFur s x { f with ce := Cells.put (fun _ => 0) f.ce (srcKey h) 0 }
  sendFurrow s x { type := 0x10, dst := h.src.toNat, engine := h.srcEngine, msg := h.msg.toNat, status := min 255 ce,
                   total := h.total.toNat, offset := h.offset.toNat, remote := if h.type = 5 then old else 0 }
    [] none (Config.replyDscp 0x10).toNat (h.msg.toNat + h.offset.toNat / 4096) (answerSource x)

/-- Send a NAK on queue 62 (R384, R390). -/
def sendNak (s : State) (x : Nat) (h : FurHdr) (status : Nat) : State :=
  sendFurrow (s.satAdd Fld.FUR_CNT_NAK_SENT x 1) x
    { type := 0x11, dst := h.src.toNat, engine := h.srcEngine, msg := h.msg.toNat, status := status, total := h.total.toNat,
      offset := h.offset.toNat } [] (some 62) (Config.replyDscp 0x11).toNat (h.msg.toNat + h.offset.toNat / 4096) (answerSource x)

/-! ## Arrival -/

/-- Consistent lengths (R357 to R359). -/
def lengthsOk (h : FurHdr) (payload : List Byte) : Bool :=
  let n := h.len.toNat
  let t := h.total.toNat
  let o := h.offset.toNat
  n == payload.length &&
    (match h.type.toNat with
     | 1 | 4 => 1 ≤ t && t ≤ 2 ^ 20 && o % 4096 == 0 && o < t && n == min 4096 (t - o)
     | 2 => 1 ≤ t && t ≤ 4096 && o == 0 && n == t
     | 3 => 1 ≤ t && t ≤ 2 ^ 20 && o == 0 && n == 0
     | 5 => t == 8 && o == 0 && n == 8
     | _ => n == 0)

/-- A packet that reaches its engine: `error` where it goes no further (R357, R436), or waits for the address table. -/
def rxAccept (s : State) (x : Nat) (i : RxInfo) (h : FurHdr) (payload : List Byte) : Except State State :=
  match prepare s (0x390 + x) (ownSpanRx s x i) [] with
  | .stall s => .error s
  | .go =>
    let (ok, s) := ingress s x i
    if !ok then .error s
    else if i.port.val = 7 ∧ h.dst.toNat ≠ moduleId s then .error (ropeForward s x i (.furrow h payload))
    else
      let (here, s) := addressedHere s x i
      if i.malformed || !here || !lengthsOk h payload || h.dst.toNat ≠ moduleId s || h.dstEngine ≠ (x == 1) then .error (furDrop s x)
      else .ok s

/-- The receiving port's number for `WAKE_PORT`. -/
def rxWakePort (x p : Nat) : Nat := if p = 8 then 0 else wakePort x p

/-- A data packet that is to be served: its CE mark is counted; a module that is not Ready answers NOT_READY while a
token is there (R384), and an addressed packet may wake it (R483, R487). -/
def rxData (s : State) (x : Nat) (i : RxInfo) (h : FurHdr) (payload : List Byte) : Except State State :=
  match rxAccept s x i h payload with
  | .error s => .error s
  | .ok s =>
    let f := furAt s x
    let n := Cells.get (fun _ => 0) f.ce (srcKey h)
    let s := setFur s x { f with ce := Cells.put (fun _ => 0) f.ce (srcKey h) (n + b2n i.ce) }
    if !moduleReady s then
      let s := wakeEvent s 3 (rxWakePort x i.port.val) (0x390 + x)
      let b := x * 9 + i.port.val
      if Cells.get (fun _ => false) s.nrEmpty b then .error (furDrop s x)
      else .error (sendNak { s with nrEmpty := Cells.put (fun _ => false) s.nrEmpty b true } x h 0x0D)
    else .ok (noteLow s x h)

/-! ## Receive entries (R364 to R366) -/

/-- Does an entry hold a packet's message? READ data is numbered by this engine, everything else by its source. -/
def entryOf (h : FurHdr) (e : RxEntry) : Bool :=
  e.src == h.src.toNat && e.eng == h.srcEngine && e.msg == h.msg.toNat && ((e.type == 4) == (h.type == 4))

/-- The entry of a packet's message. -/
def findEntry (s : State) (x : Nat) (h : FurHdr) : Option RxEntry := (furAt s x).entries.find? (entryOf h)

/-- The state with the entry of a packet's message changed; a message without one gets one. -/
def putEntry (s : State) (x : Nat) (h : FurHdr) (g : RxEntry → RxEntry) : State :=
  let f := furAt s x
  match f.entries.find? (entryOf h) with
  | some _ => setFur s x { f with entries := f.entries.map (fun e => if entryOf h e then g e else e) }
  | none =>
    let e : RxEntry := { src := h.src.toNat, eng := h.srcEngine, msg := h.msg.toNat, type := h.type.toNat, total := h.total.toNat }
    setFur s x { f with entries := f.entries ++ [g e] }

/-- A duplicate (R365): counted and acknowledged again. A second copy that comes before the first one's write has been performed is
none, and is written and acknowledged like the first (R361). -/
def rxDuplicate (s : State) (x : Nat) (h : FurHdr) : Option State :=
  match findEntry s x h with
  | none => none
  | some e =>
    if e.done || e.bitmap.testBit (h.offset.toNat / 4096) then some (sendAck (s.satAdd Fld.FUR_CNT_DUPLICATE x 1) x h e.old) else none

/-- Will a packet reach memory as far as this engine can tell: it is accepted, no duplicate, allowed, and has an entry? Only then do
its accesses wait for the host (R384, R410). -/
def rxServed (s : State) (x : Nat) (i : RxInfo) (h : FurHdr) (payload : List Byte) (allowed : State → Bool) : Bool :=
  match rxData s x i h payload with
  | .error _ => false
  | .ok s => (rxDuplicate s x h).isNone && allowed s && ((findEntry s x h).isSome || (furAt s x).entries.length < 4096)

/-- Is there an entry for the packet's message, or room for one (R366)? -/
def entryRoom (s : State) (x : Nat) (h : FurHdr) : Bool :=
  (findEntry s x h).isSome || (furAt s x).entries.length < 4096

/-- The base address that a packet's key gives. -/
def keyTarget (s : State) (h : FurHdr) : Nat := (keyAt s (h.key.toNat % 4096)).base + h.remote.toNat

/-- Count a completed message in its key (R372). -/
def keyCount (s : State) (i : Nat) : State :=
  let k := keyAt s i
  if k.countEn then counterAdd s k.counter 1 else s

/-! ## Data packets -/

/-- A WRITE packet (R369, R372): its write is performed later. -/
def rxWrite (s : State) (x : Nat) (i : RxInfo) (h : FurHdr) (payload : List Byte) : State :=
  match rxData s x i h payload with
  | .error s => s
  | .ok s =>
    match rxDuplicate s x h with
    | some s => s
    | none =>
      let st := keyCheck s h
      if st ≠ 0 then sendNak s x h st
      else if !entryRoom s x h then sendNak s x h 0x03
      else
        let s := keyHold (putEntry s x h id) (h.key.toNat % 4096)
        let f := furAt s x
        setFur s x { f with writes := f.writes ++ [⟨h, i.port.val, keyTarget s h + h.offset.toNat, payload⟩] }

/-- The open READ that a READ_RESP answers. -/
def readOf (s : State) (x : Nat) (h : FurHdr) : Option FurMsg :=
  (furAt s x).msgs.find? (fun m => !m.resp && m.type == 3 && m.id == h.msg.toNat && m.dst == h.src.toNat
    && m.dstEngine == h.srcEngine && m.total == h.total.toNat)

/-- A READ_RESP packet (R372): its write is performed later; data of a READ that is not open is ignored. -/
def rxReadResp (s : State) (x : Nat) (i : RxInfo) (h : FurHdr) (payload : List Byte) : State :=
  match rxData s x i h payload with
  | .error s => s
  | .ok s =>
    match rxDuplicate s x h with
    | some s => s
    | none =>
      match readOf s x h with
      | none => s
      | some m =>
        if !entryRoom s x h then sendNak s x h 0x03
        else
          let a := ((jobsOf s (.furrow x)).find? (fun j => j.seq = m.seq)).elim 0 (fun j => (furLocal j).1)
          let s := putEntry s x h id
          let f := furAt s x
          setFur s x { f with writes := f.writes ++ [⟨h, i.port.val, a + h.offset.toNat, payload⟩] }

/-- Configuration of a receive queue: whether it is in service, its entries, slot size and base. -/
def rqCfg (s : State) (x q : Nat) : Bool × Nat × Nat × Nat :=
  let c := x * 64 + q
  (q < 64 && s.flag Fld.FUR_RQ_BASE_ENABLE c, 2 ^ s.fld Fld.FUR_RQ_BASE_LOG2_ENTRIES c, 2 ^ s.fld Fld.FUR_RQ_BASE_SLOT_LOG2 c,
   s.fld Fld.FUR_RQ_BASE_BASE c * 4096)

/-- The slot that the next SEND to a queue takes. -/
def rqSlot (s : State) (x q : Nat) : Nat :=
  let (_, n, sz, base) := rqCfg s x q
  base + s.fld Fld.FUR_RQ_PTR_PROD (x * 64 + q) % n * sz

/-- The slot header of R373. -/
def rqHeader (h : FurHdr) : List Byte :=
  leBytes 2 h.src.toNat ++ leBytes 1 (b2n h.srcEngine) ++ leBytes 1 h.job.toNat ++ leBytes 4 h.msg.toNat ++ leBytes 4 h.len.toNat
    ++ leBytes 20 0

/-- What a SEND packet that will be served writes: its slot. -/
def rxSendSpans (s : State) (x : Nat) (i : RxInfo) (h : FurHdr) (payload : List Byte) : List Span :=
  let q := h.rq.toNat
  let c := x * 64 + q
  let room (s : State) : Bool :=
    let (on, n, sz, _) := rqCfg s x q
    on && payload.length + 32 ≤ sz && (s.fld Fld.FUR_RQ_PTR_PROD c + 2 ^ 32 - s.fld Fld.FUR_RQ_PTR_CONS c) % 2 ^ 32 != n
  if rxServed s x i h payload room then [(rqSlot s x q, 32 + payload.length)] else []

/-- What a packet under a key that will be served reads: its span of `n` bytes. -/
def rxKeySpans (s : State) (x : Nat) (i : RxInfo) (h : FurHdr) (payload : List Byte) (n : Nat) : List Span :=
  if rxServed s x i h payload (fun s => keyCheck s h == 0) then [(keyTarget s h, n)] else []

/-- A SEND packet (R373). -/
def rxSend (s0 : State) (x : Nat) (i : RxInfo) (h : FurHdr) (payload : List Byte) : State :=
  let q := h.rq.toNat
  let c := x * 64 + q
  match prepare s0 (0x390 + x) [] (rxSendSpans s0 x i h payload) with
  | .stall s => s
  | .go =>
    match rxData s0 x i h payload with
    | .error s => s
    | .ok s =>
      match rxDuplicate s x h with
      | some s => s
      | none =>
        let (on, n, sz, _) := rqCfg s x q
        let used := (s.fld Fld.FUR_RQ_PTR_PROD c + 2 ^ 32 - s.fld Fld.FUR_RQ_PTR_CONS c) % 2 ^ 32
        if !entryRoom s x h then sendNak s x h 0x03
        else if !on || payload.length + 32 > sz then sendNak s x h 0x07
        else if used = n then sendNak s x h 0x03
        else
          let s := memPut s (0x390 + x) (rqSlot s x q) (rqHeader h ++ payload)
          let s := s.modAdd Fld.FUR_RQ_PTR_PROD c 1
          let cn := s.fld Fld.FUR_RQ_BASE_COUNTER c
          let s := counterAdd s cn 1
          sendAck (putEntry s x h (fun e => { e with bitmap := 1, done := true })) x h 0

/-- A READ_REQ packet (R369, R372): the span is read and its data sent. -/
def rxReadReq (s0 : State) (x : Nat) (i : RxInfo) (h : FurHdr) : State :=
  let rd := rxKeySpans s0 x i h [] h.total.toNat
  match prepare s0 (0x390 + x) rd [] with
  | .stall s => s
  | .go =>
    match rxData s0 x i h [] with
    | .error s => s
    | .ok s =>
      match rxDuplicate s x h with
      | some s => s
      | none =>
        let st := keyCheck s h
        if st ≠ 0 then sendNak s x h st
        else if !entryRoom s x h then sendNak s x h 0x03
        else
          let r := memRead s (0x390 + x) 3 (keyTarget s h) h.total.toNat
          let s := putEntry (dropHost r.st (0x390 + x)) x h (fun e => { e with bitmap := 1 })
          let m : FurMsg := { id := h.msg.toNat, type := 4, dst := h.src.toNat, dstEngine := h.srcEngine, seq := 0,
                              total := h.total.toNat, job := h.job.toNat, payload := r.data, resp := true,
                              pkts := (List.range (ceilDiv h.total.toNat 4096)).map (fun k => { k := k }) }
          openMsg (sendAck s x h 0) x m

/-- An ATOMIC_ADD packet (R371, R372). -/
def rxAtomicAdd (s0 : State) (x : Nat) (i : RxInfo) (h : FurHdr) (payload : List Byte) : State :=
  let sp := rxKeySpans s0 x i h payload 8
  match prepare s0 (0x390 + x) sp sp with
  | .stall s => s
  | .go =>
    match rxData s0 x i h payload with
    | .error s => s
    | .ok s =>
      match rxDuplicate s x h with
      | some s => s
      | none =>
        let st := keyCheck s h
        if st ≠ 0 then sendNak s x h st
        else if !entryRoom s x h then sendNak s x h 0x03
        else
          let a := keyTarget s h
          let r := memRead s (0x390 + x) 3 a 8
          let old := leNat r.data
          let s := memPut r.st (0x390 + x) a (leBytes 8 (old + leNat payload))
          let s := putEntry (dropHost s (0x390 + x)) x h (fun e => { e with bitmap := 1, done := true, old := old })
          sendAck (keyCount s (h.key.toNat % 4096)) x h old

/-! ## Writes performed (R361, R369, R372, R379) -/

/-- Has an entry a packet whose write is still to be performed? -/
def writesOpen (f : FurSt) (e : RxEntry) : Bool := f.writes.any (fun w => entryOf w.hdr e)

/-- A received packet's write has been performed: bitmap, key, ACK, completion. A message is complete once every packet's write has been
performed, a second copy's too (R148, R372). -/
def afterWrite (s : State) (x : Nat) (w : RxWrite) : State :=
  let h := w.hdr
  let full := 2 ^ ceilDiv h.total.toNat 4096 - 1
  let s := putEntry s x h (fun e => { e with bitmap := e.bitmap ||| 2 ^ (h.offset.toNat / 4096) })
  let complete := (findEntry s x h).elim false (fun e => e.bitmap == full && !e.done && !writesOpen (furAt s x) e)
  let s := if complete then putEntry s x h (fun e => { e with done := true }) else s
  if h.type = 4 then
    let s := sendAck s x h 0
    match readOf s x h with
    | none => furDeliver s x
    | some m =>
      let m := { m with got := m.got ||| 2 ^ (h.offset.toNat / 4096) }
      if complete then endMsg s x m 0 else setMsg s x m
  else
    let i := h.key.toNat % 4096
    let s := if complete then keyCount s i else s
    sendAck (keyRelease s i) x h 0

/-- The write of a received packet is performed: packet `n` of those outstanding. -/
def performRx (s : State) (x n : Nat) : State :=
  match (furAt s x).writes[n]? with
  | none => s
  | some w =>
    match prepare s (0x390 + x) [] [(w.addr, w.data.length)] with
    | .stall s => s
    | .go =>
      let f := furAt s x
      let s := setFur s x { f with writes := f.writes.eraseIdx n }
      afterWrite (dropHost (memPut s (0x390 + x) w.addr w.data) (0x390 + x)) x w

/-- An entry is freed (R364): `cycles` XCLK cycles since its message completed, or, of a message that never completes (R372), since
its source's low mark passed it (log entry 64). -/
def freeEntry (s : State) (x n cycles : Nat) : State :=
  let f := furAt s x
  match f.entries[n]? with
  | none => s
  | some e =>
    if e.passed && !writesOpen f e && s.fld Fld.FUR_CFG_HOLD x * 1024 ≤ cycles then setFur s x { f with entries := f.entries.eraseIdx n }
    else s

/-! ## Ring pointers (R374) -/

/-- A write of a consumer pointer within PROD, or a violation. -/
def writeCons (s : State) (m : Nat) (prod cons : Fld) (i : Nat) (a : CsrAcc) : State :=
  let old := s.fld cons i
  let new := s.written cons i a
  if (new + 2 ^ 32 - old) % 2 ^ 32 > (s.fld prod i + 2 ^ 32 - old) % 2 ^ 32 then violation s 3 m (regAddr cons.reg i) true
  else s.setFld cons i new

/-- A write of FUR_EVQ_PTR: the event ring's consumer pointer, and with it the request of the ring's level source (R385). -/
def consumeEvents (s : State) (m x : Nat) (a : CsrAcc) : State :=
  relevel (writeCons s m Fld.FUR_EVQ_PTR_PROD Fld.FUR_EVQ_PTR_CONS x a) (384 + 64 * x)

/-- A write of FUR_RQ_BASE (R373): ENABLE is ignored unless the sizes are in range and the ring lies in DRAM; a write that names an
invalid counter is ignored (R47). -/
def writeRqBase (s : State) (c : Nat) (a : CsrAcc) : State :=
  if !counterValid (s.written Fld.FUR_RQ_BASE_COUNTER c a) then s else
  let n := s.written Fld.FUR_RQ_BASE_LOG2_ENTRIES c a
  let z := s.written Fld.FUR_RQ_BASE_SLOT_LOG2 c a
  let ok := (6 ≤ n && n ≤ 15) && (6 ≤ z && z ≤ 13) && inDram s (s.written Fld.FUR_RQ_BASE_BASE c a * 4096) (2 ^ (n + z))
  let was := s.fld Fld.FUR_RQ_BASE_ENABLE c
  let s := s.plainWrite .FUR_RQ_BASE c false a
  if s.flag Fld.FUR_RQ_BASE_ENABLE c && !ok then s.setFld Fld.FUR_RQ_BASE_ENABLE c was else s

/-! ## Packets to the engine itself (R367) -/

/-- How a packet of the fabric path arrives. -/
def localInfo : RxInfo := ⟨8, 0, 0, 0, false, false, false, 0, 0, false, 0, 0, 0, true, 1, [], [], 0⟩

/-- A packet reaches the receive side of its engine. The cycles since the last decrease (R383) are free. -/
def receive (s : State) (x : Nat) (h : FurHdr) (payload : List Byte) : State :=
  match h.type.toNat with
  | 1 => rxWrite s x localInfo h payload
  | 2 => rxSend s x localInfo h payload
  | 3 => rxReadReq s x localInfo h
  | 4 => rxReadResp s x localInfo h payload
  | 5 => rxAtomicAdd s x localInfo h payload
  | t =>
    match rxAccept s x localInfo h payload with
    | .error s => s
    | .ok s =>
      let s := noteLow s x h
      if t = 0x10 then let (f, s) := s.fresh 32; furAck s x h f.toNat
      else if t = 0x11 then furNak s x h else s

/-- The spans that a local packet reads and writes. -/
def receiveSpans (s : State) (x : Nat) (h : FurHdr) (payload : List Byte) : List Span × List Span :=
  match h.type.toNat with
  | 2 => ([], rxSendSpans s x localInfo h payload)
  | 3 => (rxKeySpans s x localInfo h payload h.total.toNat, [])
  | 5 => (rxKeySpans s x localInfo h payload 8, rxKeySpans s x localInfo h payload 8)
  | _ => ([], [])

/-- The engine takes its local packets in order, as far as none waits for the host: at most `n` of them. -/
def takeLocal (x : Nat) : Nat → State → State
  | 0, s => s
  | n + 1, s =>
    match (furAt s x).fabric with
    | [] => s
    | (h, d) :: r =>
      let (rd, wr) := receiveSpans s x h d
      match prepare s (0x390 + x) rd wr with
      | .stall s => s
      | .go => takeLocal x n (receive (setFur s x { furAt s x with fabric := r }) x h d)

/-- The engine takes every local packet that it can. -/
def pumpLocal (s : State) (x : Nat) : State := takeLocal x (furAt s x).fabric.length s

/-- The host has answered a snoop or a read, a link went down, or a partial reset ended: what the device held goes on, in order, as
far as it can (R408, R410, R474), and so do the writes of balers, local packets and the records of Furrow descriptors and pool jobs
that have ended. -/
def releaseHeld (s : State) : State :=
  let s := pumpBales (s.heldPuts.foldl (fun s h => match h with
    | .put m a bs => devPut s m a bs
    | .event x bs => putEvent s x bs
    | .packet p => sendPacket s p
    | .submit x w m a => submitTask s x w m a
    | .furrow x a => submitFurrow s x a) { s with heldPuts := [] })
  let s := furDeliver (pumpLocal (furDeliver (pumpLocal s 0) 0) 1) 1
  (List.range 4).foldl (fun s d => deliverEnded s (.pool d)) s

/-- FRAME_SELECT (R393): `cycles` XCLK cycles have passed since the scheduler's last selection; `accept` are the
interfaces that can accept a frame. A packet to the engine itself that the fabric path gives reaches its receive side (R367). -/
def execFrameSelect (x : XDie) (sch : Fin 9) (cycles : BitVec 32) (accept : BitVec 8) (s : State) :
    Host.Outcome State Fault Refusal :=
  .next (pumpLocal (selectFrame (schedTime s x sch cycles.toNat) x sch accept.toNat) x)

/-- WRITE (R372). -/
def execRxWrite (x : XDie) (i : RxInfo) (h : FurHdr) (payload : List Byte) (s : State) : Host.Outcome State Fault Refusal :=
  .next (rxWrite s x i { h with type := 1 } payload)

/-- SEND (R373). -/
def execRxSend (x : XDie) (i : RxInfo) (h : FurHdr) (payload : List Byte) (s : State) : Host.Outcome State Fault Refusal :=
  .next (rxSend s x i { h with type := 2 } payload)

/-- READ_REQ (R369). -/
def execRxReadReq (x : XDie) (i : RxInfo) (h : FurHdr) (s : State) : Host.Outcome State Fault Refusal :=
  .next (rxReadReq s x i { h with type := 3 })

/-- READ_RESP (R372). -/
def execRxReadResp (x : XDie) (i : RxInfo) (h : FurHdr) (payload : List Byte) (s : State) : Host.Outcome State Fault Refusal :=
  .next (rxReadResp s x i { h with type := 4 } payload)

/-- ATOMIC_ADD (R371). -/
def execRxAtomicAdd (x : XDie) (i : RxInfo) (h : FurHdr) (payload : List Byte) (s : State) : Host.Outcome State Fault Refusal :=
  .next (rxAtomicAdd s x i { h with type := 5 } payload)

/-- ACK (R361). -/
def execRxAck (x : XDie) (i : RxInfo) (h : FurHdr) (gap : BitVec 32) (s : State) : Host.Outcome State Fault Refusal :=
  let h := { h with type := 0x10 }
  match rxAccept s x i h [] with
  | .error s => .next s
  | .ok s => .next (furAck (noteLow s x h) x h gap.toNat)

/-- NAK (R363). -/
def execRxNak (x : XDie) (i : RxInfo) (h : FurHdr) (s : State) : Host.Outcome State Fault Refusal :=
  let h := { h with type := 0x11 }
  match rxAccept s x i h [] with
  | .error s => .next s
  | .ok s => .next (furNak (noteLow s x h) x h)

/-- SYNC (R364). -/
def execRxSync (x : XDie) (i : RxInfo) (h : FurHdr) (s : State) : Host.Outcome State Fault Refusal :=
  let h := { h with type := 0x12 }
  match rxAccept s x i h [] with
  | .error s => .next s
  | .ok s => .next (noteLow s x h)

/-- WRITE_PERFORMED (R361): packet `n` of those whose write is outstanding. -/
def execWritePerformed (x : XDie) (n : Nat) (s : State) : Host.Outcome State Fault Refusal := .next (performRx s x n)

/-- ENTRY_FREE (R364): entry `n`, `cycles` XCLK cycles after its message completed. -/
def execEntryFree (x : XDie) (n cycles : Nat) (s : State) : Host.Outcome State Fault Refusal := .next (freeEntry s x n cycles)

/-- REGISTER (R368): a write of FUR_KEY_CMD with OP 1. -/
def execKeyRegister (a : CsrAcc) (s : State) : Host.Outcome State Fault Refusal :=
  .next (onXdie s (fun s => if Fld.FUR_KEY_CMD_OP.presented a = 1 then writeKeyCmd s a else s))

/-- KEY_REVOKE (R370): a write of FUR_KEY_CMD with OP 2. -/
def execKeyRevoke (a : CsrAcc) (s : State) : Host.Outcome State Fault Refusal :=
  .next (onXdie s (fun s => if Fld.FUR_KEY_CMD_OP.presented a = 2 then writeKeyCmd s a else s))

/-- FUR_RQ_CONS (R374). -/
def execFurRqCons (m : Master) (x : XDie) (n : Fin 64) (a : CsrAcc) (s : State) : Host.Outcome State Fault Refusal :=
  .next (onXdie s (fun s =>
    writeCons s m.toNat Fld.FUR_RQ_PTR_PROD Fld.FUR_RQ_PTR_CONS (x.val * 64 + n.val) a))

/-- FUR_EVQ_CONS (R374). -/
def execFurEvqCons (m : Master) (x : XDie) (a : CsrAcc) (s : State) : Host.Outcome State Fault Refusal :=
  .next (onXdie s (fun s => consumeEvents s m.toNat x a))

end Sys2Proof.Machine
end

