-- ==== Sys2Proof/Machine/HostLink.lean ====
section
/-!
DEFINITION. The host links below their messages (R401 to R406, R414): training, flits, replay, and a link that goes down.
-/
namespace Sys2Proof.Machine

/-! ## Width (R402) -/

/-- A change of `HL_STATUS.WIDTH`, from any cause, raises source 392 + 64x. -/
def setWidth (s : State) (x w : Nat) : State :=
  if s.fld Fld.HL_STATUS_WIDTH x = w then s else raiseSource (s.setFld Fld.HL_STATUS_WIDTH x w) (392 + 64 * x)

/-- Is the Adeop Link of an X-die marked failed (R468)? -/
def linkFailed (s : State) (x : Nat) : Bool := xUnitFailed s x 3

/-- The width that training reaches: ×16, else ×8 on lanes 0 to 7, else ×8 on lanes 8 to 15, else down. -/
def trainedWidth (ok16 okLo okHi : Bool) : Nat := if ok16 then 3 else if okLo then 1 else if okHi then 2 else 0

/-- Each side grants 256 credits of each kind when the link comes up (R406). -/
def freshLink : LinkSt := { reqCred := 256, snpCred := 256 }

/-! ## What waits for the host -/

/-- A message that waited for a tag tries again (R406). -/
def retryTag (s : State) (w : TagWait) : State :=
  if w.opcode < 0x20 then
    match w.link.or (linkFor s (w.line * 64)) with
    | some x => if linkUp s x then devRequest s x w.opcode w.line w.master w.mask w.data w.link.isSome else s
    | none =>
      if w.opcode = 0x03 then { s with hostBuf := s.hostBuf ++ [{ master := w.master, line := w.line, poison := true, data := [] }] }
      else s
  else sendSnoop s w.opcode w.line w.waiter

/-- A tag is free, or a link has changed: what waits for tags tries again, in order. -/
def pumpTags (s : State) : State := s.tagWait.foldl retryTag { s with tagWait := [] }

/-! ## A link that goes down (R414) -/

/-- The link goes down: messages in flight are lost, outstanding reads complete poisoned, writes are dropped, snoops move
to the other link, or every filter entry is dropped when that is down too. -/
def hostLinkDown (s : State) (x : Nat) : State :=
  if !linkUp s x then s
  else
    let s := setWidth s x 0
    let mine := s.devReq.filter (fun r => r.link == x)
    let reads := mine.filter (fun r => r.opcode == 0x03)
    let lost := s.snps.filter (fun p => p.link == x)
    let again := lost.map (fun (p : Snoop) => ({ opcode := p.opcode, line := p.line, waiter := p.waiter } : TagWait))
    let s := { setLink s x {} with
      devReq := s.devReq.filter (fun r => r.link != x),
      hostBuf := s.hostBuf ++ reads.map (fun (r : DevReq) => ({ master := r.master, line := r.line, poison := true, data := [] } : HostLine)),
      snps := s.snps.filter (fun p => p.link != x), tagWait := again ++ s.tagWait,
      homeQ := s.homeQ.filter (fun e => e.2 != 1 + x) }
    let s := if linkUp s (1 - x) then s else { s with snps := [], snoop := [] }
    releaseHeld (pumpTags s)

/-- Training of a link ends (R402). A failed link stays down; in M2 only lanes 0 to 7 train (R477). A link that was up
keeps its flit layer when it comes back. -/
def trainLink (s : State) (x : Nat) (ok16 okLo okHi rev : Bool) : State :=
  let w := if linkFailed s x then 0 else trainedWidth ok16 okLo okHi
  if w = 0 then hostLinkDown s x
  else
    let s := if linkUp s x then s else setLink s x freshLink
    pumpLink (setWidth (s.setFld Fld.HL_STATUS_REVERSED x (b2n rev)) x w) x

/-- A link loses lock and retrains (R402, R514) as its lanes allow, which is physical. -/
def linkLoss (s : State) (x : Nat) (ok16 okLo okHi rev : Bool) : State :=
  if !linkUp s x then s
  else trainLink (detect s 10) x (ok16 && s.fld Fld.PWR_STATUS_STATE 0 != 2) okLo (okHi && s.fld Fld.PWR_STATUS_STATE 0 != 2) rev

/-! ## Flits (R403 to R405) -/

/-- Send the retained flits from a SEQ on again (R405), with the acknowledgement as it stands now. -/
def replayFrom (s : State) (x seq : Nat) : State :=
  let l := linkAt s x
  let fs := l.retry.filter (fun e => (e.seq + 1024 - seq) % 1024 < 512)
  if fs.isEmpty then s
  else
    let s := s.satAdd Fld.HL_CNT_REPLAY x 1
    { s with hostOut := s.hostOut ++ fs.map (fun f => { f with ack := linkAck l }) }

/-- A flit fails: it and every later one are discarded until the expected SEQ; REPLAY_REQ asks for that (R405). -/
def flitFailed (s : State) (x : Nat) : State :=
  let s := detect (s.satAdd Fld.HL_CNT_CRC_FAIL x 1) 9
  let l := linkAt s x
  if l.discarding then s
  else { setLink s x { l with discarding := true } with
    hostOut := s.hostOut ++ [{ link := x, type := 2, ack := some l.rxExpect }] }

/-- An idle flit (R403) carries the acknowledgement and the credits that no payload flit has carried. -/
def sendIdle (s : State) (x : Nat) : State :=
  let l := linkAt s x
  if !linkUp s x || (!l.ackDue && l.reqOwed = 0) then s
  else { setLink s x (headerSent l) with
    hostOut := s.hostOut ++ [{ link := x, type := 1, ack := linkAck l, req := min 15 l.reqOwed }] }

/-- The acknowledgement of a good flit (R403, R405). -/
def flitAck (s : State) (x h : Nat) : State :=
  let l := linkAt s x
  let ack := bits h 12 10
  if h.testBit 22 then setLink s x { l with retry := l.retry.filter (fun e => !((ack + 1024 - e.seq) % 1024 < 512)) } else s

/-- The credits of a good flit (R403, R406). -/
def flitCredits (s : State) (x h : Nat) : State :=
  let l := linkAt s x
  setLink s x { l with reqCred := min 256 (l.reqCred + bits h 23 4), snpCred := min 256 (l.snpCred + bits h 27 4) }

/-! ## Commands -/

/-- HOST_LINK_TRAIN (R402): which trainings succeed, and whether the lanes are reversed. In M3 no link trains but in the
exit. -/
def execHostLinkTrain (x : XDie) (ok16 okLo okHi rev : Bool) (s : State) : Host.Outcome State Fault Refusal :=
  if !awake s || linkUp s x || (s.fld Fld.PWR_STATUS_STATE 0 == 3 && s.fld Fld.PWR_STATUS_PHASE 0 != 3) then .next s
  else .next (trainLink s x (ok16 && s.fld Fld.PWR_STATUS_STATE 0 != 2) okLo (okHi && s.fld Fld.PWR_STATUS_STATE 0 != 2) rev)

/-- LOSS_OF_LOCK (R402): a link that was up retrains in the same order. -/
def execLossOfLock (x : XDie) (ok16 okLo okHi rev : Bool) (s : State) : Host.Outcome State Fault Refusal :=
  .next (linkLoss s x ok16 okLo okHi rev)

/-- FLIT_REPLAY_REQ (R405): the peer asks for the flits from `seq` on. -/
def execFlitReplayReq (x : XDie) (seq : BitVec 10) (s : State) : Host.Outcome State Fault Refusal :=
  .next (if linkUp s x then replayFrom s x seq.toNat else s)

/-- FLIT_ACK_TIMEOUT (R405): resend from the oldest unacknowledged flit. -/
def execFlitAckTimeout (x : XDie) (s : State) : Host.Outcome State Fault Refusal :=
  match (linkAt s x).retry with
  | [] => .next s
  | e :: _ => .next (if linkUp s x then replayFrom s x e.seq else s)

/-- HOST_LINK_DOWN (R414). -/
def execHostLinkDown (x : XDie) (s : State) : Host.Outcome State Fault Refusal :=
  .next (if linkUp s x then hostLinkDown (detect s 10) x else s)

end Sys2Proof.Machine
end

