-- ==== Sys2Proof/Machine/Mailbox.lean ====
section
/-!
DEFINITION. Mailboxes (R415 to R419) and the commands of the interrupt controller (R420 to R427).
-/
namespace Sys2Proof.Machine

/-! ## Mailboxes -/

/-- Is the master one of the management cores? -/
def coreMaster (m : Nat) : Bool := 0x10 ≤ m && m ≤ 0x13

/-- Is a channel in service? -/
def mboxOn (s : State) (n : Nat) : Bool := s.flag Fld.MBOX_BIND_ENABLE n

/-- May a master use the sender's registers of a channel (R416)? -/
def isSender (s : State) (m n : Nat) : Bool := mboxOn s n && s.fld Fld.MBOX_BIND_SENDER n == m

/-- May a master use the receiver's registers of a channel (R416)? -/
def isReceiver (s : State) (m n : Nat) : Bool := mboxOn s n && s.fld Fld.MBOX_BIND_RECEIVER n == m

/-- A doorbell bit is set (R419); its source requests while the bit is not masked. -/
def setDoorbell (s : State) (d : Nat) : State :=
  relevel (s.setFld Fld.MBOX_DB_DB 0 (s.fld Fld.MBOX_DB_DB 0 ||| 2 ^ d)) (64 + d)

/-- The request lines of every doorbell bit follow MBOX_DB and MBOX_DB_MASK (R419). -/
def relevelDoorbells (s : State) : State := (List.range 32).foldl (fun s d => relevel s (64 + d)) s

/-- A write of MBOX_DB (R419): bits that hardware sets in the same cycle stay set. -/
def clearDoorbells (s : State) (a : CsrAcc) (hw : Nat) : State :=
  let s := s.plainWrite .MBOX_DB 0 false a
  relevelDoorbells (s.setFld Fld.MBOX_DB_DB 0 (s.fld Fld.MBOX_DB_DB 0 ||| hw))

/-- A write of MBOX_BIND_n (R415). -/
def writeMboxBind (s : State) (m n : Nat) (a : CsrAcc) : State :=
  if !coreMaster m then violation s 1 m (regAddr .MBOX_BIND n) true
  else s.plainWrite .MBOX_BIND n (s.flag Fld.MBOX_LOCK_LOCK 0) a

/-- A write of MBOX_LOCK (R415). -/
def writeMboxLock (s : State) (m : Nat) (a : CsrAcc) : State :=
  if !coreMaster m then violation s 1 m (regAddr .MBOX_LOCK 0) true else s.plainWrite .MBOX_LOCK 0 false a

/-- A notice enters a channel: receive registers, FULL and the doorbell (R417). -/
def mboxFill (s : State) (n addr len : Nat) : State :=
  let s := (s.setFld Fld.MBOX_RX_ADDR_ADDR n addr).setFld Fld.MBOX_RX_LEN_LEN n len
  setDoorbell (s.setFld Fld.MBOX_CH_STAT_FULL n 1) (s.fld Fld.MBOX_BIND_RX_DB n)

/-- A write of MBOX_TX_SEND_n (R416, R417). -/
def mboxSend (s : State) (m n : Nat) (a : CsrAcc) : State :=
  if !isSender s m n then violation s 1 m (regAddr .MBOX_TX_SEND n) true
  else if !Fld.MBOX_TX_SEND_LEN.reached a then s
  else if s.flag Fld.MBOX_CH_STAT_FULL n then
    violation (s.setFld Fld.MBOX_CH_STAT_DROPPED n 1) 3 m (regAddr .MBOX_TX_SEND n) true
  else
    mboxFill s n (s.fld Fld.MBOX_TX_ADDR_ADDR n) (Fld.MBOX_TX_SEND_LEN.presented a)

/-- The receiver answers and empties a channel (R418). -/
def popChannel (s : State) (n reply : Nat) : State :=
  if !s.flag Fld.MBOX_CH_STAT_FULL n then s
  else setDoorbell ((s.setFld Fld.MBOX_CH_STAT_FULL n 0).setFld Fld.MBOX_CH_STAT_REPLY n reply) (s.fld Fld.MBOX_BIND_TX_DB n)

/-- A write of MBOX_RX_POP_n (R416, R418). -/
def mboxPop (s : State) (m n : Nat) (a : CsrAcc) : State :=
  if !isReceiver s m n then violation s 1 m (regAddr .MBOX_RX_POP n) true
  else if !Fld.MBOX_RX_POP_REPLY.reached a then s
  else popChannel s n (Fld.MBOX_RX_POP_REPLY.presented a)

/-! ## Sources -/

/-- A request rises (R420, R421): a level source does so when its block's condition holds; one in service does not pend. -/
def raiseRequest (s : State) (src : Nat) : State :=
  if !isSource src then s
  else if !isLevel src then raiseSource s src
  else if levelRequest s src then relevel s src else s

/-- A level request falls: a set pending bit clears (R421). -/
def withdraw (s : State) (src : Nat) : State := if isLevel src && !levelRequest s src then relevel s src else s

/-! ## Claims and completion -/

/-- A target's own master (R423). -/
def targetMaster (t : Nat) : Nat := if t < 2 then 1 + t else 0x10 + (t - 2)

/-- A read of the low word of INTC_CLAIM_t (R423, R425): the value and the effects. -/
def claimRead (s : State) (m t : Nat) : Word × State :=
  if m ≠ targetMaster t then (0, violation s 1 m (regAddr .INTC_CLAIM t) false)
  else
    match (pendingSources s).find? (fun src => routeOf s src == t && !maskedOf s src) with
    | none =>
      let s := if t < 2 then s.setFld Fld.INTC_HADDR_ARMED t 0 else s
      (BitVec.ofNat 64 (1023 + 1024), s)
    | some src =>
      let s := setPend s src false
      let s := if isLevel src then setService s src (t + 1) else s
      let s := s.setFld Fld.INTC_GCTL_TIMER (src / 32) (s.fld Fld.INTC_GCTL_HOLDOFF (src / 32))
      (BitVec.ofNat 64 (src + 1024), refreshIntc s)

/-- A write of INTC_COMPLETE_t (R421). -/
def completeWrite (s : State) (m t : Nat) (a : CsrAcc) : State :=
  if m ≠ targetMaster t then violation s 1 m (regAddr .INTC_COMPLETE t) true
  else if !Fld.INTC_COMPLETE_ID.reached a then s
  else
    let src := Fld.INTC_COMPLETE_ID.presented a
    if !isLevel src || serviceOf s src ≠ t + 1 then s
    else
      let s := setService s src 0
      if levelRequest s src then hwPend s src true else s

/-- The recorded actions of a group are applied (R426). -/
def applyHeld (s : State) (g : Nat) : State :=
  let mine (k : Nat) : Bool := k / 32 == g
  let rec_ := s.holdRec.filter (fun e => mine e.1)
  let s := { s with holdRec := Cells.drop mine s.holdRec }
  refreshIntc (rec_.foldl (fun s e => setPend s e.1 (e.2 = 1)) s)

/-- A write of INTC_GCTL_g (R424, R426). -/
def writeGctl (s : State) (g : Nat) (a : CsrAcc) : State :=
  let was := s.flag Fld.INTC_GCTL_HOLD g
  let s := s.plainWrite .INTC_GCTL g false a
  if was && !s.flag Fld.INTC_GCTL_HOLD g then applyHeld s g else s

/-- A write of INTC_PEND_g (R421). -/
def writePend (s : State) (g : Nat) (a : CsrAcc) : State := refreshIntc (s.plainWrite .INTC_PEND g false a)

/-! ## Commands -/

/-- MBOX_BIND (R415). -/
def execMboxBind (m : Master) (n : Fin 64) (a : CsrAcc) (s : State) : Host.Outcome State Fault Refusal :=
  .next (onModule s (fun s => writeMboxBind s m.toNat n a))

/-- MBOX_LOCK (R415). -/
def execMboxLock (m : Master) (a : CsrAcc) (s : State) : Host.Outcome State Fault Refusal :=
  .next (onModule s (fun s => writeMboxLock s m.toNat a))

/-- MBOX_TX_SEND (R417). -/
def execMboxTxSend (m : Master) (n : Fin 64) (a : CsrAcc) (s : State) : Host.Outcome State Fault Refusal :=
  .next (onModule s (fun s => mboxSend s m.toNat n a))

/-- MBOX_RX_POP (R418). -/
def execMboxRxPop (m : Master) (n : Fin 64) (a : CsrAcc) (s : State) : Host.Outcome State Fault Refusal :=
  .next (onModule s (fun s => mboxPop s m.toNat n a))

/-- MBOX_DB_CLEAR (R419): `hw` are the bits that hardware sets in the same cycle; they stay set. -/
def execMboxDbClear (a : CsrAcc) (hw : BitVec 32) (s : State) : Host.Outcome State Fault Refusal :=
  .next (onModule s (fun s => clearDoorbells s a hw.toNat))

/-- INTERRUPT_RAISE (R421). -/
def execInterruptRaise (src : BitVec 10) (s : State) : Host.Outcome State Fault Refusal :=
  .next (onModule s (fun s => raiseRequest s src.toNat))

/-- WITHDRAWAL (R421). -/
def execWithdrawal (src : BitVec 10) (s : State) : Host.Outcome State Fault Refusal :=
  .next (onModule s (fun s => withdraw s src.toNat))

/-- INTC_PEND_WRITE (R421). -/
def execIntcPendWrite (g : Fin 32) (a : CsrAcc) (s : State) : Host.Outcome State Fault Refusal :=
  .next (onModule s (fun s => writePend s g a))

/-- INTC_CLAIM (R423): what the read returned is kept in INTC_CLAIM_t. -/
def execIntcClaim (m : Master) (t : Fin 6) (s : State) : Host.Outcome State Fault Refusal :=
  .next (onModule s (fun s =>
    let (v, s) := claimRead s m.toNat t
    if m.toNat = targetMaster t then s.wr .INTC_CLAIM t v else s))

/-- INTC_COMPLETE (R421). -/
def execIntcComplete (m : Master) (t : Fin 6) (a : CsrAcc) (s : State) : Host.Outcome State Fault Refusal :=
  .next (onModule s (fun s => completeWrite s m.toNat t a))

/-- HOLDOFF_EXPIRY (R424). -/
def execHoldoffExpiry (g : Fin 32) (s : State) : Host.Outcome State Fault Refusal :=
  .next (onModule s (fun s => refreshIntc (s.setFld Fld.INTC_GCTL_TIMER g 0)))

/-- INTC_GCTL_WRITE (R426). -/
def execIntcGctlWrite (g : Fin 32) (a : CsrAcc) (s : State) : Host.Outcome State Fault Refusal :=
  .next (onModule s (fun s => writeGctl s g a))

end Sys2Proof.Machine
end

