-- ==== Sys2Proof/Machine/Rope.lean ====
section
/-!
DEFINITION. The rope (R428 to R448, R450, R451): formation, members, ring state, heartbeats, the bypass, cairns and shard
tables.
-/
namespace Sys2Proof.Machine

/-! ## Messages (R433 to R435) -/

/-- MODE_LEAD as sampled (R428). -/
def isLead (s : State) : Bool := s.flag Fld.ROPE_STATUS_LEAD 0

/-- Own ring position. -/
def ownPos (s : State) : Nat := s.fld Fld.ROPE_STATUS_POSITION 0

/-- The types that go hop by hop to any module on a rope port (R434). -/
def hopType (t : Nat) : Bool := t == 0x20 || t == 0x21 || t == 0x26

/-- What a rope message carries beside its payload. -/
structure RopeMsg where
  type : Nat
  seq : Nat := 0
  image : Nat := 0
  hop : Nat := 0
  spec : Nat := 0
  nonce : Nat

/-- The header as sent by this module. -/
def ropeHdr (s : State) (x dst : Nat) (eng : Bool) (m : RopeMsg) (len : Nat) : RopeHdr :=
  { type := BitVec.ofNat 8 m.type, srcEngine := x = 1, dstEngine := eng,
    src := if s.flag Fld.ROPE_STATUS_ID_VALID 0 then BitVec.ofNat 16 (moduleId s) else 0, dst := BitVec.ofNat 16 dst,
    nonce := BitVec.ofNat 64 m.nonce, seq := BitVec.ofNat 32 m.seq, image := BitVec.ofNat 32 m.image,
    len := BitVec.ofNat 16 len, hop := BitVec.ofNat 8 m.hop, pos := BitVec.ofNat 8 (ownPos s), spec := BitVec.ofNat 64 m.spec }

/-- The DSCP of a rope message: not stated, as for answers. -/
def ropeDscp (t : Nat) : Nat := (Config.replyDscp t).toNat

/-- A rope message out of an X-die, by a route. -/
def sendRope (s : State) (x dst : Nat) (engine : Bool) (route : RouteSel) (h : RopeHdr) (payload : List Byte) : State :=
  let t := h.type.toNat
  sendPacket s { x := x, dst := dst, engine := engine, route := route, queue := some (ropeQueue t), dscp := ropeDscp t, n := 0,
                 pkt := .rope h payload, source := ropeSource x }

/-- Send a message hop by hop out of the rope port of an X-die: to ff02::1 (R434). -/
def sendHop (s : State) (x : Nat) (m : RopeMsg) (payload : List Byte) : State :=
  sendRope s x 0 (x = 0) .hop (ropeHdr s x 0 (x = 0) m payload.length) payload

/-- Send a message to a module by unicast (R434). What goes east arrives at the west port, on X-die 1. -/
def sendUni (s : State) (dst : Nat) (m : RopeMsg) (payload : List Byte) : State :=
  let eng := (routeTo s 0 dst 0 (leNat (peek s (modEntryAddr s 0 dst + 8) 8))).1 == 7
  sendRope s 0 dst eng .mask (ropeHdr s 0 dst eng m payload.length) payload

/-- Is the member at a position ACTIVE or SUSPECT? -/
def livePos (s : State) (n : Nat) : Bool := s.fld Fld.ROPE_MEMBER_STATE n == 1 || s.fld Fld.ROPE_MEMBER_STATE n == 2

/-- The next live member from the own position out of the rope port of an X-die. -/
def neighbour (s : State) (x : Nat) : Option Nat :=
  let n := max 1 s.rope.size
  ((List.range n).map (fun k => if x = 0 then (ownPos s + k + 1) % n else (ownPos s + n - (k + 1) % n) % n)).find?
    (fun p => livePos s p && p != ownPos s)

/-- Send a message to the next live member out of a rope port; `as_` is its header, given the destination. -/
def sendNextAs (s : State) (x : Nat) (as_ : Nat → RopeHdr) (payload : List Byte) : State :=
  match neighbour s x with
  | none => s
  | some p =>
    let dst := s.fld Fld.ROPE_MEMBER_MODULE_ID p
    sendRope s x dst (x = 0) .rope (as_ dst) payload

/-- Send a message of this module to the next live member out of a rope port. -/
def sendNext (s : State) (x : Nat) (m : RopeMsg) (payload : List Byte) : State :=
  sendNextAs s x (fun dst => ropeHdr s x dst (x = 0) m payload.length) payload

/-- The child leads of a lead (R452). -/
def childLeads (s : State) : List Nat :=
  ((List.range 4).map (fun i => field (s.rd .ROPE_FW_CHILD 0) (16 * i) 16)).filter (· ≠ moduleId s)

/-- Firmware traffic between leads of different ropes, over a field port (R452, R454): chunks from a parent, a FW_NACK from a child. -/
def betweenLeads (s : State) (t : Nat) (i : RxInfo) (h : RopeHdr) : Bool :=
  isLead s && i.port.val < 7 && (t == 0x29 || t == 0x2A || (t == 0x2B && (childLeads s).contains h.src.toNat))

/-- Does a message carry the module's own nonce (R433)? DISCOVER needs none, a second that waits for ASSIGN has none yet, and leads of
different ropes do not know each other's (DESIGN CHOICE, log entry 136). -/
def nonceOk (s : State) (t : Nat) (i : RxInfo) (h : RopeHdr) : Bool :=
  t == 0x20 || (t == 0x21 && s.rope.await) || h.nonce.toNat == s.rope.nonce || betweenLeads s t i h

/-- A rope message arrives: it is forwarded (R436), dropped (R357, R433), or handled. -/
def rxRope (s : State) (x t : Nat) (i : RxInfo) (h : RopeHdr) (payload : List Byte) : Except State State :=
  match prepare s (0x390 + x) (ownSpanRx s x i) [] with
  | .stall s => .error s
  | .go =>
    let (ok, s) := ingress s x i
    let h := { h with type := BitVec.ofNat 8 t }
    if !ok then .error s
    else if i.port.val = 7 && !hopType t && h.dst.toNat != moduleId s then .error (ropeForward s x i (.rope h payload))
    else
      let (here, s) := if hopType t then (i.version == 1, s) else addressedHere s x i
      if i.malformed || !here || h.len.toNat != payload.length || payload.length > 4096 || (hopType t && i.port.val != 7)
          || (!hopType t && h.dst.toNat != moduleId s) || !nonceOk s t i h then
        .error (furDrop s x)
      else .ok s

/-- A rope CSR is written by a master that may (chapter 15, CSRs); a violation of class 1 otherwise. -/
def ropeMaster (m : Nat) : Bool := m == 1 || m == 2 || isCoreMaster m

/-! ## Members and the ring -/

/-- A fault ends formation (R428, R431, R432): source 33. -/
def ropeFault (s : State) (code : Nat) : State := raiseSource (s.setFld Fld.ROPE_STATUS_FAULT 0 code) 33

/-- Seat a member with a state (R435). -/
def seatMember (s : State) (base n st : Nat) : State :=
  let cause := if st = 2 then s.fld Fld.ROPE_MEMBER_CAUSE n else 0
  ((s.setFld Fld.ROPE_MEMBER_STATE n st).setFld Fld.ROPE_MEMBER_CAUSE n cause).setFld Fld.ROPE_MEMBER_MODULE_ID n
    (if st = 0 then 0 else base * 32 + n)

/-- The member table of ASSIGN and RING_STATE. -/
def memberTable (s : State) : List Byte := (List.range 32).flatMap (fun n => leBytes 1 (s.fld Fld.ROPE_MEMBER_STATE n))

/-- Positions passed eastward from `p` to `q` whose modules are in the ring, and whether every segment works (R437). -/
def eastWay (s : State) (p q : Nat) : Bool × Nat :=
  let n := max 1 s.rope.size
  let ks := List.range ((q + n - p) % n)
  (ks.all (fun k => !s.rope.segDown.testBit ((p + k) % n)), (ks.filter (fun k => livePos s ((p + k + 1) % n))).length)

/-- The route word of the member at `p`: the direction with fewer hops over working segments, ties east (R437). -/
def routeWord (s : State) (p : Nat) : Nat :=
  let west (q : Nat) : Bool :=
    let (eo, eh) := eastWay s p q
    let (wo, wh) := eastWay s q p
    q != p && livePos s q && wo && (!eo || wh < eh)
  ((List.range 32).filter west).foldl (fun w q => w + 2 ^ q) 0

/-- The lead publishes a new ring state in both directions (R435, R437). -/
def publishRing (s : State) : State :=
  if !isLead s || !s.flag Fld.ROPE_STATUS_FORMED 0 then s
  else
    let g := (s.rope.ringGen + 1) % 2 ^ 32
    let s := { s with rope := { s.rope with ringGen := g } }
    let p := leBytes 4 s.rope.segDown ++ leBytes 4 0 ++ memberTable s
      ++ (List.range 32).flatMap (fun n => leBytes 4 (if livePos s n then routeWord s n else 0))
    let s := s.setFld Fld.ROPE_ROUTE_WEST 0 (routeWord s 0)
    let m : RopeMsg := { type := 0x26, seq := g, hop := 1, nonce := s.rope.nonce }
    sendHop (sendHop s 0 m p) 1 m p

/-- The causes for which a member is suspect, oldest first. -/
def causesOf (s : State) (n : Nat) : List Nat := Cells.get (fun _ => []) s.rope.causes n

/-- A member's state at the lead changes: source 35 (R457), and the ring state is published. Only a suspect keeps its causes. -/
def setMember (s : State) (n st cause : Nat) : State :=
  let same := s.fld Fld.ROPE_MEMBER_STATE n == st
  let s := if st = 2 then s else { s with rope := { s.rope with causes := Cells.put (fun _ => []) s.rope.causes n [] } }
  let s := (s.setFld Fld.ROPE_MEMBER_STATE n st).setFld Fld.ROPE_MEMBER_CAUSE n cause
  if same then s else publishRing (raiseSource s 35)

/-- A member's causes are these: SUSPECT with the latest, or ACTIVE with none (R444). -/
def setCauses (s : State) (n : Nat) (cs : List Nat) : State :=
  let s := { s with rope := { s.rope with causes := Cells.put (fun _ => []) s.rope.causes n cs } }
  match cs.getLast? with
  | some c => setMember s n 2 c
  | none => setMember s n 1 0

/-- A member in the ring is SUSPECT for a cause, beside any it is suspect for already; CAUSE shows the latest (orders 1, 4 and 5 of the
worked example). -/
def suspect (s : State) (n cause : Nat) : State :=
  if livePos s n then setCauses s n ((causesOf s n).filter (· ≠ cause) ++ [cause]) else s

/-- The segments beside a position, down or up. -/
def markSegments (s : State) (p : Nat) (down : Bool) : State :=
  let n := max 1 s.rope.size
  let set (m i : Nat) : Nat := putBits m i 1 (b2n down)
  { s with rope := { s.rope with segDown := set (set s.rope.segDown (p % n)) ((p + n - 1) % n) } }

/-! ## Formation (R430 to R432) -/

/-- The DISCOVER payload of the lead. -/
def discoverBytes (s : State) (west : Bool) : List Byte :=
  leBytes 1 (1 + 2 * b2n west) ++ [0] ++ leBytes 2 (if s.flag Fld.ROPE_STATUS_ID_VALID 0 then moduleId s else 0xFFFF)
    ++ leBytes 12 0 ++ s.fuses.serial

/-- The lead sends DISCOVER out of an X-die's rope port. -/
def sendDiscover (s : State) (x : Nat) : State :=
  sendHop s x { type := 0x20, hop := 1, nonce := 0 } (discoverBytes s (x = 1))

/-- The rope step of bring-up begins, or begins anew (R430, R460): a lead draws its nonce and sends DISCOVER; a second waits. -/
def ropeBegin (s : State) (marginKey stageKey stageLen : Nat) : State :=
  let s := { s with rope := { s.rope with marginKey := marginKey, ownStage := ⟨stageKey, stageLen⟩, west := false, seen := 0,
                                          await := false } }
  let s := (s.setFld Fld.ROPE_STATUS_FAULT 0 0).setFld Fld.ROPE_STATUS_FORMED 0 0
  if !isLead s then s
  else
    let (n, s) := s.fresh 64
    sendDiscover { s with rope := { s.rope with nonce := n.toNat, size := 0, segDown := 0, joined := [], causes := [] } } 0

/-- ASSIGN as the lead sends it. -/
def assignBytes (s : State) : List Byte :=
  leBytes 2 (s.fld Fld.ROPE_CFG_ID_BASE 0) ++ leBytes 1 (s.fld Fld.ROPE_STATUS_OPEN 0) ++ leBytes 1 (s.fld Fld.ROPE_STATUS_MEMBERS 0)
    ++ leBytes 4 s.rope.marginKey ++ leBytes 8 0 ++ memberTable s

/-- Has every member joined (R430 order 6)? -/
def checkFormed (s : State) : State :=
  if s.flag Fld.ROPE_STATUS_FORMED 0 || s.rope.size = 0 || s.fld Fld.ROPE_STATUS_FAULT 0 ≠ 0 then s
  else if (List.range 32).all (fun n => n == 0 || !livePos s n || s.rope.joined.contains n) then
    publishRing (raiseSource (s.setFld Fld.ROPE_STATUS_FORMED 0 1) 32)
  else s

/-- What the lead seats at position `n` of a ring with seconds at `positions`: itself and the seconds; a place that an expelled member
left stays vacant until a JOIN comes from it (R451). -/
def seatState (s : State) (positions : List Nat) (n : Nat) : Nat :=
  if n = 0 then 1 else if !positions.contains n then 0 else if s.fld Fld.ROPE_MEMBER_STATE n = 3 then 3 else 1

/-- The lead seats itself and the seconds at `positions`, takes its own ID, which it keeps until its next full reset (R4), and sends
ASSIGN. -/
def assignRing (s : State) (positions : List Nat) (size : Nat) (isOpen : Bool) : State :=
  let base := s.fld Fld.ROPE_CFG_ID_BASE 0
  let id := if s.flag Fld.ROPE_STATUS_ID_VALID 0 then moduleId s else base * 32
  let st := seatState s positions
  let s := (List.range 32).foldl (fun t n => seatMember t base n (st n)) s
  let s := (((s.setFld Fld.ROPE_STATUS_MODULE_ID 0 id).setFld Fld.ROPE_STATUS_ID_VALID 0 1).setFld Fld.ROPE_STATUS_OPEN 0
    (b2n isOpen)).setFld Fld.ROPE_STATUS_MEMBERS 0 (((List.range 32).filter (livePos s)).length)
  let s := raiseSource { s with rope := { s.rope with size := size } } 35
  let m : RopeMsg := { type := 0x21, hop := 1, nonce := s.rope.nonce }
  let s := sendHop s 0 m (assignBytes s)
  checkFormed (if isOpen then sendHop s 1 m (assignBytes s) else s)

/-- Is formation under way at the lead? -/
def forming (s : State) : Bool :=
  isLead s && s.rope.nonce != 0 && !s.flag Fld.ROPE_STATUS_FORMED 0 && s.fld Fld.ROPE_STATUS_FAULT 0 == 0

/-- DISCOVER at the lead (R428, R430, R431). -/
def discoverLead (s : State) (h : RopeHdr) (payload : List Byte) : State :=
  let serial := (payload.drop 0x10).take 16
  if !(leAt payload 0 1).testBit 0 then s
  else if serial ≠ s.fuses.serial then if s.fld Fld.ROPE_STATUS_FAULT 0 = 0 then ropeFault s 1 else s
  else if !forming s then s
  else if s.rope.west || h.hop.toNat > 32 then ropeFault s 2
  else if s.rope.size ≠ 0 then s
  else assignRing s ((List.range (h.hop.toNat - 1)).map (· + 1)) h.hop.toNat false

/-- The hop count of a second in a DISCOVER: as received; where it holds an ID and modules before it are no longer in the ring, the
one of its place, which those vacant places keep (R4, R451; DEDUCED, log entry 137). -/
def discoverHop (s : State) (west : Bool) (hop : Nat) : Nat :=
  let own := if west then 32 - ownPos s else ownPos s
  if s.flag Fld.ROPE_STATUS_ID_VALID 0 && hop < own && own < 32 then own else hop

/-- DISCOVER at a second: its position is the hop count, or 32 less it on a west branch (R430, R431). With NO_ROPE it stays outside
any rope (R458). -/
def discoverSecond (s : State) (x : Nat) (h : RopeHdr) (payload : List Byte) : State :=
  let west := (leAt payload 0 1).testBit 1
  let hop := discoverHop s west h.hop.toNat
  let pos := if west then 32 - hop else hop
  if s.flag Fld.BRINGUP_CFG_NO_ROPE 0 then s
  else if hop > 31 || hop = 0 || (s.rope.west != west && s.rope.await) then ropeFault s 2
  else
    let s := { s with rope := { s.rope with seen := pos, west := west, await := true } }
    let s := s.setFld Fld.ROPE_STATUS_POSITION 0 pos
    sendHop s (1 - x) { type := 0x20, hop := hop + 1, nonce := 0 } payload

/-- JOIN to the lead (R430, R432, R435). -/
def sendJoin (s : State) (dst nonce flags : Nat) : State :=
  sendUni s dst { type := 0x22, nonce := nonce }
    (leBytes 1 flags ++ [0] ++ leBytes 2 (if s.flag Fld.ROPE_STATUS_ID_VALID 0 then moduleId s else 0xFFFF)
      ++ leBytes 4 s.rope.ownStage.key ++ leBytes 4 s.rope.ownStage.len ++ leBytes 4 0 ++ s.fuses.serial)

/-- ASSIGN at a second (R430, R432, R458). -/
def assignSecond (s : State) (x : Nat) (h : RopeHdr) (payload : List Byte) : State :=
  if s.rope.seen = 0 || s.flag Fld.BRINGUP_CFG_NO_ROPE 0 then s
  else
    let s := { s with rope := { s.rope with await := false } }
    let base := leAt payload 0 2 % 2048
    let id := base * 32 + s.rope.seen
    let fwd (s : State) : State := sendHop s (1 - x) { type := 0x21, hop := h.hop.toNat + 1, nonce := h.nonce.toNat } payload
    if s.flag Fld.ROPE_STATUS_ID_VALID 0 && moduleId s != id then
      sendJoin (fwd (ropeFault s 3)) (base * 32) h.nonce.toNat 1
    else
      let isOpen := (leAt payload 2 1).testBit 0
      let s := (List.range 32).foldl (fun s n => seatMember s base n (leAt payload (0x10 + n) 1)) s
      let s := ((((s.setFld Fld.ROPE_STATUS_MODULE_ID 0 id).setFld Fld.ROPE_STATUS_ID_VALID 0 1).setFld Fld.ROPE_STATUS_POSITION 0
        s.rope.seen).setFld Fld.ROPE_STATUS_OPEN 0 (b2n isOpen)).setFld Fld.ROPE_STATUS_MEMBERS 0 (leAt payload 3 1)
      let s := { s with rope := { s.rope with nonce := h.nonce.toNat, marginKey := leAt payload 4 4,
                                              size := if isOpen then 32 else leAt payload 3 1 } }
      let s := sendJoin (fwd s) (base * 32) h.nonce.toNat 0
      if s.flag Fld.ROPE_STATUS_FORMED 0 then s else raiseSource (s.setFld Fld.ROPE_STATUS_FORMED 0 1) 32

/-! ## The bypass (R438, R439, R442) -/

/-- The switch starts to move. -/
def moveBypass (s : State) (dest : Nat) : State :=
  if s.fld Fld.ROPE_BYPASS_STATE 0 = dest then s
  else { s.setFld Fld.ROPE_BYPASS_STATE 0 2 with rope := { s.rope with moveTo := dest } }

/-- Firmware sets INSERT (R438). -/
def insertBypass (s : State) : State :=
  if s.flag Fld.ROPE_BYPASS_EXPELLED 0 then s else moveBypass (s.setFld Fld.ROPE_BYPASS_INSERT 0 1) 1

/-- A write of ROPE_BYPASS. -/
def writeBypass (s : State) (m : Nat) (a : CsrAcc) : State :=
  if !ropeMaster m then violation s 1 m (regAddr .ROPE_BYPASS 0) true
  else if s.flag Fld.ROPE_BYPASS_EXPELLED 0 || !Fld.ROPE_BYPASS_INSERT.reached a then s
  else if Fld.ROPE_BYPASS_INSERT.presented a = 1 then insertBypass s
  else s.setFld Fld.ROPE_BYPASS_INSERT 0 0

/-! ## Expulsion (R443, R450, R451) -/

/-- The rope step (R450). -/
def ropeStep (s : State) : Nat :=
  if s.jobs.isEmpty then s.rope.periods else Cells.get (fun _ => 0) s.rope.dMax (s.fld Fld.ROPE_CFG_PACE_JOB 0)

/-- The loss between two inserted modules with `k` modules in THROUGH between them, in 0.01 dB (R441). The budget is 7.00 dB, which
allows three (R440). -/
def spanLoss (k : Nat) : Nat := 160 + 150 * k + 10 * (k + 1)

/-- Positions in THROUGH in a row around `p` were it expelled: those next to it whose modules are not in the
ring, or are leaving it. -/
def throughRun (s : State) (p : Nat) : Nat :=
  let n := max 1 s.rope.size
  let out (q : Nat) : Bool := !livePos s q || s.rope.expelling.contains q || s.rope.planned.any (fun e => e.expel && e.pos == q)
  let east := ((List.range (n - 1)).map (fun k => (p + k + 1) % n)).takeWhile out
  let west := ((List.range (n - 1)).map (fun k => (p + n - k - 1) % n)).takeWhile out
  min n (1 + east.length + west.length)

/-- May the lead expel the member at `p` (R450)? -/
def mayExpel (s : State) (p : Nat) : Bool :=
  let recent := s.rope.expulsions.filter (fun e => ropeStep s < e + s.fld Fld.ROPE_CFG_EXPEL_WINDOW 0)
  recent.length + (s.rope.planned.filter (fun e => e.expel)).length < s.fld Fld.ROPE_CFG_EXPEL_MAX 0 && spanLoss (throughRun s p) ≤ 700

/-- Begin an expulsion, or refuse it: SUSPECT with cause BUDGET, REFUSED grows, source 37 (R443, R450). -/
def beginExpel (s : State) (p cause : Nat) : State :=
  if !livePos s p || s.rope.planned.any (fun e => e.pos == p) || s.rope.expelling.contains p then s
  else if mayExpel s p then
    let s := { s with rope := { s.rope with planned := s.rope.planned ++ [⟨true, p, cause⟩] } }
    publishRing (markSegments s p true)
  else raiseSource ((suspect s p 3).satAdd Fld.ROPE_COUNT_REFUSED 0 1) 37

/-- SETTLE has passed after a planned ring state: EXPEL is sent, or the insertion granted (R443). -/
def settle (s : State) (p : Nat) : State :=
  match s.rope.planned.find? (fun e => e.pos == p) with
  | none => s
  | some e =>
    let s := { s with rope := { s.rope with planned := s.rope.planned.filter (fun k => k.pos != p) } }
    let dst := s.fld Fld.ROPE_CFG_ID_BASE 0 * 32 + p
    if e.expel then
      let step := ropeStep s
      let s := { s with rope := { s.rope with expulsions := s.rope.expulsions ++ [step], expelling := s.rope.expelling ++ [p] } }
      sendUni (s.satAdd Fld.ROPE_COUNT_EXPELLED 0 1) dst { type := 0x28, seq := step, nonce := s.rope.nonce } (leBytes 1 e.cause ++ leBytes 7 0)
    else sendUni s dst { type := 0x22, nonce := s.rope.nonce } (leBytes 1 4 ++ leBytes 31 0)

/-- The requests sent to a module are abandoned: their attempts fail (R231). -/
def abandonTo (s : State) (id : Nat) : State := (s.repl.filter (fun t => t.phase = .sent ∧ t.dest = id)).foldl failTry s

/-- The lead marks a member EXPELLED (R451); its replacement requests are abandoned (R231). -/
def memberExpelled (s : State) (p : Nat) : State :=
  if !s.rope.expelling.contains p then s
  else
    let id := s.fld Fld.ROPE_MEMBER_MODULE_ID p
    let s := { s with rope := { s.rope with expelling := s.rope.expelling.filter (· ≠ p) } }
    abandonTo (setMember (markSegments s p false) p 3 0) id

/-! ## JOIN, RING_STATE, HEARTBEAT -/

/-- JOIN at the lead (R430, R432, R435, R443). -/
def joinLead (s : State) (h : RopeHdr) (payload : List Byte) : State :=
  let p := h.pos.toNat
  let f := leAt payload 0 1
  if p = 0 || p ≥ 32 then s
  else if f.testBit 0 then
    let s := setMember s p 0 0
    checkFormed (s.setFld Fld.ROPE_STATUS_MEMBERS 0 (((List.range 32).filter (livePos s)).length))
  else if f.testBit 1 then
    if livePos s p || s.rope.planned.any (fun e => e.pos == p) then s
    else publishRing (markSegments { s with rope := { s.rope with planned := s.rope.planned ++ [⟨false, p, 0⟩] } } p true)
  else
    let s := { s with rope := { s.rope with
      joined := if s.rope.joined.contains p then s.rope.joined else s.rope.joined ++ [p],
      staging := Cells.put (fun _ => {}) s.rope.staging p ⟨leAt payload 4 4, leAt payload 8 4⟩ } }
    if livePos s p then checkFormed s
    else
      let s := markSegments (s.setFld Fld.ROPE_MEMBER_MODULE_ID p h.src.toNat) p false
      checkFormed (setMember s p 1 0)

/-- JOIN received. -/
def rxJoin (s : State) (h : RopeHdr) (payload : List Byte) : State :=
  if isLead s then joinLead s h payload
  else if (leAt payload 0 1).testBit 2 then insertBypass s else s

/-- RING_STATE at a second: the member table and its own route word are applied, requests to expelled members are abandoned (R231),
then the message goes on (R437). -/
def ringState (s : State) (x : Nat) (h : RopeHdr) (payload : List Byte) : State :=
  if isLead s then s
  else
    let base := moduleId s / 32
    let gone := (List.range 32).filter (fun n => leAt payload (8 + n) 1 == 3)
    let s := (List.range 32).foldl (fun s n => seatMember s base n (leAt payload (8 + n) 1)) s
    let s := gone.foldl (fun s n => abandonTo s (base * 32 + n)) s
    let s := s.setFld Fld.ROPE_ROUTE_WEST 0 (leAt payload (0x28 + 4 * ownPos s) 4)
    let s := { s with rope := { s.rope with ringGen := h.seq.toNat, segDown := leAt payload 0 4 } }
    sendHop s (1 - x) { type := 0x26, seq := h.seq.toNat, hop := h.hop.toNat + 1, nonce := s.rope.nonce } payload

/-- The HEARTBEAT payload (R435). -/
def heartbeatBytes (s : State) : List Byte :=
  leBytes 1 (pwrState s) ++ leBytes 1 (s.fld Fld.ROPE_STATUS_LEAD_LOST 0) ++ leBytes 2 0 ++ leBytes 4 s.rope.ringGen

/-- The module ID of the lead. -/
def leadId (s : State) : Nat := moduleId s / 32 * 32

/-- HB_PERIOD has passed (R444). -/
def heartbeat (s : State) : State :=
  if s.fld Fld.ROPE_TIMER_HB_PERIOD 0 = 0 || !s.flag Fld.ROPE_STATUS_FORMED 0 then s
  else
    let m : RopeMsg := { type := 0x27, seq := s.rope.hbCount, hop := 1, nonce := s.rope.nonce }
    let s := { s with rope := { s.rope with hbCount := (s.rope.hbCount + 1) % 2 ^ 32, periods := s.rope.periods + 1 } }
    if isLead s then sendNext (sendNext s 0 m (heartbeatBytes s)) 1 m (heartbeatBytes s)
    else sendUni s (leadId s) m (heartbeatBytes s)

/-- HEARTBEAT received (R444): a second hands the lead's on; the lead ends a suspicion that silence caused. -/
def rxHeartbeat (s : State) (x : Nat) (h : RopeHdr) (payload : List Byte) : State :=
  if isLead s then
    let p := h.pos.toNat
    if p < 32 && s.fld Fld.ROPE_MEMBER_STATE p == 2 && (causesOf s p).contains 1 then setCauses s p ((causesOf s p).filter (· ≠ 1)) else s
  else if h.pos.toNat = 0 then
    match neighbour s (1 - x) with
    | some 0 | none => s
    | some _ =>
      let m : RopeMsg := { type := 0x27, seq := h.seq.toNat, hop := h.hop.toNat + 1, nonce := s.rope.nonce }
      sendNextAs s (1 - x) (fun dst =>
        { ropeHdr s (1 - x) dst (1 - x = 0) m payload.length with src := h.src, pos := h.pos }) payload
  else s

/-- A second asks the lead to let it move its bypass to INSERT (R435, R443). -/
def askInsert (s : State) : State := if isLead s then s else sendJoin s (leadId s) s.rope.nonce 2

/-- What the lead's firmware decides at a period (R443, R450, R451): it expels members for a cause that the member is suspect for, or
on its host's order, cause 5. -/
def orderExpel (s : State) (orders : List (Fin 32 × Fin 6)) : State :=
  if !isLead s then s
  else orders.foldl (fun s e =>
    let (p, c) : Nat × Nat := (e.1, e.2)
    if p ≠ 0 ∧ (c = 5 ∨ (c ≠ 0 ∧ s.fld Fld.ROPE_MEMBER_STATE p = 2 ∧ (causesOf s p).contains c)) then beginExpel s p c else s) s

/-- HB_MISS periods have passed without a HEARTBEAT (R444): of the lead, at a second; of the member at `p`, at the lead,
whose firmware may then expel it. -/
def heartbeatMiss (s : State) (p : Nat) (expel : Bool) : State :=
  if s.fld Fld.ROPE_TIMER_HB_PERIOD 0 = 0 || !s.flag Fld.ROPE_STATUS_FORMED 0 then s
  else if isLead s then
    if p = 0 then s
    else
      let s := suspect s p 1
      if expel then beginExpel s p 1 else s
  else if s.flag Fld.ROPE_STATUS_LEAD_LOST 0 then s
  else raiseSource (s.setFld Fld.ROPE_STATUS_LEAD_LOST 0 1) 34

/-- EXPEL, accepted by the X-die (R439); firmware then stops the jobs (R451). -/
def rxExpel (s : State) : State :=
  let s := moveBypass (s.setFld Fld.ROPE_BYPASS_EXPELLED 0 1) 0
  s.jobs.foldl (fun s j => stopJob s j.id 0x10) s

/-! ## Cairns and tables (R445 to R448) -/

/-- The lead learns a member's DELIVERED: D_max, the member's register, stragglers (R446). -/
def noteDelivered (s : State) (job p d : Nat) : State :=
  let top := max d (Cells.get (fun _ => 0) s.rope.dMax job)
  let s := { s with rope := { s.rope with delivered := Cells.put (fun _ => 0) s.rope.delivered (job * 32 + p) (d + 1),
                                          dMax := Cells.put (fun _ => 0) s.rope.dMax job top } }
  let s := if job = s.fld Fld.ROPE_CFG_PACE_JOB 0 then s.setFld Fld.ROPE_MEMBER_DELIVERED p d else s
  (List.range 32).foldl (fun s n =>
    let v := Cells.get (fun _ => 0) s.rope.delivered (job * 32 + n)
    if livePos s n && v != 0 && v - 1 + s.fld Fld.ROPE_CFG_STRAGGLE 0 < top && !s.rope.straggled.contains (job * 32 + n) then
      raiseSource (suspect { s with rope := { s.rope with straggled := s.rope.straggled ++ [job * 32 + n] } } n 4) 36
    else s) s

/-- The tests of R31 on a table of some bytes with the header TABLE announces. -/
def tableOk (t : List Byte) (gen eff : Nat) : Bool :=
  let n := leAt t 8 4
  let e (i : Nat) : List Byte := (t.drop (32 + 32 * i)).take 32
  let N := leAt t 0x10 8
  1 ≤ n && n ≤ 65536 && t.length == 32 + 32 * n && leAt t 0 4 == gen && leAt t 4 4 == eff && 1 ≤ N && N ≤ 2 ^ 48
    && leAt (e 0) 0 8 == 0 && leAt (e (n - 1)) 8 8 == N
    && (List.range n).all (fun i =>
      leAt (e i) 0 8 < leAt (e i) 8 8 && (i == 0 || leAt (e i) 0 8 == leAt (e (i - 1)) 8 8)
        && (!(leAt (e i) 0x14 2).testBit 0 || leAt (e i) 0x10 2 != leAt (e i) 0x12 2))

/-- Is the table in one slot still selected for some step from `from_` on, given the other (R220)? Slot A wins a tie. -/
def slotInUse (s : State) (own other from_ : Nat) (isA : Bool) : Bool :=
  if own = 0 then false
  else if other = 0 then true
  else
    let (a, b) := (shardTable s own, shardTable s other)
    if b.generation < a.generation ∨ (a.generation = b.generation ∧ isA) then true else max a.effective from_ < b.effective

/-- Does a slot of a P-die hold a table of a generation? -/
def holdsGeneration (s : State) (c : PermCtx) (gen : Nat) : Bool :=
  [c.tableA, c.tableB].any (fun a => a != 0 && (shardTable s a).generation == gen)

/-- Does a slot of some P-die hold another table of this one's generation? Firmware does not place the two together (R220). -/
def generationClash (s : State) (job gen : Nat) (t : List Byte) : Bool :=
  (List.range 4).any (fun d =>
    let c := permCtx s d job
    c.valid && [c.tableA, c.tableB].any (fun a => a != 0 && (shardTable s a).generation == gen && peek s a t.length != t))

/-- The slot that a new table may take on a P-die: the offset of its address in the job context (R219, R220). -/
def freeSlot (s : State) (d job : Nat) : Option Nat :=
  let c := permCtx s d job
  let from_ := counterVal s (deliveredName job)
  if !slotInUse s c.tableA c.tableB from_ true then some 0x28
  else if !slotInUse s c.tableB c.tableA from_ false then some 0x30
  else none

/-- The P-dies that hold a job and do not hold a table of a generation yet. -/
def installDies (s : State) (job gen : Nat) : List Nat :=
  (List.range 4).filter (fun d => let c := permCtx s d job; c.valid && !holdsGeneration s c gen)

/-- What installing a table of `n` bytes writes. -/
def installSpans (s : State) (job gen place n : Nat) : List Span :=
  match installDies s job gen with
  | [] => []
  | ds => (place, n) :: ds.map (fun d => (permCtxAddr s d job + 0x28, 16))

/-- Install a table: its bytes first, then the slot address on each P-die that holds the job (R220, R448); one that a P-die holds
already stays where it is. -/
def installTable (s : State) (job place : Nat) (t : List Byte) : State :=
  let ds := installDies s job (leAt t 0 4)
  let slots := ds.map (fun d => (d, freeSlot s d job))
  let s := if ds.isEmpty then s else memPut s 0x10 place t
  slots.foldl (fun s e => match e.2 with
    | some o => memPut s 0x10 (permCtxAddr s e.1 job + o) (leBytes 8 place)
    | none => s) s

/-- What a member answers to TABLE (R448). -/
def tableStatus (s : State) (job gen eff crc : Nat) (t : List Byte) : Nat :=
  if crc32c t ≠ crc then 0x11
  else if !tableOk t gen eff || generationClash s job gen t || (installDies s job gen).any (fun d => (freeSlot s d job).isNone) then 0x05
  else if eff ≤ counterVal s (deliveredName job) + (permCtx s 0 job).K - 1 then 0x81
  else 0

/-- A module's firmware issues a Furrow WRITE of its own on a send queue of X-die 0 (R447, R449). -/
def firmwareWrite (s : State) (sq dst key remote : Nat) (bs : List Byte) : State :=
  newMsg s 0 { id := 0, type := 1, dst := dst, dstEngine := false, seq := 0, total := bs.length, key := key, remote := remote, sq := sq,
               payload := bs, pkts := (List.range (ceilDiv bs.length 4096)).map (fun k => { k := k }) }

/-- Write a table into a member's staging buffer, in messages of at most 1 MiB, and send TABLE (R447). -/
def sendTable (s : State) (t : TableOut) (p : Nat) : State :=
  let dst := s.fld Fld.ROPE_MEMBER_MODULE_ID p
  let st := Cells.get (fun _ => ({} : Staging)) s.rope.staging p
  let s := (List.range (ceilDiv t.bytes.length (2 ^ 20))).foldl (fun s k =>
    firmwareWrite s 0 dst st.key (k * 2 ^ 20) ((t.bytes.drop (k * 2 ^ 20)).take (2 ^ 20))) s
  sendUni s dst { type := 0x24, seq := t.gen, image := t.job, spec := crc32c t.bytes + t.bytes.length * 2 ^ 32, nonce := s.rope.nonce }
    (leBytes 4 t.effective ++ leBytes 4 (leAt t.bytes 8 4))

/-- The live members but the lead. -/
def liveSeconds (s : State) : List Nat := (List.range 32).filter (fun n => n != 0 && livePos s n)

/-- Has every member acknowledged a table? -/
def allAcked (s : State) (t : TableOut) : Bool := t.acked.contains 0 && (liveSeconds s).all (fun n => t.acked.contains n)

/-- May the lead issue another table for a job (R447)? -/
def mayIssue (s : State) (job : Nat) : Bool :=
  match s.rope.tables.find? (fun t => t.job == job) with
  | none => true
  | some t => allAcked s t && t.effective ≤ Cells.get (fun _ => 0) s.rope.dMax job

/-- The highest generation that the lead's own slots hold. -/
def heldGeneration (s : State) (job : Nat) : Nat :=
  let c := permCtx s 0 job
  max (if c.tableA = 0 then 0 else (shardTable s c.tableA).generation) (if c.tableB = 0 then 0 else (shardTable s c.tableB).generation)

/-- TABLE_LATE (R448): source 40 at the lead; the job stops. -/
def tableLate (s : State) (job : Nat) : State := stopJob (if isLead s then raiseSource s 40 else s) job 0x81

/-- An acknowledgement by the member at `p` (R447, R448). -/
def tableAcked (s : State) (job gen p : Nat) : State :=
  match s.rope.tables.find? (fun t => t.job == job && t.gen == gen) with
  | none => s
  | some t =>
    if t.acked.contains p then s
    else
      let t' := { t with acked := t.acked ++ [p] }
      let s := { s with rope := { s.rope with tables := s.rope.tables.map (fun k => if k.job = job then t' else k) } }
      if allAcked s t' then s.satAdd Fld.ROPE_COUNT_TABLES 0 1 else s

/-- The lead issues the table its firmware built, under R30 with generation g + 1 and E = D_max + K + TABLE_LEAD (R447). -/
def issueTable (s : State) (job place : Nat) (table : List Byte) : State :=
  let eff := Cells.get (fun _ => 0) s.rope.dMax job + (permCtx s 0 job).K + s.fld Fld.ROPE_CFG_TABLE_LEAD 0
  let gen := heldGeneration s job + 1
  let bytes := putAt (putAt table 0 (leBytes 4 gen)) 4 (leBytes 4 eff)
  if table.isEmpty || !mayIssue s job || !tableOk bytes gen eff then s
  else
    let t : TableOut := { job := job, gen := gen, effective := eff, bytes := bytes, sent := (liveSeconds s).map (fun n => (n, 1)) }
    let s := { s with rope := { s.rope with tables := s.rope.tables.filter (fun k => k.job != job) ++ [t] } }
    let s := (liveSeconds s).foldl (fun s n => sendTable s t n) s
    let st := tableStatus s job gen eff (crc32c bytes) bytes
    if st = 0 then tableAcked (installTable s job place bytes) job gen 0 else if st = 0x81 then tableLate s job else s

/-- CAIRN at the lead (R445 to R447). -/
def rxCairn (s : State) (h : RopeHdr) (payload table : List Byte) (place : Nat) : State :=
  if !isLead s || h.pos.toNat ≥ 32 then s
  else
    let job := h.image.toNat % 256
    issueTable (noteDelivered s job h.pos.toNat (leAt payload 0 4)) job place table

/-- The positions of a step that this module owns, by the table that R32 selects for it. -/
def ownedIn (s : State) (job step : Nat) : Nat :=
  let c := permCtx s 0 job
  match selectTable s c step with
  | none => 0
  | some t => ((List.range c.B).filter (fun q => (ownerOf t (sampleIndex c step q)).elim false (fun e => e.primary == c.self))).length

/-- The SAT periods of the thresher gauges of the four P-dies. -/
def thresherSat (s : State) : Nat := (List.range 4).foldl (fun n d => n + s.fld Fld.GAUGE_SAT (d * 9 + 1)) 0

/-- The payload of a CAIRN after step `step` (R445). The cycles from the start of the step's OWNED job are time, a free value. -/
def cairnBytes (s : State) (job step cycles : Nat) : List Byte :=
  let t := Cells.get (fun _ => ({} : JobTally)) s.tally job
  leBytes 4 (step + 1) ++ leBytes 4 (ownedIn s job step) ++ leBytes 4 t.replaced ++ leBytes 4 t.voids
    ++ leBytes 4 ((selectTable s (permCtx s 0 job) step).elim 0 ShardTable.generation) ++ leBytes 4 cycles
    ++ leBytes 4 (thresherSat s - t.sat) ++ leBytes 36 0

/-- A step of a job has been delivered (R445): firmware of a member sends its CAIRN, the lead takes note itself. -/
def sendCairn (s : State) (job step : Nat) : State :=
  let t := Cells.get (fun _ => ({} : JobTally)) s.tally job
  let told (s : State) : State :=
    { s with tally := Cells.put (fun _ => {}) s.tally job { t with told := step + 1, sat := thresherSat s } }
  if !s.flag Fld.ROPE_STATUS_FORMED 0 then told s
  else if isLead s then told (noteDelivered s job 0 (step + 1))
  else
    let (w, s) := s.fresh 32
    told (sendUni s (leadId s) { type := 0x23, seq := step, image := job, nonce := s.rope.nonce } (cairnBytes s job step w.toNat))

/-- A CAIRN for each step of a loaded job that has been delivered since the last (R445). -/
def cairnsDue (s : State) (job : Nat) : State :=
  if !s.jobs.any (fun j => j.id == job) then s
  else
    let told := (Cells.get (fun _ => ({} : JobTally)) s.tally job).told
    (List.range (counterVal s (deliveredName job) - told)).foldl (fun s k => sendCairn s job (told + k)) s

/-- What the lead and a member keep of a job starts anew when it is loaded (R234, R445, R446). -/
def freshTally (s : State) (job : Nat) : State :=
  let other (k : Nat) : Bool := k / 32 == job
  { s with
    tally := Cells.put (fun _ => {}) s.tally job { sat := thresherSat s },
    rope := { s.rope with
      delivered := Cells.drop other s.rope.delivered, dMax := Cells.put (fun _ => 0) s.rope.dMax job 0,
      straggled := s.rope.straggled.filter (fun k => k / 32 != job), tables := s.rope.tables.filter (fun t => t.job != job) } }

/-- The part of the staging buffer that holds the table of a TABLE. -/
def tableSpan (s : State) (h : RopeHdr) : Span :=
  ((keyAt s (s.rope.ownStage.key % 4096)).base, min (h.spec.toNat / 2 ^ 32) s.rope.ownStage.len)

/-- What TABLE reads, and what installing its table writes, may have to be asked of the host first (R410). -/
def tablePrep (s : State) (h : RopeHdr) (payload : List Byte) (place : Nat) : Ready :=
  if isLead s || h.dst.toNat != moduleId s then .go
  else
    let p := tableSpan s h
    match prepare s 0x10 [p] [] with
    | .stall t => .stall t
    | .go =>
      let job := h.image.toNat % 256
      let data := (memRead s 0x10 3 p.1 p.2).data
      if tableStatus s job h.seq.toNat (leAt payload 0 4) (h.spec.toNat % 2 ^ 32) data = 0 then
        prepare s 0x10 [p] (installSpans s job h.seq.toNat place data.length)
      else .go

/-- TABLE at a member (R448). -/
def rxTable (s : State) (h : RopeHdr) (payload : List Byte) (place : Nat) : State :=
  if isLead s then s
  else
    let job := h.image.toNat % 256
    let p := tableSpan s h
    let r := memRead s 0x10 3 p.1 p.2
    let s := dropHost r.st 0x10
    let st := tableStatus s job h.seq.toNat (leAt payload 0 4) (h.spec.toNat % 2 ^ 32) r.data
    let s := if st = 0 then installTable s job place r.data else s
    let d := counterVal s (deliveredName job)
    let s := sendUni s (leadId s) { type := 0x25, seq := h.seq.toNat, image := job, nonce := s.rope.nonce }
      (leBytes 1 st ++ leBytes 3 0 ++ leBytes 4 d)
    if st = 0x81 then tableLate s job else s

/-- A table that the lead issues is installed at the lead as well. -/
def cairnPrep (s : State) (h : RopeHdr) (table : List Byte) (place : Nat) : Ready :=
  let job := h.image.toNat % 256
  if !isLead s || table.isEmpty then .go
  else prepare s 0x10 [] (installSpans s job (heldGeneration s job + 1) place table.length)

/-- TABLE_ACK at the lead (R447, R448): a failed check sends the table again, at most three times. -/
def rxTableAck (s : State) (h : RopeHdr) (payload : List Byte) : State :=
  let p := h.pos.toNat
  let job := h.image.toNat % 256
  if !isLead s || p ≥ 32 then s
  else
    let s := noteDelivered s job p (leAt payload 4 4)
    match leAt payload 0 1 with
    | 0 => tableAcked s job h.seq.toNat p
    | 0x81 => tableLate s job
    | _ =>
      match s.rope.tables.find? (fun t => t.job == job && t.gen == h.seq.toNat) with
      | none => s
      | some t =>
        let n := ((t.sent.find? (fun e => e.1 == p)).map Prod.snd).getD 0
        if n = 0 || n > 3 then s
        else
          let t' := { t with sent := t.sent.map (fun e => if e.1 = p then (p, n + 1) else e) }
          sendTable { s with rope := { s.rope with tables := s.rope.tables.map (fun k => if k.job = job then t' else k) } } t' p

/-! ## Links of the rope -/

/-- The lead learns that the segment eastward of a position is down or up: it is marked and the ring state published (R443). -/
def segmentReport (s : State) (seg : Nat) (down : Bool) : State :=
  if !isLead s || !s.flag Fld.ROPE_STATUS_FORMED 0 || s.rope.segDown.testBit seg == down then s
  else publishRing { s with rope := { s.rope with segDown := putBits s.rope.segDown seg 1 (b2n down) } }

/-- The rope link of an X-die changed: the lead takes note, a second reports it to the lead through its other rope port (R443). The
spec gives the report no format; it leaves on the queue of the rope's management messages (DESIGN CHOICE, log entry 138). -/
def ropeLink (s : State) (x : Nat) (down : Bool) : State :=
  let n := max 1 s.rope.size
  let seg := if x = 0 then ownPos s else (ownPos s + n - 1) % n
  if isLead s then segmentReport s seg down
  else if !s.flag Fld.ROPE_STATUS_FORMED 0 then s
  else sendPacket s { x := 1 - x, dst := leadId s, engine := 1 - x = 0, route := .rope, queue := some 60, dscp := ropeDscp 0x26, n := 0,
                      pkt := .segment seg down, source := ropeSource (1 - x) }

/-! ## Commands -/

/-- Run a rope message's meaning where `rxRope` accepts it. What the meaning needs of the host (`prep`) is asked for before the packet
is taken, so that it is policed once (R400). -/
def onRope (s : State) (x : XDie) (t : Nat) (i : RxInfo) (h : RopeHdr) (payload : List Byte) (f : State → State)
    (prep : Ready := .go) : Host.Outcome State Fault Refusal :=
  match prep with
  | .stall t => .next t
  | .go =>
    match rxRope s x t i h payload with
    | .error s => .next s
    | .ok s => .next (f s)

/-- DISCOVER (R430). -/
def execRopeDiscover (x : XDie) (i : RxInfo) (h : RopeHdr) (payload : List Byte) (s : State) : Host.Outcome State Fault Refusal :=
  onRope s x 0x20 i h payload (fun s => if isLead s then discoverLead s h payload else discoverSecond s x h payload)

/-- ASSIGN (R430, R432). The lead's own comes back to it and ends there. -/
def execRopeAssign (x : XDie) (i : RxInfo) (h : RopeHdr) (payload : List Byte) (s : State) : Host.Outcome State Fault Refusal :=
  onRope s x 0x21 i h payload (fun s => if isLead s then s else assignSecond s x h payload)

/-- JOIN (R430). -/
def execRopeJoin (x : XDie) (i : RxInfo) (h : RopeHdr) (payload : List Byte) (s : State) : Host.Outcome State Fault Refusal :=
  onRope s x 0x22 i h payload (fun s => rxJoin s h payload)

/-- CAIRN (R445): `table` is the table that the lead's firmware then issues, empty for none, and `place` where it keeps it. -/
def execRopeCairn (x : XDie) (i : RxInfo) (h : RopeHdr) (payload table : List Byte) (place : Word) (s : State) :
    Host.Outcome State Fault Refusal :=
  onRope s x 0x23 i h payload (fun s => rxCairn s h payload table place.toNat) (cairnPrep s h table place.toNat)

/-- TABLE (R448): `place` is where firmware puts the table in DRAM. -/
def execRopeTable (x : XDie) (i : RxInfo) (h : RopeHdr) (payload : List Byte) (place : Word) (s : State) :
    Host.Outcome State Fault Refusal :=
  onRope s x 0x24 i h payload (fun s => rxTable s h payload place.toNat) (tablePrep s h payload place.toNat)

/-- TABLE_ACK (R447, R448). -/
def execTableAck (x : XDie) (i : RxInfo) (h : RopeHdr) (payload : List Byte) (s : State) : Host.Outcome State Fault Refusal :=
  onRope s x 0x25 i h payload (fun s => rxTableAck s h payload)

/-- RING_STATE (R437). -/
def execRingState (x : XDie) (i : RxInfo) (h : RopeHdr) (payload : List Byte) (s : State) : Host.Outcome State Fault Refusal :=
  onRope s x 0x26 i h payload (fun s => ringState s x h payload)

/-- HEARTBEAT (R444). -/
def execRopeHeartbeat (x : XDie) (i : RxInfo) (h : RopeHdr) (payload : List Byte) (s : State) : Host.Outcome State Fault Refusal :=
  onRope s x 0x27 i h payload (fun s => rxHeartbeat s x h payload)

/-- EXPEL (R439). -/
def execRopeExpel (x : XDie) (i : RxInfo) (h : RopeHdr) (payload : List Byte) (s : State) : Host.Outcome State Fault Refusal :=
  onRope s x 0x28 i h payload rxExpel

/-- FORM_WAIT has passed (R431): the rope forms open with `e` seconds on its east branch and `w` on its west one. -/
def formWait (s : State) (e w : Nat) : State :=
  if !forming s || s.rope.west || s.rope.size ≠ 0 then s
  else
    let s := sendDiscover { s with rope := { s.rope with west := true } } 1
    if e + w > 31 then ropeFault s 2
    else
      let gap := (List.range (32 - w - e)).foldl (fun m k => m + 2 ^ (e + k)) 0
      let s := { s with rope := { s.rope with segDown := gap } }
      assignRing s ((List.range e).map (· + 1) ++ (List.range w).map (fun k => 31 - k)) 32 true

/-- FORM_WAIT_EXPIRY (R431). -/
def execFormWaitExpiry (east west : BitVec 5) (s : State) : Host.Outcome State Fault Refusal :=
  .next (onModule s (fun s => formWait s east.toNat west.toNat))

/-- HEARTBEAT_MISS (R444). -/
def execHeartbeatMiss (pos : Fin 32) (expel : Bool) (s : State) : Host.Outcome State Fault Refusal :=
  .next (onModule s (fun s => heartbeatMiss s pos expel))

/-- SETTLE_EXPIRY (R443). -/
def execSettleExpiry (pos : Fin 32) (s : State) : Host.Outcome State Fault Refusal :=
  .next (onModule s (fun s => settle s pos))

/-- MEMBER_EXPELLED (R451). -/
def execMemberExpelled (pos : Fin 32) (s : State) : Host.Outcome State Fault Refusal :=
  .next (onModule s (fun s => memberExpelled s pos))

/-- ROPE_BYPASS_INSERT (R438). -/
def execRopeBypassInsert (m : Master) (a : CsrAcc) (s : State) : Host.Outcome State Fault Refusal :=
  .next (onModule s (fun s => writeBypass s m.toNat a))

/-- OPTICAL_PATH_SETTLED (R442). -/
def execOpticalPathSettled (s : State) : Host.Outcome State Fault Refusal :=
  if s.fld Fld.ROPE_BYPASS_STATE 0 ≠ 2 then .next s
  else .next ((s.setFld Fld.ROPE_BYPASS_STATE 0 s.rope.moveTo).modAdd Fld.ROPE_BYPASS_MOVES 0 1)

/-- LINK_UP (R385). -/
def execLinkUp (x : XDie) (p i : Fin 8) (s : State) : Host.Outcome State Fault Refusal :=
  if !xdiesUp s || ifUp s x p i || !ifEnabled s x p i || ifLaneFailed s x p i then .next s
  else
    let t := portLinkUp s x p i
    .next (if p.val = 7 then ropeLink t x false else t)

/-- LINK_DOWN (R385). -/
def execLinkDown (x : XDie) (p i : Fin 8) (s : State) : Host.Outcome State Fault Refusal :=
  if !ifUp s x p i then .next s
  else
    let t := portLinkDown s x p i
    .next (if p.val = 7 then ropeLink t x true else t)

end Sys2Proof.Machine
end

