-- ==== Sys2Proof/Machine/RopeFw.lean ====
section
/-!
DEFINITION. Margin records (R449) and the distribution of firmware over the rope (R452 to R455).
-/
namespace Sys2Proof.Machine

/-! ## Margins (R449) -/

/-- The flags of a measurement below its thresholds. -/
def marginFlags (s : State) (g : Margin) : Nat :=
  b2n (g.rail.toNat < s.fld Fld.ROPE_MARGIN_THR_SUPPLY 0) + 2 * b2n (g.eyeHeight.toNat < s.fld Fld.ROPE_MARGIN_THR_EYE 0)
    + 4 * b2n (g.dram.toNat < s.fld Fld.ROPE_MARGIN_THR_DRAM 0)
    + 8 * b2n (decide (g.rxPower.toInt < (s.fld Fld.ROPE_MARGIN_THR_OPTICAL 0 : Int) - 700))

/-- The record. -/
def marginBytes (s : State) (g : Margin) : List Byte :=
  leBytes 4 s.rope.marginSeq ++ leBytes 1 (marginFlags s g) ++ [g.lane] ++ leBytes 2 g.vin.toNat ++ leBytes 2 g.rail.toNat
    ++ leBytes 2 g.eyeHeight.toNat ++ leBytes 2 g.eyeWidth.toNat ++ [g.channel, g.ropeLane] ++ leBytes 2 g.dram.toNat
    ++ leBytes 2 g.rxPower.toNat ++ leBytes 2 g.txPower.toNat ++ leBytes 42 0

/-- The send queue of X-die 0 that is mapped to egress queue 63. -/
def marginQueue (s : State) : Option Nat :=
  (List.range 64).find? (fun q => s.fld Fld.FUR_SQ_CFG_EGRESS q == 63 && s.flag Fld.FUR_SQ_CFG_ENABLE q)

/-- The lead reads its margin area: a member with a flag set becomes SUSPECT with cause MARGIN. -/
def readMargins (s : State) : State :=
  let base := s.fld Fld.ROPE_MARGIN_BASE 0 * 64
  match prepare s 0x10 [(base, 2048)] [] with
  | .stall s => s
  | .go =>
    let r := memRead s 0x10 3 base 2048
    (List.range 32).foldl (fun s p => if livePos s p && r.data.getD (64 * p + 4) 0 != 0 then suspect s p 2 else s) r.st

/-- MARGIN_PERIOD has passed. -/
def marginPeriod (s : State) (g : Margin) : State :=
  if s.fld Fld.ROPE_TIMER2_MARGIN_PERIOD 0 = 0 || !s.flag Fld.ROPE_STATUS_FORMED 0 then s
  else
    let s := match marginQueue s with
      | some q =>
        let t := { s with rope := { s.rope with marginSeq := (s.rope.marginSeq + 1) % 2 ^ 32 } }
        firmwareWrite t q (leadId s) s.rope.marginKey (64 * ownPos s) (marginBytes s g)
      | none => s
    if isLead s then readMargins s else s

/-! ## Firmware (R452 to R455) -/

/-- The state with the distribution replaced. -/
def setFw (s : State) (f : FwDist) : State := { s with rope := { s.rope with fw := f } }

/-- `ROPE_FW_STATUS.STATE`. -/
def fwState (s : State) : Nat := s.fld Fld.ROPE_FW_STATUS_STATE 0

/-- The chunks of a kind held, false the manifest. -/
def FwDist.held (f : FwDist) (k : Bool) : Cells (List Byte) := if k then f.chunks else f.manifest

/-- The number of chunks of a kind, 0 while unknown. -/
def FwDist.count (f : FwDist) (k : Bool) : Nat := if k then f.nChunks else f.nManifest

/-- A chunk held. -/
def FwDist.chunk (f : FwDist) (k : Bool) (n : Nat) : List Byte := Cells.get (fun _ => []) (f.held k) n

/-- Can this chunk be handed on: an image chunk once verified, a manifest chunk as received (R453)? -/
def FwDist.ready (f : FwDist) (k : Bool) (n : Nat) : Bool := if k then f.verified.contains n else !(f.chunk false n).isEmpty

/-- The state with a chunk stored. -/
def FwDist.store (f : FwDist) (k : Bool) (n : Nat) (c : List Byte) : FwDist :=
  if k then { f with chunks := Cells.put (fun _ => []) f.chunks n c } else { f with manifest := Cells.put (fun _ => []) f.manifest n c }

/-- The whole manifest. -/
def FwDist.whole (f : FwDist) : List Byte := (List.range f.nManifest).flatMap (f.chunk false)

/-- Are all chunks of the manifest held? -/
def FwDist.manifestHeld (f : FwDist) : Bool := f.nManifest != 0 && (List.range f.nManifest).all (f.ready false)

/-- The message of a chunk (R435). -/
def chunkMsg (s : State) (k : Bool) (n : Nat) (repair : Bool) : RopeMsg :=
  let f := s.rope.fw
  { type := if k then 0x2A else 0x29, seq := n, image := f.image, hop := 1, nonce := s.rope.nonce,
    spec := b2n (n + 1 = f.count k) + 2 * b2n repair + f.count k * 2 ^ 32 }

/-- Hand a chunk on: around the ring, westward too from the lead of an open rope, and to child leads (R452, R453). -/
def fwForward (s : State) (k : Bool) (n : Nat) : State :=
  let m := chunkMsg s k n false
  let c := s.rope.fw.chunk k n
  if isLead s then
    let s := sendNext s 0 m c
    let s := if s.flag Fld.ROPE_STATUS_OPEN 0 then sendNext s 1 m c else s
    (childLeads s).foldl (fun s id => sendUni s id m c) s
  else
    match neighbour s (1 - s.rope.fw.from_) with
    | some 0 | none => s
    | some _ => sendNext s (1 - s.rope.fw.from_) m c

/-- Answer the requests owed for a chunk that has become ready (R454). -/
def fwPay (s : State) (k : Bool) (n : Nat) : State :=
  let due := s.rope.fw.owed.filter (fun o => o.1 == k && o.2.1 == n)
  let s := setFw s { s.rope.fw with owed := s.rope.fw.owed.filter (fun o => !(o.1 == k && o.2.1 == n)) }
  due.foldl (fun s o => sendUni s o.2.2 (chunkMsg s k n true) (s.rope.fw.chunk k n)) s

/-- The upstream neighbour's module ID (R454); a lead's is its parent, the source of its first chunk. -/
def upstream (s : State) (parent : Nat) : Nat :=
  if isLead s then parent
  else ((neighbour s s.rope.fw.from_).map (fun p => s.fld Fld.ROPE_MEMBER_MODULE_ID p)).getD parent

/-- Chunks of a kind below `upTo` that are missing. -/
def fwMissing (s : State) (k : Bool) (upTo : Nat) : List Nat :=
  (List.range upTo).filter (fun n => (s.rope.fw.chunk k n).isEmpty)

/-- Send FW_NACK upstream for missing chunks of a kind: base the first, and the 256 from it (R454). -/
def sendFwNack (s : State) (k : Bool) (missing : List Nat) : State :=
  match missing with
  | [] => s
  | b :: _ =>
    let map := (missing.filter (fun n => n < b + 256)).foldl (fun m n => m + 2 ^ (n - b)) 0
    sendUni s (upstream s s.rope.fw.parent)
      { type := 0x2B, seq := b, image := s.rope.fw.image, nonce := s.rope.nonce } (leBytes 1 (b2n k) ++ leBytes 7 0 ++ leBytes 32 map)

/-- Distribution fails (R453, R454): the image is discarded, STATE FAILED, source 39. -/
def fwFail (s : State) : State :=
  raiseSource ((setFw s { image := s.rope.fw.image }).setFld Fld.ROPE_FW_STATUS_STATE 0 3) 39

/-- The image is complete: VERIFIED, source 38 (R455). -/
def fwComplete (s : State) : State :=
  let f := s.rope.fw
  if fwState s = 1 && f.signed && f.nChunks != 0 && (List.range f.nChunks).all (fun n => f.verified.contains n) then
    raiseSource (s.setFld Fld.ROPE_FW_STATUS_STATE 0 2) 38
  else s

/-- Verify a held image chunk against the manifest's digest: it goes on, or counts as missing (R453). -/
def fwVerify (s : State) (n : Nat) : State :=
  let f := s.rope.fw
  if !f.signed || f.verified.contains n || (f.chunk true n).isEmpty then s
  else if shake256 (f.chunk true n) = chunkDigest f.whole n then
    fwPay (fwForward (setFw s { f with verified := f.verified ++ [n] }) true n) true n
  else setFw s (f.store true n [])

/-- Verify the manifest's signature through the anchor once every chunk of it is held (R453). -/
def fwSignature (s : State) : State :=
  let f := s.rope.fw
  if f.signed || !f.manifestHeld then s
  else if verifyManifest s f.whole = 0 then
    (f.chunks.map Prod.fst).foldl fwVerify (setFw s { f with signed := true, nChunks := manChunks f.whole })
  else if f.sigFails + 1 ≥ 3 then fwFail s
  else
    let s := setFw s { f with manifest := [], sigFails := f.sigFails + 1 }
    sendFwNack s false (fwMissing s false f.nManifest)

/-- A gap below chunk `n` draws a FW_NACK for the chunks not asked for yet; only FW_WAIT repeats one (R454). -/
def fwGap (s : State) (k : Bool) (n : Nat) : State :=
  let missing := (fwMissing s k n).filter (fun m => !s.rope.fw.asked.contains (k, m))
  if missing.isEmpty then s
  else
    let new := (missing.filter (fun m => m < missing.headD 0 + 256)).map (fun m => (k, m))
    sendFwNack (setFw s { s.rope.fw with nacks := 1, asked := s.rope.fw.asked ++ new }) k missing

/-- A chunk arrives (R453, R454). A lead takes chunks only from its parent or its own host. -/
def rxChunk (s : State) (x : Nat) (k : Bool) (i : RxInfo) (h : RopeHdr) (payload : List Byte) : State :=
  let sp := h.spec.toNat
  let n := h.seq.toNat
  let from_ := if i.port.val = 7 then x else 2
  let repair := sp.testBit 1
  let fresh := fwState s = 0 || (fwState s = 3 && s.rope.fw.image != h.image.toNat)
  let s := if fresh then
      setFw ((s.setFld Fld.ROPE_FW_STATUS_STATE 0 1).setFld Fld.ROPE_FW_STATUS_IMAGE_ID 0 h.image.toNat)
        { image := h.image.toNat, from_ := from_, parent := h.src.toNat }
    else s
  if isLead s && from_ != 2 then s
  else if fwState s ≠ 1 || s.rope.fw.image ≠ h.image.toNat || payload.isEmpty then s
  else
    let s := if repair then s.satAdd Fld.ROPE_FW_STATUS_REPAIRED 0 1 else s
    let f : FwDist := { s.rope.fw with nacks := 0, asked := s.rope.fw.asked.filter (fun e => e != (k, n)) }
    let f : FwDist := if f.count k = 0 then (if k then { f with nChunks := sp / 2 ^ 32 } else { f with nManifest := sp / 2 ^ 32 }) else f
    if n ≥ f.count k || !(f.chunk k n).isEmpty then setFw s f
    else
      let s := fwGap (setFw s (f.store k n payload)) k (if repair then 0 else n)
      let s := if k then fwVerify s n else fwSignature (fwPay (fwForward s false n) false n)
      fwComplete s

/-- The lead's host gives it an image ID, a manifest and an image in DRAM (R452): firmware verifies them (R453) and sends every
manifest chunk, then every image chunk. An image already in progress goes on first. -/
def fwGive (s : State) (g : FwGive) : State :=
  let cut (bs : List Byte) : Cells (List Byte) :=
    (List.range (ceilDiv bs.length 4096)).foldl (fun c i => Cells.put (fun _ => []) c i ((bs.drop (4096 * i)).take 4096)) []
  let spans := [(g.manifest.toNat, g.manifestLen.toNat), (g.image.toNat, g.chunks.toNat * 4096)]
  if !isLead s || !s.flag Fld.ROPE_STATUS_FORMED 0 || fwState s = 1 || !spans.all (fun p => inDram s p.1 p.2) then s
  else
    match prepare s 0x10 spans [] with
    | .stall s => s
    | .go =>
      let man := memRead s 0x10 3 g.manifest.toNat g.manifestLen.toNat
      let img := memRead man.st 0x10 3 g.image.toNat (g.chunks.toNat * 4096)
      let s := (img.st.setFld Fld.ROPE_FW_STATUS_STATE 0 1).setFld Fld.ROPE_FW_STATUS_IMAGE_ID 0 g.id.toNat
      let s := setFw s { image := g.id.toNat, parent := moduleId s, manifest := cut man.data, chunks := cut img.data,
                         nManifest := ceilDiv man.data.length 4096, nChunks := g.chunks.toNat }
      let s := (List.range s.rope.fw.nManifest).foldl (fun s n => fwForward s false n) s
      if verifyManifest s s.rope.fw.whole = 0 then
        let s := (List.range g.chunks.toNat).foldl fwVerify (setFw s { s.rope.fw with signed := true })
        if (List.range g.chunks.toNat).all (fun n => s.rope.fw.verified.contains n) then fwComplete s else fwFail s
      else fwFail s

/-- FW_NACK (R454): each listed chunk is sent as a REPAIR, or is owed and asked for upstream. -/
def rxFwNack (s : State) (h : RopeHdr) (payload : List Byte) : State :=
  if s.rope.fw.image ≠ h.image.toNat || fwState s = 0 || fwState s = 3 then s
  else
    let k := leAt payload 0 1 = 1
    let map := leAt payload 8 32
    let ns := ((List.range 256).filter (fun j => map.testBit j)).map (· + h.seq.toNat)
    let have_ := ns.filter (s.rope.fw.ready k)
    let lack := ns.filter (fun n => !s.rope.fw.ready k n)
    let s := have_.foldl (fun s n => sendUni s h.src.toNat (chunkMsg s k n true) (s.rope.fw.chunk k n)) s
    let s := setFw s { s.rope.fw with owed := s.rope.fw.owed ++ lack.map (fun n => (decide k, n, h.src.toNat)) }
    sendFwNack s k lack

/-- FW_WAIT has passed without a chunk (R454). -/
def fwWait (s : State) : State :=
  if fwState s ≠ 1 then s
  else
    let f := s.rope.fw
    if f.nacks ≥ 17 then fwFail s
    else
      let s := setFw s { f with nacks := f.nacks + 1 }
      let s := sendFwNack s false (fwMissing s false (max 1 f.nManifest))
      sendFwNack s true (fwMissing s true f.nChunks)

/-- A write of ROPE_FW_CMD (R455). -/
def writeFwCmd (s : State) (m : Nat) (a : CsrAcc) : State :=
  if !ropeMaster m then violation s 1 m (regAddr .ROPE_FW_CMD 0) true
  else
    let s := if Fld.ROPE_FW_CMD_ACTIVATE.presented a = 1 && fwState s = 2 then
        installImage s 3 s.rope.fw.whole (s.rope.fw.chunk true) else s
    if Fld.ROPE_FW_CMD_DISCARD.presented a = 1 then (setFw s {}).setFld Fld.ROPE_FW_STATUS_STATE 0 0 else s

/-! ## Commands -/

/-- What firmware does with what it has been told by the end of an HB_PERIOD: segments reported down or up (R443), requests to
modules that have failed or been expelled abandoned (R231), jobs of a late table stopped (R448), expulsions, a wish to be inserted,
an image to distribute. -/
def periodWork (s : State) (n : PeriodNews) : State :=
  let s := n.segments.foldl (fun s e => segmentReport s e.1 e.2) s
  let s := n.failed.foldl (fun s p => abandonTo s p.toNat) s
  let s := orderExpel (n.late.foldl (fun s j => stopJob s j.val 0x81) s) n.orders
  let s := if n.insert then askInsert s else s
  n.give.elim s (fwGive s)

/-- HEARTBEAT_PERIOD (R444): the heartbeat, and firmware's work, whose occasions are free values (log entry 123). -/
def execHeartbeatPeriod (s : State) : Host.Outcome State Fault Refusal :=
  .next (onModule s (fun s =>
    if s.fld Fld.ROPE_TIMER_HB_PERIOD 0 = 0 || !s.flag Fld.ROPE_STATUS_FORMED 0 then s
    else
      let (n, s) := (heartbeat s).draw Config.periodNews
      periodWork s n))

/-- MARGIN_PERIOD (R449). -/
def execMarginPeriod (g : Margin) (s : State) : Host.Outcome State Fault Refusal :=
  .next (onModule s (fun s => marginPeriod s g))

/-- FW_MANIFEST (R453). -/
def execFwManifest (x : XDie) (i : RxInfo) (h : RopeHdr) (payload : List Byte) (s : State) : Host.Outcome State Fault Refusal :=
  onRope s x 0x29 i h payload (fun s => rxChunk s x false i h payload)

/-- FW_CHUNK (R453). -/
def execFwChunk (x : XDie) (i : RxInfo) (h : RopeHdr) (payload : List Byte) (s : State) : Host.Outcome State Fault Refusal :=
  onRope s x 0x2A i h payload (fun s => rxChunk s x true i h payload)

/-- FW_NACK (R454). -/
def execFwNack (x : XDie) (i : RxInfo) (h : RopeHdr) (payload : List Byte) (s : State) : Host.Outcome State Fault Refusal :=
  onRope s x 0x2B i h payload (fun s => rxFwNack s h payload)

/-- FW_WAIT_EXPIRY (R454). -/
def execFwWaitExpiry (s : State) : Host.Outcome State Fault Refusal :=
  .next (onModule s (fun s => fwWait s))

/-- FW_ACTIVATE (R455). -/
def execFwActivate (m : Master) (a : CsrAcc) (s : State) : Host.Outcome State Fault Refusal :=
  .next (onModule s (fun s => if Fld.ROPE_FW_CMD_ACTIVATE.presented a = 1 then writeFwCmd s m.toNat a else s))

/-- FW_DISCARD (R455). -/
def execFwDiscard (m : Master) (a : CsrAcc) (s : State) : Host.Outcome State Fault Refusal :=
  .next (onModule s (fun s => if Fld.ROPE_FW_CMD_DISCARD.presented a = 1 then writeFwCmd s m.toNat a else s))

end Sys2Proof.Machine
end

