-- ==== Sys2Proof/Machine/Token.lean ====
section
/-!
DEFINITION. Token engines (R259 to R281): vocabularies, byte-pair merges and generation sessions.
-/
namespace Sys2Proof.Machine

/-! ## State -/

/-- A token engine's state. -/
def tokOf (s : State) (d : Nat) : TokSt := Cells.get (fun _ => {}) s.tok d

/-- The state with a token engine changed. -/
def setTok (s : State) (d : Nat) (t : TokSt) : State := { s with tok := Cells.put (fun _ => {}) s.tok d t }

/-- The vocabulary of a slot. -/
def slotOf (t : TokSt) (i : Nat) : Option Vocab := Cells.get (fun _ => none) t.slots i

/-- A session, if it is open. -/
def sessionOf (t : TokSt) (i : Nat) : Option Session := Cells.get (fun _ => none) t.sess i

/-- Does an open session name the slot (R263)? -/
def slotNamed (t : TokSt) (i : Nat) : Bool := t.sess.any (fun e => e.2.elim false (fun x => x.slot == i))

/-- A token engine loses its slots and sessions (R279). -/
def failToken (s : State) (d : Nat) : State := setTok s d {}

/-! ## Reading a table -/

/-- Read lines of DRAM whose bytes are known: their error records, and whether any is bad (R322 to R324). -/
def readLines (s : State) (ls : List Nat) : Bool × State :=
  let bad := anyChanFailed s && ls.any (lineOnFailed s)
  (ls.eraseDups.filter (fun l => !(errsOf s l).isEmpty)).foldl (fun (p : Bool × State) l =>
    let (b, t) := noteLineRead p.2 l; (p.1 || b, t)) (bad, s)

/-- The little-endian field of `n` bytes at an address. -/
def peekLe (s : State) (a n : Nat) : Nat := leNat (peek s a n)

/-- Address of a token's index entry (R260). -/
def indexAddr (v : Vocab) (t : Nat) : Nat := v.addr + v.index + 8 * t

/-- The string of a token (R260) and the lines that give it. -/
def tokenString (s : State) (v : Vocab) (t : Nat) : List Byte × List Nat :=
  let e := indexAddr v t
  let a := v.addr + v.strings + peekLe s e 4
  let n := peekLe s (e + 4) 1
  (peek s a n, linesOf e 8 ++ linesOf a n)

/-- The probe of R261 from hash entry `i`: rank and result of the pair, and the entries read. -/
def probeHash (s : State) (v : Vocab) (l r : Nat) : Nat → Nat → List Nat → Option (Nat × Nat) × List Nat
  | 0, _, seen => (none, seen)
  | n + 1, i, seen =>
    let e := v.addr + v.hash + 16 * i
    let seen := e / 64 :: seen
    if peekLe s (e + 12) 4 = 0xFFFFFFFF then (none, seen)
    else if peekLe s e 4 = l ∧ peekLe s (e + 4) 4 = r then (some (peekLe s (e + 12) 4, peekLe s (e + 8) 4), seen)
    else probeHash s v l r n ((i + 1) % 2 ^ v.lg) seen

/-- The rank and result of a pair (R261), and the lines read. -/
def pairRank (s : State) (v : Vocab) (l r : Nat) (seen : List Nat) : Option (Nat × Nat) × List Nat :=
  probeHash s v l r (2 ^ v.lg) ((l * 0x9E3779B1 + r * 0x85EBCA77) % 2 ^ 32 / 2 ^ (32 - v.lg)) seen

/-! ## LOAD (R259, R260, R262) -/

/-- The vocabulary that a header describes. -/
def vocabOf (a : Nat) (h : List Byte) : Vocab :=
  ⟨a, leAt h 8 4, leAt h 0x0C 4, leAt h 0x24 1, leAt h 0x10 8, leAt h 0x18 8, leAt h 0x28 8⟩

/-- The header tests of R262. -/
def headerOk (s : State) (a : Nat) (h : List Byte) : Bool :=
  let v := vocabOf a h
  leAt h 0 4 == 0x4B4F5456 && leAt h 4 2 == 1 && leAt h 0x3C 4 == crc32c (h.take 0x3C)
    && (256 ≤ v.tokens && v.tokens ≤ 262144) && v.merges ≤ v.tokens - 256
    && v.index % 64 == 0 && v.strings % 64 == 0 && v.hash % 64 == 0 && (1 ≤ v.lg && v.lg ≤ 20) && 2 * v.merges ≤ 2 ^ v.lg
    && zeroBytes h 6 2 && zeroBytes h 0x25 3 && zeroBytes h 0x30 12
    && inDram s (a + v.index) (8 * v.tokens) && inDram s (a + v.strings) (leAt h 0x20 4)
    && inDram s (a + v.hash) (16 * 2 ^ v.lg)

/-- The string tests of R262: each lies in the area and has 1 to 64 bytes; the first 256 are the byte tokens. -/
def stringsOk (s : State) (v : Vocab) (area : Nat) : Bool :=
  (List.range v.tokens).all (fun t =>
    let o := peekLe s (indexAddr v t) 4
    let n := peekLe s (indexAddr v t + 4) 1
    (1 ≤ n && n ≤ 64) && o + n ≤ area
      && (256 ≤ t || (n == 1 && peekLe s (v.addr + v.strings + o) 1 == t)))

/-- The lines that LOAD reads besides the header: the index and the strings of the byte tokens. -/
def loadLines (s : State) (v : Vocab) : List Nat :=
  linesOf (v.addr + v.index) (8 * v.tokens)
    ++ (List.range 256).map (fun t => (v.addr + v.strings + peekLe s (indexAddr v t) 4) / 64)

/-- LOAD (R262, R263): the status, the vocabulary if it is OK, and the state. A header that is not 64-byte aligned in
DRAM is no table. -/
def tokLoadRun (s : State) (t : TokSt) (slot a : Nat) (origin : Option Nat) : Nat × Option Vocab × State :=
  if (slotOf t slot).isSome then (0x85, none, s)
  else if ownSpan s origin (a, 64) ≠ 0 then (ownSpan s origin (a, 64), none, s)
  else if a % 64 ≠ 0 || !inDram s a 64 then (0x82, none, s)
  else
    let h := peek s a 64
    let (bad, s) := readLines s [a / 64]
    if bad then (0x80, none, s)
    else if !headerOk s a h then (0x82, none, s)
    else
      let v := vocabOf a h
      let (bad, s) := readLines s (loadLines s v)
      if bad then (0x80, none, s)
      else if !stringsOk s v (leAt h 0x20 4) then (0x82, none, s)
      else (0, some v, s)

/-! ## TOKENIZE (R264 to R266) -/

/-- The length of the well-formed UTF-8 sequence of RFC 3629 that a list begins with, or 0. -/
def utf8Len (bs : List Byte) : Nat :=
  let b (i : Nat) : Nat := leAt bs i 1
  let tail (i : Nat) : Bool := i < bs.length && 0x80 ≤ b i && b i ≤ 0xBF
  let second (lo hi : Nat) : Bool := 1 < bs.length && lo ≤ b 1 && b 1 ≤ hi
  if bs.isEmpty then 0
  else
    let x := b 0
    if x < 0x80 then 1
    else if 0xC2 ≤ x && x ≤ 0xDF && tail 1 then 2
    else if x == 0xE0 && second 0xA0 0xBF && tail 2 then 3
    else if x == 0xED && second 0x80 0x9F && tail 2 then 3
    else if 0xE1 ≤ x && x ≤ 0xEF && x != 0xED && tail 1 && tail 2 then 3
    else if x == 0xF0 && second 0x90 0xBF && tail 2 && tail 3 then 4
    else if x == 0xF4 && second 0x80 0x8F && tail 2 && tail 3 then 4
    else if 0xF1 ≤ x && x ≤ 0xF3 && tail 1 && tail 2 && tail 3 then 4
    else 0

/-- The segments of R264, in order: each a run of well-formed sequences (`true`) or one other byte; `run` is the run so
far. Fuel: the length of the input. -/
def segmentsFrom : Nat → List Byte → List Byte → List (Bool × List Byte)
  | 0, run, bs => if (run ++ bs).isEmpty then [] else [(true, run ++ bs)]
  | _, run, [] => if run.isEmpty then [] else [(true, run)]
  | n + 1, run, b :: r =>
    let k := utf8Len (b :: r)
    if k = 0 then (if run.isEmpty then [] else [(true, run)]) ++ (false, [b]) :: segmentsFrom n [] r
    else segmentsFrom n (run ++ (b :: r).take k) ((b :: r).drop k)

/-- The segments of an input. -/
def segments (bs : List Byte) : List (Bool × List Byte) := segmentsFrom bs.length [] bs

/-- The pair to merge in a pass (R265): place, rank, result of the leftmost pair of the lowest rank. -/
def bestPair (s : State) (v : Vocab) : List Nat → Nat → Option (Nat × Nat × Nat) → List Nat →
    Option (Nat × Nat × Nat) × List Nat
  | a :: b :: r, i, best, seen =>
    let (m, seen) := pairRank s v a b seen
    let best := match m, best with
      | some (rank, res), none => some (i, rank, res)
      | some (rank, res), some (j, rk, rs) => if rank < rk then some (i, rank, res) else some (j, rk, rs)
      | none, x => x
    bestPair s v (b :: r) (i + 1) best seen
  | _, _, best, seen => (best, seen)

/-- The passes of R265 over a run: tokens, merges applied, lines read. Fuel: the length of the run. -/
def mergeRun (s : State) (v : Vocab) : Nat → List Nat → Nat → List Nat → List Nat × Nat × List Nat
  | 0, t, n, seen => (t, n, seen)
  | f + 1, t, n, seen =>
    match bestPair s v t 0 none seen with
    | (none, seen) => (t, n, seen)
    | (some (i, _, res), seen) => mergeRun s v f (t.take i ++ res :: t.drop (i + 2)) (n + 1) seen

/-- What TOKENIZE makes of its input: tokens, merges applied, bytes in segments of the second kind, lines read. -/
def tokenize (s : State) (v : Vocab) (bs : List Byte) : List Nat × Nat × Nat × List Nat :=
  (segments bs).foldl (fun (acc : List Nat × Nat × Nat × List Nat) g =>
    let (ts, n, k, seen) := acc
    let t := g.2.map BitVec.toNat
    if g.1 then
      let (t, m, seen) := mergeRun s v t.length t 0 seen
      (ts ++ t, n + m, k, seen)
    else (ts ++ t, n, k + 1, seen)) ([], 0, 0, [])

/-- The record bytes of TOKENIZE (R280). -/
def tokenizeEng (tokens merges others chk : Nat) : List Byte :=
  leBytes 4 tokens ++ leBytes 4 merges ++ leBytes 4 others ++ leBytes 1 chk ++ leBytes 3 0

/-! ## Session blocks and forces (R267 to R269) -/

/-- Address of the ban bitmap, or 0. -/
def banAddr (b : List Byte) : Nat := leAt b 0 8
/-- Address of the force trie, or 0. -/
def trieAddr (b : List Byte) : Nat := leAt b 8 8
/-- Node count of the trie. -/
def trieNodes (b : List Byte) : Nat := leAt b 0x10 4
/-- Maximum tokens. -/
def maxTokens (b : List Byte) : Nat := leAt b 0x14 2
/-- Number of stop strings. -/
def stopCount (b : List Byte) : Nat := leAt b 0x17 1

/-- The spans that a session uses at each step, for a vocabulary of V tokens: bans, trie nodes, text, tokens. -/
def stepSpans (b : List Byte) (V : Nat) : List Span :=
  (if banAddr b = 0 then [] else [(banAddr b, roundUp (ceilDiv V 8) 64)])
    ++ (if trieAddr b = 0 then [] else [(trieAddr b, 8 * trieNodes b)])
    ++ [(leAt b 0x28 8, leAt b 0x30 4), (leAt b 0x38 8, 4 * maxTokens b)]

/-- The spans that a session block names: those of a step, and the stop strings that OPEN copies. -/
def blockSpans (b : List Byte) (V : Nat) : List Span :=
  stepSpans b V ++ (if stopCount b = 0 then [] else [(leAt b 0x40 8, 72 * stopCount b)])

/-- Check 5: the block meets R267, and the stop string table R268; reserved fields are ignored (R14). -/
def blockOk (s : State) (a : Nat) (b stops : List Byte) : Bool :=
  a % 64 == 0 && inDram s a 128 && banAddr b % 64 == 0
    && (trieAddr b == 0 || (trieAddr b % 8 == 0 && 1 ≤ trieNodes b && trieNodes b ≤ 2 ^ 24))
    && 1 ≤ maxTokens b && stopCount b ≤ 8 && (1 ≤ leAt b 0x30 4 && leAt b 0x30 4 ≤ 2 ^ 24) && leAt b 0x38 8 % 4 == 0
    && (stopCount b == 0 || leAt b 0x40 8 % 8 == 0)
    && (List.range (stopCount b)).all (fun i => 1 ≤ leAt stops (72 * i) 1 && leAt stops (72 * i) 1 ≤ 64)

/-- The stop strings of a table (R268). -/
def stopStrings (stops : List Byte) (n : Nat) : List (List Byte) :=
  (List.range n).map (fun i => sliceB stops (72 * i + 8) (leAt stops (72 * i) 1))

/-- What reaching a trie node means (R269). -/
inductive NodeRes where
  | active (children : List (Nat × Nat))
  | released
  | ends
  | invalid
  deriving DecidableEq, Repr

/-- Do tokens rise strictly? -/
def risingTokens : List (Nat × Nat) → Bool
  | a :: b :: r => a.1 < b.1 && risingTokens (b :: r)
  | _ => true

/-- Reaching a node of the trie of a session block (R269), the bytes read being bad or not, and the state. A node's child
entries must lie where the trie may lie. -/
def reachNode (s : State) (master : Nat) (origin : Option Nat) (b : List Byte) (node : Nat) : NodeRes × Bool × State :=
  if trieNodes b ≤ node then (.invalid, false, s)
  else
    let r := memRead s master 3 (trieAddr b + 8 * node) 8
    if r.bad then (.invalid, true, r.st)
    else
      let n := leAt r.data 0 2
      let fl := leAt r.data 2 2
      if n = 0 then ((if fl.testBit 1 then .ends else .released), false, r.st)
      else
        let a := trieAddr b + 8 * trieNodes b + 8 * leAt r.data 4 4
        if n > 4096 ∨ ownSpan r.st origin (a, 8 * n) ≠ 0 then (.invalid, false, r.st)
        else
          let q := memRead r.st master 3 a (8 * n)
          let cs := (List.range n).map (fun i => (leAt q.data (8 * i) 4, leAt q.data (8 * i + 4) 4))
          if q.bad then (.invalid, true, q.st)
          else if !risingTokens cs || cs.any (fun c => trieNodes b ≤ c.2) then (.invalid, false, q.st)
          else (.active cs, false, q.st)

/-- Is a token banned, by the bitmap's bytes (R268)? -/
def bannedIn (bitmap : List Byte) (t : Nat) : Bool := (leAt bitmap (t / 8) 1).testBit (t % 8)

/-- The ban bitmap of a block, whether it is bad, and the state. -/
def readBans (s : State) (master : Nat) (b : List Byte) (V : Nat) : ReadRes :=
  if banAddr b = 0 then ⟨[], false, s⟩ else memRead s master 3 (banAddr b) (roundUp (ceilDiv V 8) 64)

/-- The allowed list (R280): the allowed children of the node, in order, up to the capacity. -/
def allowedList (V cap : Nat) (bans : List Byte) (children : List (Nat × Nat)) : List Nat :=
  ((children.map Prod.fst).filter (fun t => t < V && !bannedIn bans t)).take cap

/-! ## Selection (R270, R271) -/

/-- The candidate with the highest score, the lower token ID among equals. -/
def pickHighest : List (Nat × Nat) → Option (Nat × Nat)
  | [] => none
  | c :: r =>
    match pickHighest r with
    | none => some c
    | some d =>
      let x := fp32.decode c.2
      let y := fp32.decode d.2
      if fvLt x y ∨ (fvEq x y ∧ d.1 < c.1) then some d else some c

/-- The weight of a score: max(score, +0.0). -/
def weightOf (score : Nat) : Nat := if fvLt (.fin false 0 0) (fp32.decode score) then score else 0

/-- The first member whose running sum passes the target (R271). -/
def pickRunning (target : Nat) : List (Nat × Nat) → Nat → Option (Nat × Nat)
  | [], _ => none
  | c :: r, run =>
    let run := f32Add run (weightOf c.2)
    if fvLt (fp32.decode target) (fp32.decode run) then some c else pickRunning target r run

/-- Is an FP32 code finite and not zero? -/
def finiteNonzero (c : Nat) : Bool := match fp32.decode c with | .fin _ m _ => m != 0 | _ => false

/-- The selection of R271 among the allowed candidates. -/
def selectToken (sample : Bool) (r : Nat) (A : List (Nat × Nat)) : Option (Nat × Nat) :=
  let S := A.foldl (fun a c => f32Add a (weightOf c.2)) 0
  if !sample || !finiteNonzero S then pickHighest A
  else
    let target := fp32.encode (fvMul (fp32.decode S) (.fin false (r / 256) (-24)))
    match pickRunning target A 0 with
    | some c => some c
    | none => (A.filter (fun c => weightOf c.2 ≠ 0)).getLast?

/-- The allowed candidates (R270); `children` is the session's node while the force is active. -/
def allowedCands (V : Nat) (bans : List Byte) (children : Option (List (Nat × Nat))) (cs : List (Nat × Nat)) :
    List (Nat × Nat) :=
  cs.filter (fun c => c.1 < V && !fvIsNan (fp32.decode c.2) && !bannedIn bans c.1
    && children.elim true (fun l => l.any (fun k => k.1 == c.1)))

/-! ## Held-back text (R273) -/

/-- The smallest offset of `u` at which a stop string starts. -/
def stopAt (stops : List (List Byte)) (u : List Byte) : Option Nat :=
  (List.range u.length).find? (fun j => stops.any (fun p => p.isPrefixOf (u.drop j)))

/-- The length of the longest suffix of `u` that is a proper prefix of a stop string. -/
def heldLen (stops : List (List Byte)) (u : List Byte) : Nat :=
  ((List.range (min 64 (u.length + 1))).reverse.find? (fun k =>
    stops.any (fun p => k < p.length && p.take k == u.drop (u.length - k)))).getD 0

/-- The bytes released, the new hold buffer, and whether a stop string matched, for a string added to H (R273). -/
def holdText (stops : List (List Byte)) (H x : List Byte) : List Byte × List Byte × Bool :=
  let u := H ++ x
  match stopAt stops u with
  | some j => (u.take j, [], true)
  | none => let k := heldLen stops u; (u.take (u.length - k), u.drop (u.length - k), false)

/-! ## One step (R270 to R274) -/

/-- What a step comes to: end reason, selected token, bytes released, tokens newly stored, the session after it, children
of the new node while the force is active, whether an input was bad, and the state. -/
structure StepRes where
  reason : Nat
  token : Nat := 0xFFFFFFFF
  text : List Byte := []
  stored : Nat := 0
  sess : Session
  children : List (Nat × Nat) := []
  bad : Bool := false
  st : State

/-- Room left in the text buffer. -/
def textRoom (x : Session) : Nat := leAt x.block 0x30 4 - x.released

/-- End reason OUTPUT_FULL replaces a step that releases more than the room (R274): nothing is written or stored and H
is discarded. -/
def fitText (before : Session) (kids : List (Nat × Nat)) (r : StepRes) : StepRes :=
  if r.text.length ≤ textRoom before then r
  else { r with reason := 6, text := [], stored := 0, children := kids, sess := { before with hold := [], ended := some 6 } }

/-- A step whose session ends for a reason other than STOP releases H (R273). -/
def endSession (r : StepRes) (reason : Nat) : StepRes :=
  { r with reason := reason, text := r.text ++ r.sess.hold, sess := { r.sess with hold := [], ended := some reason } }

/-- The end that follows a stored token (R272): a node that breaks its rules, STOP, FORCED_END, LENGTH, in that order. -/
def stepEnd (r : StepRes) (node : Option NodeRes) (stopped : Bool) : StepRes :=
  if node = some .invalid then endSession r 7
  else if stopped then { r with reason := 2, sess := { r.sess with ended := some 2 } }
  else if node = some .ends then endSession r 4
  else if r.sess.tokens = maxTokens r.sess.block then endSession r 3
  else r

/-- A selected token that is no end token: stored, detokenised, the force advanced (R272, R273). -/
def storeToken (s : State) (master : Nat) (origin : Option Nat) (v : Vocab) (x : Session) (kids : Option (List (Nat × Nat)))
    (t : Nat) : StepRes :=
  let (str, ls) := tokenString s v t
  let (bad, s) := readLines s ls
  let (out, hold, stopped) := holdText x.stops x.hold str
  let child := kids.bind (fun l => (l.find? (fun k => k.1 == t)).map Prod.snd)
  let (node, nbad, s) : Option NodeRes × Bool × State := match child with
    | some c => let (n, b, s) := reachNode s master origin x.block c; (some n, b, s)
    | none => (none, false, s)
  let (next, cs) : Option Nat × List (Nat × Nat) := match node with
    | some (.active cs) => (child, cs)
    | _ => (none, [])
  let y := { x with hold := hold, node := next, tokens := x.tokens + 1 }
  stepEnd { reason := 0, token := t, text := out, stored := 1, sess := y, children := cs, bad := bad || nbad, st := s } node
    stopped

/-- One step of a session over its candidates (R270 to R274). -/
def stepSession (s : State) (master : Nat) (origin : Option Nat) (v : Vocab) (x : Session) (cs : List (Nat × Nat))
    (r : Nat) : StepRes :=
  let bans := readBans s master x.block v.tokens
  let (kids, nbad, s) : Option (List (Nat × Nat)) × Bool × State := match x.node with
    | none => (none, false, bans.st)
    | some n =>
      match reachNode bans.st master origin x.block n with
      | (.active cs, b, s) => (some cs, b, s)
      | (_, b, s) => (some [], b, s)
  let A := allowedCands v.tokens bans.data kids cs
  let here := kids.getD []
  let q : StepRes := match selectToken ((leAt x.block 0x16 1).testBit 0) r A with
    | none => endSession { reason := 5, sess := x, children := here, st := s } 5
    | some c =>
      if (List.range 4).any (fun i => leAt x.block (0x18 + 4 * i) 4 == c.1 && c.1 != 0xFFFFFFFF) then
        endSession { reason := 1, token := c.1, sess := x, children := here, st := s } 1
      else storeToken s master origin v x kids c.1
  let q := fitText x here q
  { q with bad := q.bad || bans.bad || nbad,
           sess := { q.sess with released := x.released + q.text.length } }

/-! ## Jobs (R275, R276) -/

/-- Check 1 of a token descriptor. -/
def tokFieldsOk (j : Job) : Bool :=
  let d := j.desc
  let uses (l : List Nat) : Bool := l.contains j.op
  let n := leAt d 0x0C 4
  let cap := leAt d 0x20 4
  (1 ≤ j.op && j.op ≤ 6) && j.flags == 0 && leAt d 5 1 % 4 == 0 && j.jobId < 64 && zeroBytes d 9 1 && zeroBytes d 0x28 24
    && (!uses [1, 2, 3, 4] || leAt d 8 1 < 8) && (!uses [4, 5, 6] || leAt d 0x0A 2 < 256)
    && (j.op != 3 || (1 ≤ n && n ≤ 65536 && 1 ≤ cap && cap ≤ 65536)) && (j.op != 5 || (1 ≤ n && n ≤ 4096))
    && (!uses [4, 5] || cap ≤ 4096)

/-- The slot of a job. -/
def tokSlot (j : Job) : Nat := leAt j.desc 8 1
/-- Does a job name a session (R277)? -/
def namesSession (j : Job) : Bool := 4 ≤ j.op && j.op ≤ 6

/-- The record bytes of a job that fails a check. -/
def tokFailEng (s : State) (d : Nat) (j : Job) (chk : Nat) : List Byte :=
  match j.op with
  | 3 => tokenizeEng 0 0 0 chk
  | 4 | 5 => putAt (stepIdle s d j) 5 (leBytes 1 chk)
  | _ => List.replicate 16 0

/-- Note what a running job will do at its end. -/
def withEffect (s : State) (d : Nat) (e : TokEffect) : State :=
  let t := tokOf s d
  setTok s d { t with effects := t.effects ++ [e] }

/-- TOKENIZE runs. -/
def tokenizeRun (d : Nat) (s : State) (j : Job) : Started :=
  match slotOf (tokOf s d) (tokSlot j) with
  | none => failWith s 0x82 (tokenizeEng 0 0 0 2)
  | some v =>
    let a := leAt j.desc 0x10 8
    let n := leAt j.desc 0x0C 4
    let out := leAt j.desc 0x18 8
    let cap := leAt j.desc 0x20 4
    let sp := ownSpans s j.origin [(a, n), (out, 4 * cap)]
    if sp ≠ 0 then failWith s sp (tokenizeEng 0 0 0 4)
    else
      let r := memRead s (unitMaster (.token d)) 3 a n
      if r.bad then failWith r.st 0x80 (tokenizeEng 0 0 0 0)
      else
        let (ts, m, k, ls) := tokenize r.st v r.data
        let (bad, s) := readLines r.st ls
        let bytes (l : List Nat) : List Byte := l.flatMap (leBytes 4)
        if bad then failWith s 0x80 (tokenizeEng 0 0 0 0)
        else if ts.length > cap then
          { status := 0x04, eng := tokenizeEng 0 m k 0, writes := [(out, bytes (ts.take cap))], cut := true, st := s }
        else { status := 0, xfer := 4 * ts.length, eng := tokenizeEng ts.length m k 0, writes := [(out, bytes ts)], st := s }

/-- An OPEN or a STEP that a parity error ends: its session ends too, with no reason of R280 (R279), and releases H (R273) where
the text buffer has room for it (R274; log entry 111). -/
def parityEnd (s : State) (d : Nat) (j : Job) (x : Session) : Started :=
  let out := if x.hold.length ≤ textRoom x then x.hold else []
  let y := { x with ended := some 0, hold := [], released := x.released + out.length }
  { status := 0x80, eng := stepEng 0xFFFFFFFF 0 0 out.length x.tokens 0 0,
    writes := if out.isEmpty then [] else [(leAt x.block 0x28 8 + x.released, out)],
    st := withEffect s d { seq := j.seq, status := 0x80, sess := some (tokSession j, some y) } }

/-- OPEN runs (R267 to R269). -/
def openRun (d : Nat) (s : State) (j : Job) : Started :=
  let m := unitMaster (.token d)
  let fail (s : State) (st chk : Nat) : Started := failWith s st (tokFailEng s d j chk)
  let t := tokOf s d
  match slotOf t (tokSlot j) with
  | none => fail s 0x82 2
  | some v =>
    let a := leAt j.desc 0x10 8
    let cap := leAt j.desc 0x20 4
    let sp := ownSpans s j.origin [(a, 128), (leAt j.desc 0x18 8, 4 * cap)]
    if (sessionOf t (tokSession j)).isSome then fail s 0x83 3
    else if sp ≠ 0 then fail s sp 4
    else
      let r := memRead s m 3 a 128
      let x : Session := { slot := tokSlot j, block := r.data }
      let sp := ownSpans r.st j.origin (blockSpans r.data v.tokens)
      if r.bad then parityEnd r.st d j x
      else if sp ≠ 0 then fail r.st sp 4
      else
        let n := stopCount r.data
        let q : ReadRes := if n = 0 then ⟨[], false, r.st⟩ else memRead r.st m 3 (leAt r.data 0x40 8) (72 * n)
        if q.bad then parityEnd q.st d j x
        else if !blockOk q.st a r.data q.data then fail q.st 0x81 5
        else
          let x := { x with stops := stopStrings q.data n }
          let bans := readBans q.st m r.data v.tokens
          let (node, nbad, s) : NodeRes × Bool × State :=
            if trieAddr r.data = 0 then (.released, false, bans.st) else reachNode bans.st m j.origin r.data 0
          let (reason, status) := match node with | .ends => (4, 0) | .invalid => (7, 0x84) | _ => (0, 0)
          let kids := match node with | .active cs => allowedList v.tokens cap bans.data cs | _ => []
          let x := { x with node := (match node with | .active _ => some 0 | _ => none),
                            ended := if reason = 0 then none else some reason }
          if bans.bad || nbad then parityEnd s d j x
          else
            { status := status, eng := stepEng 0xFFFFFFFF reason 0 0 0 kids.length 0,
              writes := if kids.isEmpty then [] else [(leAt j.desc 0x18 8, kids.flatMap (leBytes 4))],
              st := withEffect s d { seq := j.seq, status := status, sess := some (tokSession j, some x) } }

/-- The status of a step by its end reason (R280). -/
def reasonStatus (r : Nat) : Nat := match r with | 5 => 0x0E | 6 => 0x04 | 7 => 0x84 | _ => 0

/-- STEP runs. -/
def stepRun (d : Nat) (s : State) (j : Job) : Started :=
  let m := unitMaster (.token d)
  let t := tokOf s d
  let fail (s : State) (st chk : Nat) : Started := failWith s st (tokFailEng s d j chk)
  match sessionOf t (tokSession j) with
  | none => fail s 0x83 3
  | some x =>
    match slotOf t x.slot with
    | none => fail s 0x82 2
    | some v =>
      let a := leAt j.desc 0x10 8
      let n := leAt j.desc 0x0C 4
      let out := leAt j.desc 0x18 8
      let cap := leAt j.desc 0x20 4
      let sp := ownSpans s j.origin ([(a, 8 * n), (out, 4 * cap)] ++ stepSpans x.block v.tokens)
      if x.ended.isSome then fail s 0x83 3
      else if sp ≠ 0 then fail s sp 4
      else
        let r := memRead s m 3 a (8 * n)
        let cs := (List.range n).map (fun i => (leAt r.data (8 * i) 4, leAt r.data (8 * i + 4) 4))
        let q := stepSession r.st m j.origin v x cs (leAt j.desc 0x24 4)
        if r.bad || q.bad then parityEnd q.st d j x
        else
          let kids := allowedList v.tokens cap (readBans q.st m x.block v.tokens).data q.children
          let status := reasonStatus q.reason
          { status := status, xfer := q.text.length, aux := [q.stored, q.reason],
            eng := stepEng q.token q.reason 0 q.text.length q.sess.tokens kids.length q.sess.hold.length,
            writes := (if q.stored = 0 then [] else [(leAt x.block 0x38 8 + 4 * x.tokens, leBytes 4 q.token)])
              ++ (if q.text.isEmpty then [] else [(leAt x.block 0x28 8 + x.released, q.text)])
              ++ (if kids.isEmpty then [] else [(out, kids.flatMap (leBytes 4))]),
            st := withEffect q.st d { seq := j.seq, status := status, sess := some (tokSession j, some q.sess) } }

/-- A token job runs (R276). -/
def tokRun (d : Nat) (s : State) (j : Job) : Started :=
  let t := tokOf s d
  if !tokFieldsOk j then failWith s 0x81 (tokFailEng s d j 1)
  else
    match j.op with
    | 1 =>
      let (st, v, s) := tokLoadRun s t (tokSlot j) (leAt j.desc 0x10 8) j.origin
      if st ≠ 0 then failWith s st
      else { status := 0, st := withEffect s d { seq := j.seq, status := 0, slot := some (tokSlot j, v) } }
    | 2 =>
      if (slotOf t (tokSlot j)).isNone then failWith s 0x82
      else if slotNamed t (tokSlot j) then failWith s 0x85
      else { status := 0, st := withEffect s d { seq := j.seq, status := 0, slot := some (tokSlot j, none) } }
    | 3 => tokenizeRun d s j
    | 4 => openRun d s j
    | 5 => stepRun d s j
    | _ =>
      if (sessionOf t (tokSession j)).isNone then failWith s 0x83
      else { status := 0, st := withEffect s d { seq := j.seq, status := 0, sess := some (tokSession j, none) } }

/-- A parity error that an injection causes in a job that passed its checks (R279, R516): a STEP or OPEN ends its session, and
nothing else of the job takes effect. -/
def tokParity (d : Nat) (j : Job) (r : Started) : Started :=
  if r.status ≠ 0 then r
  else
    match injFire r.st 11 (unitMaster (.token d)) with
    | none => r
    | some (_, s) =>
      let s := detect s 11
      let t := tokOf s d
      let opened := t.effects.findSome? (fun e => if e.seq = j.seq then e.sess.bind Prod.snd else none)
      let s := setTok s d { t with effects := t.effects.filter (fun e => e.seq ≠ j.seq) }
      match sessionOf t (tokSession j) <|> opened with
      | some x => if j.op = 4 ∨ j.op = 5 then parityEnd s d j x else failWith s 0x80 (tokFailEng s d j 0)
      | none => failWith s 0x80 (tokFailEng s d j 0)

/-- The next job that may start (R277): the first in order whose session no running job names. -/
def tokNext (s : State) (d : Nat) : Option Job :=
  let js := jobsOf s (.token d)
  let busy := (js.filter (fun j => j.phase = .running ∧ namesSession j)).map tokSession
  js.find? (fun j => j.phase = .waiting ∧ !(namesSession j && busy.contains (tokSession j)))

/-- Spans of a job's start that may be in the snoop filter or a host line: its descriptor's inputs and, for a session,
what its block names. -/
def tokReads (d : Nat) (s : State) (j : Job) : List Span :=
  let t := tokOf s d
  let a := leAt j.desc 0x10 8
  let n := leAt j.desc 0x0C 4
  let block (b : List Byte) : List Span :=
    let v := (slotOf t (tokSlot j)).elim 0 (·.tokens)
    (blockSpans b v).filter (fun p => ownSpan s j.origin p = 0)
  let table (v : Vocab) : List Span :=
    [(v.addr + v.index, 8 * v.tokens), (v.addr + v.hash, 16 * 2 ^ v.lg), (v.addr + v.strings, 64)]
  if !tokFieldsOk j then []
  else
    match j.op with
    | 1 => if inDram s a 64 then (a, 64) :: table (vocabOf a (peek s a 64)) else []
    | 3 => (a, n) :: ((slotOf t (tokSlot j)).toList.flatMap table)
    | 4 => if ownSpan s j.origin (a, 128) = 0 then (a, 128) :: block (peek s a 128) else []
    | 5 => (a, 8 * n) :: ((sessionOf t (tokSession j)).toList.flatMap (fun x =>
        block x.block ++ (slotOf t x.slot).toList.flatMap table))
    | _ => []

/-- Start the next token job (R277): at most 4 run. -/
def tokStart (s : State) (d op : Nat) : State :=
  let u : EngUnit := .token d
  match tokNext s d with
  | none => s
  | some j =>
    if !takesOp [1, 2, 3, 4, 5, 6] op j || 4 ≤ phaseCount (jobsOf s u) .running then s
    else
      match prepare s (unitMaster u) (tokReads d s j) [] with
      | .stall s => s
      | .go => dropHost (startJob u j (tokParity d j (tokRun d s j))) (unitMaster u)

/-- What a job that ends does to slots, sessions and counts (R278). -/
def tokEffects (s : State) (d : Nat) (j : Job) : State :=
  let t := tokOf s d
  let es := t.effects.filter (fun e => e.seq == j.seq && e.status == j.status)
  let t := { t with effects := t.effects.filter (fun e => e.seq ≠ j.seq) }
  let t := es.foldl (fun (t : TokSt) e =>
    let t := match e.slot with
      | some (i, v) => { t with slots := Cells.put (fun _ => none) t.slots i v }
      | none => t
    match e.sess with
    | some (i, x) => { t with sess := Cells.put (fun _ => none) t.sess i x }
    | none => t) t
  let s := setTok s d t
  if es.isEmpty then s
  else
    let s := s.satAdd Fld.TOK_COUNT_STORED d (j.aux.getD 0 0)
    if j.aux.getD 1 0 = 5 then s.satAdd Fld.TOK_COUNT_EXHAUSTED d 1 else s

/-- A job whose output merged into a bad word, its other writes made: a STEP or an OPEN ends its session as well, which releases H
(R279, R91, R273). The job as it now ends, and the state. -/
def tokMergeEnd (s : State) (d : Nat) (j : Job) : Job × State :=
  let t := tokOf s d
  let x := sessionOf t (tokSession j) <|> t.effects.findSome? (fun e => if e.seq = j.seq then e.sess.bind Prod.snd else none)
  let s := setTok s d { t with effects := t.effects.filter (fun e => e.seq ≠ j.seq) }
  match (if j.op = 4 ∨ j.op = 5 then x else none) with
  | some x =>
    let r := parityEnd s d j x
    ({ j.begin r with phase := .ended }, refuseJob (.token d) j r)
  | none => ({ j with writes := [] }, updateJob s (.token d) j.seq (fun _ => { j with writes := [], phase := .ended }))

/-- A job with nothing more to write: its record, its increment, its effects. -/
def tokClose (s : State) (d : Nat) (j : Job) : State :=
  (tokEffects (endRecord s (.token d) j) d j).modAdd Fld.TOK_STATUS_DONE d 1

/-- A token job ends (R277, R278). One that a bad merge ends makes its last writes first, for which the host may have to be asked
again (R148). -/
def tokEnd (s : State) (d i : Nat) : State :=
  let u : EngUnit := .token d
  match (endable s u)[i]? with
  | none => s
  | some j =>
    match endReady s u j with
    | .stall s => s
    | .go =>
      let f := finishWrites s u j
      if f.job.status = j.status then tokClose f.st d f.job
      else
        let (k, s) := tokMergeEnd f.st d f.job
        match endReady s u k with
        | .stall s => s
        | .go => tokClose (finishWrites s u k).st d k

/-- TOKEN_LOAD (R262). -/
def execTokLoad (d : PDie) (s : State) : Host.Outcome State Fault Refusal := .next (tokStart s d 1)

/-- UNLOAD (R263). -/
def execTokUnload (d : PDie) (s : State) : Host.Outcome State Fault Refusal := .next (tokStart s d 2)

/-- TOKENIZE (R264 to R266). -/
def execTokTokenize (d : PDie) (s : State) : Host.Outcome State Fault Refusal := .next (tokStart s d 3)

/-- OPEN (R267 to R269). -/
def execTokOpen (d : PDie) (s : State) : Host.Outcome State Fault Refusal := .next (tokStart s d 4)

/-- TOKEN_STEP (R270 to R274). -/
def execTokenStep (d : PDie) (s : State) : Host.Outcome State Fault Refusal := .next (tokStart s d 5)

/-- TOKEN_CLOSE (R276). -/
def execTokenClose (d : PDie) (s : State) : Host.Outcome State Fault Refusal := .next (tokStart s d 6)

/-- TOKEN_JOB_END (R277). -/
def execTokenJobEnd (d : PDie) (i : Nat) (s : State) : Host.Outcome State Fault Refusal := .next (tokEnd s d i)

/-- TOK_ABORT (R278). -/
def execTokAbort (d : PDie) (a : CsrAcc) (s : State) : Host.Outcome State Fault Refusal :=
  .next (onPdie s (fun s =>
    writeAbort s (.token d) Fld.TOK_ABORT_TAG Fld.TOK_ABORT_JOB Fld.TOK_ABORT_RES_STATUS Fld.TOK_ABORT_RES_COUNT d a))

end Sys2Proof.Machine
end

