-- ==== Sys2Proof/Machine/Floor.lean ====
section
/-!
DEFINITION. The floor plan (R468 to R470): marking units failed and what follows.
-/
namespace Sys2Proof.Machine

/-- The bits of a floor plan word that exist (R468). -/
def floorBits (w : Nat) : Nat :=
  if w = 10 then 0xFFFFFFFF
  else if w = 11 then 0xFFFFFF + 0xFFFFFFFF * 2 ^ 32
  else if w = 14 then 0x3F + 0x3F * 2 ^ 8 + 0xFF * 2 ^ 16 + 0xF * 2 ^ 32
  else 2 ^ 64 - 1

/-- The masters that may write bring-up, reset and floor plan registers (R459). -/
def bringupMaster (m : Nat) : Bool := m == 1 || m == 2 || isCoreMaster m || m == 0x1F

/-- A management core marked failed is held in reset (R470). -/
def failCore (s : State) (k : Nat) : State := setMc s k { mcAt s k with inReset := true }

/-- A port's interfaces after lanes have failed (R354, R462): no enable bit of an interface with a failed lane stays. -/
def failLanes (s : State) (x p : Nat) : State :=
  let c := portCopy x p
  let en := s.fld Fld.PORT_CFG_ENABLE c
  let keep := allowedEnable s x p en
  let s := s.setFld Fld.PORT_CFG_ENABLE c keep
  ((List.range 8).filter (fun i => en.testBit i && !keep.testBit i)).foldl (fun s i => portLinkDown s x p i) s

/-- The units of a stook. -/
def failStook (s : State) (k : Nat) : State :=
  let s := (List.range 8).foldl (fun s t => failTile s (8 * k + t)) s
  failUnit (failUnit s (.dma k)) (.thresher k)

/-- A channel of the interleave set fails after Ready: its source (R318). -/
def failChannel (s : State) (g : Nat) : State :=
  if s.everReady && (s.fld Fld.MEM_IL_CH_MASK 0).testBit g then raiseSource s (128 + 64 * (g / 6) + g % 6) else s

/-- The units of a P-die. -/
def failPdie (s : State) (d : Nat) : State :=
  let s := (List.range 16).foldl (fun s k => failStook s (16 * d + k)) s
  let s := [EngUnit.baler d, .perm d, .token d, .pool d].foldl failUnit s
  let s := (List.range 4).foldl (fun s e => failUnit s (.stream (4 * d + e))) (failToken s d)
  (List.range 6).foldl (fun s c => failChannel s (6 * d + c)) s

/-- What a newly set bit brings about (R470). -/
def floorEffect (s : State) (w n : Nat) : State :=
  if w < 8 then failTile s (64 * w + n)
  else if w = 8 then failUnit s (.thresher n)
  else if w = 9 then failUnit s (.dma n)
  else if w = 10 then
    if n < 16 then
      match n % 4 with
      | 0 => failUnit s (.baler (n / 4))
      | 1 => failUnit s (.perm (n / 4))
      | 2 => failUnit (failToken s (n / 4)) (.token (n / 4))
      | _ => failUnit s (.pool (n / 4))
    else failUnit s (.stream (n - 16))
  else if w = 11 then
    if n < 24 then failChannel s n else failNandChannel s (n - 32)
  else if w = 12 ∨ w = 13 then failLanes s (w - 12) (n / 8)
  else if w = 14 then
    if n < 16 then
      match n % 8 with
      | 0 => failFlash s (n / 8)
      | 1 => furFail s (n / 8)
      | 2 => roceFail s (n / 8)
      | 3 => hostLinkDown s (n / 8)
      | k => failCore s (2 * (n / 8) + (k - 4))
    else if 32 ≤ n then failPdie s (n - 32)
    else s
  else if w = 47 then failStook s n
  else failNandDie s (w - 15) n

/-- Do the buffers or the lists of a pool lie on a failed channel (R318) or in a failed stook (R335)? -/
def poolLost (s : State) (p : Nat) : Bool :=
  s.flag Fld.POOL_CFG_ENABLE p && (poolInFailed s p ||
    ([(poolBase s p, poolCount s p * poolSize s p), (poolMeta s p, poolBitmap s p + ceilDiv (poolCount s p) 8 - poolMeta s p)].any
      (fun q => (List.range (q.2 / 4096 + 2)).any (fun i =>
        let a := alignDown q.1 4096 + i * 4096
        regionOf s a = .dram && a < q.1 + q.2 && chanFailed s (dramMap s a).1))))

/-- The engines on which the stage graph of chapter 01 places stages; the flash controllers and RoCE engines are the others. -/
def stageUnits : List EngUnit :=
  (List.range 64).map .thresher ++ (List.range 4).map .baler ++ (List.range 4).map .perm ++ (List.range 4).map .token
    ++ (List.range 16).map .stream

/-- Is a unit or pool that a job has used (`State.jobUse`) lost? -/
def useLost (s : State) (key : Nat) : Bool :=
  if 1024 ≤ key then poolLost s (key - 1024)
  else if key = flashUse 0 ∨ key = flashUse 1 then xUnitFailed s (key - flashUse 0) 0
  else if key = roceUse 0 ∨ key = roceUse 1 then xUnitFailed s (key - roceUse 0) 2
  else (stageUnits.find? (fun u => unitKey u == key)).elim false (unitFailed s)

/-- Must firmware stop a job: a context of it on a failed tile, a pool of it on a failed channel or stook, or a stage of it on
a failed unit (R318, R470)? -/
def jobLost (s : State) (j : LoadedJob) : Bool :=
  j.placed.any (fun p => tileFailed s (p.ctx / 4)) || (s.jobUse.filter (fun e => e.1 == j.id)).any (fun e => useLost s e.2)

/-- The channel on which firmware reports to a host: the lowest empty one that a core may send on and a host receives. -/
def reportChannel (s : State) : Option Nat :=
  (List.range 64).find? (fun n => mboxOn s n && isCoreMaster (s.fld Fld.MBOX_BIND_SENDER n)
    && (s.fld Fld.MBOX_BIND_RECEIVER n == 1 || s.fld Fld.MBOX_BIND_RECEIVER n == 2) && !s.flag Fld.MBOX_CH_STAT_FULL n)

/-- Firmware reports to the host by mailbox that it has stopped a job (R470). Where the report lies and how long it is are free
values (log entry 124). -/
def reportStopped (s : State) : State :=
  match reportChannel s with
  | none => s
  | some n =>
    let (a, s) := s.fresh 52
    let (l, s) := s.fresh 32
    mboxFill s n a.toNat l.toNat

/-- Firmware stops those jobs and reports each (R470). -/
def stopFailedJobs (s : State) : State :=
  (s.jobs.filter (jobLost s)).foldl (fun s j => reportStopped (stopJob s j.id 0x10)) s

/-- Set bits of one floor plan word. -/
def orFloor (s : State) (w v : Nat) : State := s.wr .FLOOR w (BitVec.ofNat 64 ((s.rd .FLOOR w).toNat ||| v))

/-- The bits of a stook's tiles, thresher and DMA engine, which its SRAM's mark brings with it (R97). -/
def markStook (s : State) (k : Nat) : State :=
  orFloor (orFloor (orFloor s (k / 8) (0xFF * 2 ^ (k % 8 * 8))) 8 (2 ^ k)) 9 (2 ^ k)

/-- Set bits of one word: those that change, and those that a stook's mark brings with it, advance FP_GEN once and raise
source 1 (R97, R469). -/
def setFloor (s : State) (w v : Nat) : State :=
  let old := (s.rd .FLOOR w).toNat
  let new := (v &&& floorBits w) &&& (old ^^^ (2 ^ 64 - 1))
  if new = 0 then s
  else
    let s := orFloor s w new
    let s := (if w = 47 then (maskBits new).foldl markStook s else s).modAdd Fld.FP_GEN_GEN 0 1
    let s := detect (raiseSource s 1) 12
    stopFailedJobs ((maskBits new).foldl (fun s n => floorEffect s w n) s)

/-- The P-dies whose die-to-die links are both among these bits of word 14. -/
def cutOff (u : Nat) : Nat :=
  ((List.range 4).filter (fun d => u.testBit (16 + 2 * d) && u.testBit (17 + 2 * d))).foldl (fun v d => v + 2 ^ (32 + d)) 0

/-- Mark units failed; a P-die whose die-to-die links both fail fails with them, in the same cycle (R463, R469). -/
def markFloor (s : State) (w v : Nat) : State :=
  setFloor s w (if w = 14 then v ||| cutOff ((s.rd .FLOOR 14).toNat ||| (v &&& floorBits 14)) else v)

/-- A write of a floor plan word (R459, R469). -/
def writeFloor (s : State) (m w : Nat) (a : CsrAcc) : State :=
  if !bringupMaster m then violation s 1 m (regAddr .FLOOR w) true else markFloor s w (accValue a).toNat

/-- FLOOR_WRITE (R469). -/
def execFloorWrite (m : Master) (w : Fin 48) (a : CsrAcc) (s : State) : Host.Outcome State Fault Refusal :=
  .next (onModule s (fun s => writeFloor s m.toNat w a))

end Sys2Proof.Machine
end

