-- ==== Sys2Proof/Machine/Reset.lean ====
section
/-!
DEFINITION. Resets (R471 to R475), the contacts of R519 to R524 and R530, and PLLs that lose lock (R514).
-/
namespace Sys2Proof.Machine

/-- Does a CSR key belong to a P-die register? -/
def pdieKey (k : Nat) : Bool :=
  match Reg.all[k / 65536]? with
  | some r => let o := r.off (k % 65536); 0x1000000 ≤ o && o < 0x5000000
  | none => false

/-- Does a CSR key belong to an X-die register outside the management island's blocks? -/
def xdieKey (k : Nat) : Bool :=
  match Reg.all[k / 65536]? with
  | some r => 0x8000000 ≤ r.off (k % 65536)
  | none => false

/-- The P-dies after a partial reset (R474): CSRs and counters at reset, SRAM zero with correct parity, no engine job, no
context, every job unloaded. -/
def pdieReset (s : State) : State :=
  let t : State := { s with
    csr := Cells.drop pdieKey s.csr,
    mem := Cells.drop (fun a => stookBase ≤ a) s.mem,
    badPar := [], markCnt := [], ctx := [], sliceOut := [], acc := [], wbuf := [], bar := [],
    bp := Cells.drop (fun k => k < 2048) s.bp,
    eng := Cells.drop (fun k => k < 160) s.eng,
    homeQ := s.homeQ.filter (fun e => e.2 < 0x100 || (0x380 ≤ e.2 && e.2 < 0x3A0)),
    poolHead := [], images := [], jobs := [], repl := [], slots := [], outbox := [], baleBytes := [], gated := 0,
    tok := [], fetchOld := [], parked := [], jobUse := [],
    heldPuts := s.heldPuts.filter (fun h => match h with
      | .put m _ _ => m < 0x100 || (0x380 ≤ m && m < 0x3A0)
      | .event _ _ => true
      | .packet _ | .submit .. | .furrow .. => true) }
  (List.range 64).foldl (fun t k => relevel t (512 + k)) t

/-- DRAM loses its contents (R465, R471). -/
def loseDram (s : State) : State :=
  { s with mem := Cells.drop (fun a => a < dramEnd) s.mem, memGen := s.memGen + 1, lineErr := [], wbPend := [] }

/-- A module held in full reset (R471): every register and memory at its reset value, but the anchor's boot store, fuses, pins and
the TAP, which has its own reset. -/
def coldState (s : State) : State :=
  { State.reset with
    pending := s.pending, free := s.free, jobSeq := s.jobSeq, memGen := s.memGen + 1, fuses := s.fuses, tap := s.tap,
    hot := s.hot, pins := { s.pins with inReset := true, offReqN := true },
    anchor := { store := s.anchor.store, active := s.anchor.active, recoverNext := s.anchor.recoverNext } }

/-- A full reset is asserted (R471): only NAND contents and fuses are kept. The bypass goes to THROUGH (R438). -/
def fullReset (s : State) : State := flashMedia s (coldState s)

/-- The same with power lost, which damages flash pages (R309). -/
def powerCut (s : State) : State := fullReset (tearOpen s)

/-- The debug level of a lifecycle state after a full reset (R511). -/
def resetLevel (lc : Nat) : Nat := if lc = 0 then 2 else if lc = 1 then 1 else 0

/-- The lifecycle state in force; while a full reset holds, the one that its end gives. -/
def lifecycleNow (s : State) : Nat := if s.pins.inReset then s.fuses.lifecycle else lifecycle s

/-- The debug module at its reset level: owner none (R507, R511). -/
def debugReset (s : State) : State :=
  { ((s.setFld Fld.DBG_LEVEL_LEVEL 0 (resetLevel (lifecycleNow s))).setFld Fld.DBG_LEVEL_OWNER 0 0x3FF) with unlock := {} }

/-- A full reset is released (R428, R471, R491): MODE_LEAD and the fuses are read. Nothing that reached the module while it was held
has left a trace. -/
def releaseReset (s : State) : State :=
  let s := { coldState s with flash := s.flash, memGen := s.memGen }
  let s := { s with pins := { s.pins with inReset := false } }
  let s := s.setFld Fld.ROPE_STATUS_LEAD 0 (b2n s.pins.modeLead)
  let s := s.setFld Fld.ANCHOR_LC_CURRENT 0 s.fuses.lifecycle
  let s := (s.setFld Fld.ANCHOR_LC_PENDING 0 s.fuses.lifecycle).setFld Fld.ANCHOR_LC_FLAGS 0 s.fuses.flags
  let s := (List.range 2).foldl (fun s k => s.wr .ANCHOR_SERIAL k (BitVec.ofNat 64 (leAt s.fuses.serial (8 * k) 8))) s
  debugReset s

/-- May a full reset end: supply good, no reset contact low, no TAP instruction that holds it (R471, R503, R521)? -/
def mayRelease (s : State) : Bool := s.pins.inReset && s.pins.pwrGood && s.pins.sysRstN && !s.tap.holds && !s.pins.trip

/-- Every tracked line is invalidated with SNP_INV (R473, R482): one is sent for each line without a snoop outstanding. -/
def snoopTracked (s : State) : State := (s.snoop.map SnoopEntry.line).foldl (fun s l => sendSnoop s 0x21 l none) s

/-- Partial reset, stages 1 and 2 (R473): P-die work stops and every tracked line is snooped. -/
def startPartial (s : State) : State :=
  snoopTracked (pdieReset ((s.setFld Fld.BRINGUP_STEP_READY 0 0).setFld Fld.RESET_CTL_PSTATE 0 1))

/-- A write of RESET_CTL (R459, R471, R472). -/
def writeResetCtl (s : State) (m : Nat) (a : CsrAcc) : State :=
  if !bringupMaster m then violation s 1 m (regAddr .RESET_CTL 0) true
  else if Fld.RESET_CTL_FULL.presented a = 1 then fullReset s
  else if Fld.RESET_CTL_PDIE.presented a = 1 then
    if s.fld Fld.BRINGUP_STEP_DONE 0 < 7 || s.fld Fld.BRINGUP_STEP_RUNNING 0 != 0 || partialReset s then
      violation s 4 m (regAddr .RESET_CTL 0) true
    else startPartial s
  else s

/-- The die-to-die check of R463: links with parity errors are marked failed. `errs` are the errors of link 2d + x. -/
def d2dCheck (s : State) (errs : List Nat) : State :=
  let code (n : Nat) : Nat := if floorBit s 14 (16 + n) && errs.getD n 0 = 0 then 0 else if errs.getD n 0 = 0 then 1 else 2
  let s1 := s.setFld Fld.D2D_RES_RESULT 0 ((List.range 8).foldl (fun v n => v + code n * 4 ^ n) 0)
  let s1 := s1.setFld Fld.D2D_RES_ERRORS 0 (min (2 ^ 32 - 1) (errs.foldl (· + ·) 0))
  markFloor s1 14 (((List.range 8).filter (fun n => errs.getD n 0 ≠ 0)).foldl (fun v n => v + 2 ^ (16 + n)) 0)

/-- A lock detector reads unlocked (R514): after Ready a P-die is marked failed, and for an X-die the anchor orders a full
reset. -/
def pllLoss (s : State) (die : Nat) : State :=
  if !readyBit s then s
  else
    let s := detect s 15
    if die < 4 then markFloor s 14 (2 ^ (32 + die)) else fullReset s

/-! ## Commands -/

/-- FULL (R471). -/
def execResetFull (m : Master) (a : CsrAcc) (s : State) : Host.Outcome State Fault Refusal :=
  .next (onModule s (fun s => if Fld.RESET_CTL_FULL.presented a = 1 then writeResetCtl s m.toNat a else s))

/-- PDIE (R472). -/
def execResetPdie (m : Master) (a : CsrAcc) (s : State) : Host.Outcome State Fault Refusal :=
  .next (onModule s (fun s => if Fld.RESET_CTL_PDIE.presented a = 1 then writeResetCtl s m.toNat a else s))

/-- HELD (R473): the drain has ended once no line is tracked; a line that another snoop has left tracked is snooped again. -/
def execResetHeld (s : State) : Host.Outcome State Fault Refusal :=
  .next (if s.fld Fld.RESET_CTL_PSTATE 0 ≠ 1 then s
    else if s.snoop = [] ∧ s.snps = [] then s.setFld Fld.RESET_CTL_PSTATE 0 2 else snoopTracked s)

/-- RESTORE (R473). -/
def execResetRestore (s : State) : Host.Outcome State Fault Refusal :=
  .next (if s.fld Fld.RESET_CTL_PSTATE 0 = 2 then s.setFld Fld.RESET_CTL_PSTATE 0 3 else s)

/-- PLL_LOSS_OF_LOCK (R514). -/
def execPllLossOfLock (die : Fin 6) (s : State) : Host.Outcome State Fault Refusal :=
  .next (onModule s (fun s => pllLoss s die))

/-- POWER_UP (R519): VIN has risen, the rails are in tolerance, PWR_GOOD is released. VIN had fallen, so a trip is over. -/
def execPowerUp (s : State) : Host.Outcome State Fault Refusal :=
  if s.pins.vin && s.pins.pwrGood then .next s
  else if s.pins.trip && s.pins.vin then .next s
  else .next { s with pins := { s.pins with vin := true, pwrGood := true, trip := false, inReset := true } }

/-- POWER_LOSS (R519): PWR_GOOD falls and the module is in full reset; `vin` says whether VIN itself fell, or a rail. -/
def execPowerLoss (vin : Bool) (s : State) : Host.Outcome State Fault Refusal :=
  let s := powerCut s
  .next { s with pins := { s.pins with vin := s.pins.vin && !vin, pwrGood := false, trip := s.pins.trip && !vin } }

/-- SYS_RST_N (R521): the contact changes; a low level that counts as a pulse causes a full reset, but not in M4. -/
def execSysRstN (level pulse : Bool) (s : State) : Host.Outcome State Fault Refusal :=
  let hit := !level && pulse && s.fld Fld.PWR_STATUS_STATE 0 != 4
  let s := if hit then fullReset s else s
  .next { s with pins := { s.pins with sysRstN := level } }

/-- FULL_RESET_RELEASE (R471): `lead` is the level of MODE_LEAD. -/
def execFullResetRelease (lead : Bool) (s : State) : Host.Outcome State Fault Refusal :=
  .next (if mayRelease s then releaseReset { s with pins := { s.pins with modeLead := lead } } else s)

/-- THERM_N (R530): the hottest junction is at or above 100 °C, or below 95 °C. -/
def execThermN (hot : Bool) (s : State) : Host.Outcome State Fault Refusal :=
  .next (if s.pins.trip then s else { s with pins := { s.pins with thermN := !hot } })

/-- THERMAL_TRIP (R530): latched until VIN falls. -/
def execThermalTrip (s : State) : Host.Outcome State Fault Refusal :=
  let s := powerCut s
  .next { s with pins := { s.pins with trip := true, pwrGood := false, thermN := false } }

end Sys2Proof.Machine
end

