-- ==== Sys2Proof/Machine/BringUp.lean ====
section
/-!
DEFINITION. Bring-up (R458 to R467). A step's physical results come with the command that starts it.
-/
namespace Sys2Proof.Machine

/-- A write of `BRINGUP_STEP.STEP` (R459): the state with the step running, or the refusal. -/
def beginStep (s : State) (m : Nat) (a : CsrAcc) : Except State State :=
  let ad := regAddr .BRINGUP_STEP 0
  let n := Fld.BRINGUP_STEP_STEP.presented a
  if !bringupMaster m then .error (violation s 1 m ad true)
  else if !Fld.BRINGUP_STEP_STEP.reached a then .error s
  else if s.fld Fld.BRINGUP_STEP_RUNNING 0 ≠ 0 || n = 0 || 9 < n || n ≠ s.fld Fld.BRINGUP_STEP_DONE 0 + 1 then
    .error (violation s 4 m ad true)
  else .ok { (s.setFld Fld.BRINGUP_STEP_RUNNING 0 n).setFld Fld.BRINGUP_STEP_ELAPSED 0 0 with stepStatus := 0 }

/-- The row of step n: the write that starts it, with its physical results; or, after a write over the bus has started
step n, those results alone (log entry 8). -/
def startStep (s : State) (m n : Nat) (a : CsrAcc) : Except State State :=
  if !awake s || Fld.BRINGUP_STEP_STEP.presented a ≠ n then .error s
  else if s.stepDue && s.fld Fld.BRINGUP_STEP_RUNNING 0 == n then .ok { s with stepDue := false }
  else beginStep s m a

/-- A write of BRINGUP_STEP over the bus. -/
def writeStep (s : State) (m : Nat) (a : CsrAcc) : State :=
  match beginStep s m a with
  | .error s => s
  | .ok s => { s with stepDue := true }

/-- A write of BRINGUP_CFG (R459). -/
def writeBringupCfg (s : State) (m : Nat) (a : CsrAcc) : State :=
  if !bringupMaster m then violation s 1 m (regAddr .BRINGUP_CFG 0) true
  else if s.fld Fld.BRINGUP_STEP_RUNNING 0 ≠ 0 then s
  else s.plainWrite .BRINGUP_CFG 0 false a

/-- The step in progress. -/
def running (s : State) : Nat := s.fld Fld.BRINGUP_STEP_RUNNING 0

/-- The step will end with a status. -/
def setStatus (s : State) (c : Nat) : State := { s with stepStatus := c }

/-- A step ends (R460). -/
def endStep (s : State) (status elapsed : Nat) : State :=
  let n := running s
  let s := { s with stepDue := false }
  let s := ((s.setFld Fld.BRINGUP_STEP_STATUS 0 status).setFld Fld.BRINGUP_STEP_RUNNING 0 0).setFld Fld.BRINGUP_STEP_ELAPSED 0 elapsed
  raiseSource (if status = 0 then s.setFld Fld.BRINGUP_STEP_DONE 0 n else s) 0

/-- The floor plan bit of a unit that trains. -/
def trainBit : TrainUnit → Nat × Nat
  | .channel k => (11, k.val)
  | .nand c => (11, 32 + c.val)
  | .lane x p l => (12 + x.val, 8 * p.val + l.val)
  | .d2d d x => (14, 16 + 2 * d.val + x.val)

/-- A unit fails to train (R461). -/
def failTraining (s : State) (u : TrainUnit) : State := markFloor s (trainBit u).1 (2 ^ (trainBit u).2)

/-! ## Lane checks (R462) -/

/-- The X-die and local port of a port number: 0 to 13 field, 14 east, 15 west. -/
def portOf (g : Nat) : Nat × Nat := if g = 14 then (0, 7) else if g = 15 then (1, 7) else (g / 7, g % 7)

/-- The port number of a local port. -/
def portNumber (x p : Nat) : Nat := if p = 7 then 14 + x else 7 * x + p

/-- Record a lane's result. -/
def setLaneRes (s : State) (g l code : Nat) : State :=
  s.wr .LANE_RES (g / 4) (withField (s.rd .LANE_RES (g / 4)) (16 * (g % 4) + 2 * l) 2 code)

/-- A lane's recorded result. -/
def laneRes (s : State) (g l : Nat) : Nat := field (s.rd .LANE_RES (g / 4)) (16 * (g % 4) + 2 * l) 2

/-- Does a lane run its check? -/
def laneChecks (s : State) (g l : Nat) : Bool :=
  !(s.fld Fld.BRINGUP_CFG_LANE_SKIP 0).testBit g && !laneFailed s (portOf g).1 (portOf g).2 l

/-- The result of a lane with some errors over the window: PASS, or FAIL, which marks the lane failed. -/
def laneResult (s : State) (g l errors : Nat) : State :=
  let w := max 1 (s.fld Fld.BRINGUP_CFG_LANE_GBIT 0) * 10 ^ 9
  if errors * 10 ^ s.fld Fld.BRINGUP_CFG_BER_EXP 0 ≤ w then setLaneRes s g l 1
  else
    let (x, p) := portOf g
    markFloor (setLaneRes s g l 2) (12 + x) (2 ^ (8 * p + l))

/-- The lane checks: each lane's errors, by port number × 8 + lane, none for a lane without lock so far. -/
def laneCheck (s : State) (lanes : List (Option Nat)) : State :=
  (List.range 128).foldl (fun s i =>
    let (g, l) := (i / 8, i % 8)
    if !laneChecks s g l then setLaneRes s g l 0
    else
      match lanes.getD i none with
      | some e => laneResult s g l e
      | none => setLaneRes s g l 0) s

/-! ## DRAM (R314, R464, R465) -/

/-- The channels whose module a set may hold together: trained, and identical to that of channel `k`. -/
def identicalSet (s : State) (dimms : List Dimm) (k : Nat) : List Nat :=
  (List.range 24).filter (fun j => !chanFailed s j && (dimms[j]?).isSome && dimms[j]? == dimms[k]?)

/-- The interleave set (R314): the largest, of equal ones that with the lowest channel. -/
def interleaveSet (s : State) (dimms : List Dimm) : List Nat :=
  (List.range 24).foldl (fun best k =>
    let c := if chanFailed s k then [] else identicalSet s dimms k
    if best.length < c.length then c else best) []

/-- MEMMAP forms the set, fills MEM_IL and locks it; channels outside the set are marked failed. -/
def memMap (s : State) (dimms : List Dimm) : State :=
  let set := interleaveSet s dimms
  let mask (l : List Nat) : Nat := l.foldl (fun v k => v + 2 ^ k) 0
  let out := (List.range 24).filter (fun k => !set.contains k && !chanFailed s k)
  let s := markFloor s 11 (mask out)
  let s := (s.setFld Fld.MEM_IL_CH_MASK 0 (mask set)).setFld Fld.MEM_IL_NC 0 set.length
  let s := s.setFld Fld.MEM_IL_CAP_LOG2 0 ((set.head?.bind (fun k => dimms[k]?)).elim 0 Dimm.capLog2)
  setStatus (s.setFld Fld.MEM_IL_LOCK 0 1) (if set.isEmpty then 0x10 else 0)

/-- An element of a pass (R464): its direction, downward or not, and its operations in order, each a write or a read of the
background or of its complement. -/
structure MarchElem where
  down : Bool
  ops : List (Bool × Bool)

/-- Write, read: of the background, or of its complement. -/
def wB : Bool × Bool := (true, false)
/-- Write the complement. -/
def wC : Bool × Bool := (true, true)
/-- Read the background. -/
def rB : Bool × Bool := (false, false)
/-- Read the complement. -/
def rC : Bool × Bool := (false, true)

/-- The elements of pass `n` of the table (R464). -/
def memPass (n : Nat) : List MarchElem :=
  if n = 0 then [⟨false, [wB]⟩, ⟨false, [rB]⟩]
  else [⟨false, [wB]⟩, ⟨false, [rB, wC]⟩, ⟨false, [rC, wB]⟩, ⟨true, [rB, wC]⟩]
    ++ (if n = 1 then [⟨true, [rC, wB]⟩, ⟨true, [rB]⟩] else [⟨true, [rC]⟩])

/-- The data of a line of a channel in a pass: its addresses, or its background or the complement. -/
def passData (n ch line : Nat) (inv : Bool) : List Byte :=
  if n = 0 then (List.range 8).flatMap (fun i => leBytes 8 ((line * 64 + 8 * i) ^^^ (ch * 2 ^ 56)))
  else
    let b : Byte := [0, 0, 0x55, 0x33, 0x0F].getD n 0
    List.replicate 64 (if inv then ~~~b else b)

/-- The operation that a read of the test is, if its pass is enabled and it is one of its reads (R464). -/
def testOp (s : State) (r : TestRead) : Option (Bool × Bool) :=
  if !(s.fld Fld.BRINGUP_CFG_MEMTEST 0).testBit r.pass then none
  else ((memPass r.pass)[r.elem.val]?.bind (fun e => e.ops[r.op.val]?)).filter (fun o => !o.1)

/-- When a read comes in the test of its channel: pass, element, address in the element's direction, operation (R464). -/
def testOrder (r : TestRead) : Nat :=
  let down := (memPass r.pass)[r.elem.val]?.elim false MarchElem.down
  ((r.pass * 8 + r.elem) * 2 ^ 34 + (if down then 2 ^ 34 - 1 - r.line.toNat else r.line.toNat)) * 2 + r.op

/-- One read of a tested line (R464, R465): it decodes under R322 with the rank's mark and is recorded; its channel fails if it
is uncorrectable or if its data is not the pattern. The channels form no address map yet, so the line number of the record is
free (log entry 113). A failed channel's test has stopped, and what no enabled pass reads is no read. -/
def memTestRead (s : State) (r : TestRead) : State :=
  match testOp s r with
  | none => s
  | some o =>
    if chanFailed s r.ch then s
    else
      let rank := (Config.rankOf r.ch (r.line.toNat * 64)).val
      let d := decodeErrs (markOf s r.ch rank) ((r.errs.map Fin.val).eraseDups)
      let (f, s) := s.fresh 46
      let s := recordRead s ⟨r.ch, rank, (Config.subOf r.ch (r.line.toNat * 64)).val, f.toNat⟩ d
      if d = .uncorrectable ∨ r.data ≠ passData r.pass r.ch r.line.toNat o.2 then markFloor s 11 (2 ^ r.ch.val) else s

/-- MEMTEST (R464, R465): the reads with symbol errors or wrong data in the order of the test, then the channels that lose training; DRAM contents become
undefined. -/
def memTest (s : State) (lost : Nat) (reads : List TestRead) : State :=
  loseDram (markFloor ((sortBy (fun a b => testOrder a ≤ testOrder b) reads).foldl memTestRead s) 11 (lost % 2 ^ 24))

/-! ## Flash (R283, R466) -/

/-- What a die of an X-die reports, if it answers. -/
def dieReport (r : NandReport) (c n : Nat) : Option NandDie :=
  (r.dies.find? (fun e => e.1.val == c && e.2.1.val == n)).map (fun e => e.2.2)

/-- The dies of a local channel that do not report the geometry of die 0 of the lowest channel (R283): a mask. -/
def rejectedDies (r : NandReport) (c : Nat) : Nat :=
  ((List.range 64).filter (fun n => (dieReport r c n).isNone || dieReport r c n != dieReport r 0 0)).foldl (fun m n => m + 2 ^ n) 0

/-- The parameter pages of an X-die (R283): its geometry is that of die 0 of its lowest channel; dies that differ or do not
answer are marked failed. A page must have 16,384 data bytes and at least 2,048 spare ones, a block 256 to 4,096 pages and a LUN
up to 65,536 blocks (R282). -/
def readParameters (s : State) (x : Nat) (r : NandReport) : State :=
  let g : NandGeo := match dieReport r 0 0 with
    | some d =>
      if d.data = 16384 ∧ 2048 ≤ d.spare ∧ 256 ≤ d.ppb ∧ d.ppb ≤ 4096 ∧ d.bpd ≤ 65536 then
        ⟨d.ppb, d.bpd, r.badBlocks.map (fun b => (b.1.val, b.2.1.val, b.2.2.val))⟩
      else {}
    | none => {}
  let s := { s with flash := { s.flash with geo := Cells.put (fun _ => {}) s.flash.geo x g } }
  (List.range 16).foldl (fun s c => if rejectedDies r c = 0 then s else markFloor s (15 + 16 * x + c) (rejectedDies r c)) s

/-- Step 6: parameter pages, the areas of R297, mounts. Of an X-die without a report no die answers. -/
def mountFlash (s : State) (r : List NandReport) : State :=
  let s := [0, 1].foldl (fun s x => readParameters s x (r.getD x { dies := [] })) s
  let configured (x : Nat) : Bool := (List.range 16).any (fun v => groupCount s x v != 0)
  if [0, 1].any (fun x => configured x && !flashAreasOk s x) then setStatus s 0x07
  else (List.range 32).foldl (fun s k => mountVol s (k / 16) (k % 16)) s

/-! ## Commands -/

/-- Run a step's work when the write starts it. -/
def onStep (s : State) (m : Master) (n : Nat) (a : CsrAcc) (f : State → State) : Host.Outcome State Fault Refusal :=
  match startStep s m.toNat n a with
  | .error s => .next s
  | .ok s => .next (f s)

/-- Firmware marks again the management cores that are held in reset (R469); with all of them held no firmware runs. -/
def remarkCores (s : State) : State :=
  let held := (List.range 4).filter (fun k => (mcAt s k).inReset)
  if held.length = 4 then s else markFloor s 14 (held.foldl (fun v k => v + 2 ^ (8 * (k / 2) + 4 + k % 2)) 0)

/-- A channel that does not finish its training has no settings. -/
def dropPhy (s : State) (u : TrainUnit) : State :=
  match u with
  | .channel k => { s with phy := Cells.put (fun _ => none) s.phy k none }
  | _ => s

/-- The DRAM PHYs of the channels that have trained store their final delay settings, which training finds (R461). -/
def storePhys (s : State) : State :=
  ((List.range 24).filter (fun k => !chanFailed s k)).foldl (fun s k =>
    let (v, s) := s.fresh 64
    { s with phy := Cells.put (fun _ => none) s.phy k (some v.toNat) }) s

/-- CLOCKS (R458): the reference, and the dies whose PLLs fail (X-dies at bits 4 and 5). -/
def execBringupClocks (m : Master) (a : CsrAcc) (ref : Bool) (pll : BitVec 6) (s : State) : Host.Outcome State Fault Refusal :=
  onStep s m 1 a (fun s =>
    let s := remarkCores (markFloor s 14 (pll.toNat % 16 * 2 ^ 32))
    setStatus s (if !ref || 16 ≤ pll.toNat then 0x10 else 0))

/-- TRAIN (R461): the units that report a training error. -/
def execBringupTrain (m : Master) (a : CsrAcc) (errors : List TrainUnit) (s : State) : Host.Outcome State Fault Refusal :=
  onStep s m 2 a (fun s => storePhys (errors.foldl failTraining s))

/-- TRAINING_TIMEOUT (R461). -/
def execTrainingTimeout (u : TrainUnit) (s : State) : Host.Outcome State Fault Refusal :=
  .next (if awake s && running s = 2 then dropPhy (failTraining s u) u else s)

/-- LANECHECK (R462, R463). -/
def execBringupLanecheck (m : Master) (a : CsrAcc) (lanes : List (Option Nat)) (d2d : List Nat) (s : State) :
    Host.Outcome State Fault Refusal :=
  onStep s m 3 a (fun s => d2dCheck (laneCheck s lanes) d2d)

/-- PRBS_LOCK_TIMEOUT (R462): NO_PEER. -/
def execPrbsLockTimeout (x : XDie) (p l : Fin 8) (s : State) : Host.Outcome State Fault Refusal :=
  let g := portNumber x p
  .next (if awake s && running s = 3 && laneChecks s g l && laneRes s g l = 0 then setLaneRes s g l 3 else s)

/-- MEMTEST (R464). -/
def execBringupMemtest (m : Master) (a : CsrAcc) (lost : BitVec 24) (reads : List TestRead) (s : State) :
    Host.Outcome State Fault Refusal :=
  onStep s m 4 a (fun s => memTest s lost.toNat reads)

/-- MEMMAP (R458, R314). -/
def execBringupMemmap (m : Master) (a : CsrAcc) (dimms : List Dimm) (s : State) : Host.Outcome State Fault Refusal :=
  onStep s m 5 a (fun s => memMap s dimms)

/-- FLASH (R283, R466): the reports of the X-dies' parameter pages; volumes are mounted unless the areas of a configured
one lie outside populated DRAM. -/
def execBringupFlash (m : Master) (a : CsrAcc) (r : List NandReport) (s : State) : Host.Outcome State Fault Refusal :=
  onStep s m 6 a (fun s => mountFlash s r)

/-- ROPE (R430, R458): the margin key and the staging buffer that firmware has set up. -/
def execBringupRope (m : Master) (a : CsrAcc) (marginKey stageKey stageLen : BitVec 32) (s : State) :
    Host.Outcome State Fault Refusal :=
  onStep s m 7 a (fun s =>
    if s.flag Fld.BRINGUP_CFG_NO_ROPE 0 then s else ropeBegin s marginKey.toNat stageKey.toNat stageLen.toNat)

/-- ROPE_WAIT_EXPIRY (R458): step 7 fails with NOT_READY. -/
def execRopeWaitExpiry (s : State) : Host.Outcome State Fault Refusal :=
  .next (if awake s && running s = 7 && !s.flag Fld.BRINGUP_CFG_NO_ROPE 0 && !s.flag Fld.ROPE_STATUS_FORMED 0 then
      endStep s 0x0D (max 1 (s.fld Fld.BRINGUP_CFG_ROPE_WAIT 0) * 100000) else s)

/-- UNITTEST (R458): units that fail are marked; all SRAM is zero with correct parity. -/
def execBringupUnittest (m : Master) (a : CsrAcc) (fails : List (Fin 48 × Word)) (s : State) : Host.Outcome State Fault Refusal :=
  onStep s m 8 a (fun s =>
    let s := fails.foldl (fun s e => markFloor s e.1 e.2.toNat) s
    { s with mem := Cells.drop (fun a => stookBase ≤ a) s.mem, badPar := [] })

/-- READY (R467). -/
def execBringupReady (m : Master) (a : CsrAcc) (s : State) : Host.Outcome State Fault Refusal :=
  onStep s m 9 a (fun s => pumpAll { s.setFld Fld.BRINGUP_STEP_READY 0 1 with everReady := true })

/-- BRINGUP_STEP_END (R460): step 7 ends when the rope is formed or faulty; `elapsed` in units of 1,000 SCLK cycles. -/
def execBringupStepEnd (elapsed : BitVec 32) (s : State) : Host.Outcome State Fault Refusal :=
  if !awake s || running s = 0 || s.stepDue then .next s
  else if running s = 7 && !s.flag Fld.BRINGUP_CFG_NO_ROPE 0 then
    if s.fld Fld.ROPE_STATUS_FAULT 0 ≠ 0 then .next (endStep s 0x81 elapsed.toNat)
    else if s.flag Fld.ROPE_STATUS_FORMED 0 then .next (endStep s 0 elapsed.toNat)
    else .next s
  else .next (endStep s s.stepStatus elapsed.toNat)

end Sys2Proof.Machine
end

