-- ==== Sys2Proof/Machine/Debug.lean ====
section
/-!
DEFINITION. The debug module (R504 to R511) and the error registers (R514 to R516). A step of a held target and a debug
memory access are only noted here (`State.dbg`): DebugRun.lean performs them.
-/
namespace Sys2Proof.Machine

/-! ## Levels (R504, R507, R511) -/

/-- The debug level: 0 NONE, 1 OBSERVE, 2 FULL. -/
def dbgLevel (s : State) : Nat := s.fld Fld.DBG_LEVEL_LEVEL 0

/-- Is the master the owner of the debug module, at a level above NONE (R507)? -/
def dbgOwner (s : State) (m : Nat) : Bool := 0 < dbgLevel s && s.fld Fld.DBG_LEVEL_OWNER 0 == m

/-- A level below FULL clears every breakpoint and ends every hold, and with it a step in progress; a memory access goes on (R507). -/
def endDebug (s : State) : State :=
  { s with bp := [],
           dbg := s.dbg.filter (fun r => match r with | .mem _ => true | .step .. => false),
           ctx := Cells.mapVal (fun _ => {}) (fun _ (x : Ctx) => { x with held := false, haltReq := false }) s.ctx,
           mc := Cells.mapVal (fun _ => {}) (fun _ (y : Mc) => { y with held := false }) s.mc }

/-- The level takes a new value; at NONE the owner reads 0x3FF (R507). -/
def setLevel (s : State) (l : Nat) : State :=
  let s := s.setFld Fld.DBG_LEVEL_LEVEL 0 l
  let s := if l < 2 then endDebug s else s
  if l = 0 then s.setFld Fld.DBG_LEVEL_OWNER 0 0x3FF else s

/-- May a token open a level (R511)? In MANUFACTURE only full reset and LOCK enter the levels, and in DECOMMISSIONED nothing does. -/
def levelAllowed (s : State) (l : Nat) : Bool := 1 ≤ lifecycle s && lifecycle s < 4 && (l == 1 || l == 2)

/-! ## Unlocking (R505 to R507) -/

/-- The challenge registers. -/
def setChallenge (s : State) (bs : List Byte) : State :=
  (List.range 4).foldl (fun s k => s.wr .DBG_CHAL k (BitVec.ofNat 64 (leAt bs (8 * k) 8))) s

/-- NEW (R506): a fresh challenge, an empty token, the writer recorded. A locked-out module ignores it. -/
def dbgNew (s : State) (m : Nat) : State :=
  if s.flag Fld.DBG_LEVEL_LOCKOUT 0 then s
  else
    let (f, s) := s.fresh 256
    let ch := leBytes 32 f.toNat
    { setChallenge s ch with
      unlock := { challenge := some ch, writer := m, target := s.fld Fld.DBG_UNLOCK_TARGET 0, token := [], verifying := false } }

/-- SUBMIT (R506): verification of the token starts. -/
def dbgSubmit (s : State) (m : Nat) : State :=
  if m ≠ s.unlock.writer then violation s 6 m (regAddr .DBG_UNLOCK 0) true
  else { s with unlock := { s.unlock with verifying := true } }

/-- A write of DBG_TOKEN (R10, R506): 64 bits by the recorded writer append 8 bytes. -/
def writeDbgToken (s : State) (m : Nat) (a : CsrAcc) : State :=
  match a with
  | .full v =>
    if m ≠ s.unlock.writer then violation s 6 m (regAddr .DBG_TOKEN 0) true
    else { s with unlock := { s.unlock with token := s.unlock.token ++ leBytes 8 v.toNat } }
  | .low _ | .high _ => violation s 0 m (regAddr .DBG_TOKEN 0) true

/-- Does the token open the level asked for (R505, R506)? -/
def unlockPasses (s : State) : Bool :=
  let t := s.unlock.token
  t.length == 3136 && tokenValid s t && leAt t 4 1 == s.unlock.target && s.unlock.challenge == some ((t.drop 0x18).take 32)
    && levelAllowed s s.unlock.target

/-- Verification passes (R506): source 4. -/
def unlockOk (s : State) : State :=
  let u := s.unlock
  let s := (setLevel s u.target).setFld Fld.DBG_LEVEL_OWNER 0 u.writer
  let s := extendMeas s 0 (shake256 u.token)
  raiseSource ((s.satAdd Fld.DBG_LEVEL_UNLOCKS 0 1).setFld Fld.DBG_UNLOCK_STATUS 0 0) 4

/-- Verification fails (R506, R514): the status is a failure that no rule names; 8 failures lock out. -/
def unlockFails (s : State) : State :=
  let (c, s) := anyFailure s
  let s := (s.setFld Fld.DBG_UNLOCK_STATUS 0 c).satAdd Fld.DBG_LEVEL_FAILS 0 1
  let s := if 8 ≤ s.fld Fld.DBG_LEVEL_FAILS 0 then s.setFld Fld.DBG_LEVEL_LOCKOUT 0 1 else s
  detect s 14

/-- Verification ends (R506): either outcome discards the challenge. -/
def unlockEnd (s : State) : State :=
  if !s.unlock.verifying then s
  else
    let s := if unlockPasses s then unlockOk s else unlockFails s
    { setChallenge s [] with unlock := { s.unlock with challenge := none, verifying := false } }

/-- LOCK (R507): a level that is not lower has no effect. -/
def dbgLock (s : State) (m : Nat) : State :=
  let t := s.fld Fld.DBG_UNLOCK_TARGET 0
  if !(dbgOwner s m || isCoreMaster m) then violation s 6 m (regAddr .DBG_UNLOCK 0) true
  else if dbgLevel s ≤ t then s
  else extendMeas (setLevel s t) 0 (leBytes 32 t)

/-- Is a write of DBG_UNLOCK refused (R506, R507): SUBMIT by another master than the recorded one, LOCK by one that may not? -/
def unlockRefused (s : State) (m : Nat) (a : CsrAcc) : Bool :=
  let writer := if Fld.DBG_UNLOCK_NEW.presented a = 1 && !s.flag Fld.DBG_LEVEL_LOCKOUT 0 then m else s.unlock.writer
  (Fld.DBG_UNLOCK_SUBMIT.presented a == 1 && m != writer)
    || (Fld.DBG_UNLOCK_LOCK.presented a == 1 && !(dbgOwner s m || isCoreMaster m))

/-- A write of DBG_UNLOCK: the target, then the actions presented, in bit order. A refused write has no effect (R512). -/
def writeDbgUnlock (s : State) (m : Nat) (a : CsrAcc) : State :=
  if unlockRefused s m a then violation s 6 m (regAddr .DBG_UNLOCK 0) true else
  let s := s.plainWrite .DBG_UNLOCK 0 false a
  let s := if Fld.DBG_UNLOCK_NEW.presented a = 1 then dbgNew s m else s
  let s := if Fld.DBG_UNLOCK_SUBMIT.presented a = 1 then dbgSubmit s m else s
  if Fld.DBG_UNLOCK_LOCK.presented a = 1 then dbgLock s m else s

/-! ## Targets (R508) -/

/-- The selected target: a core number (`true`) or a tile context (`false`). -/
def dbgTarget (s : State) : Option (Bool × Nat) :=
  let id := s.fld Fld.DBG_SEL_ID 0
  if s.flag Fld.DBG_SEL_KIND 0 then (if id < 4 then some (true, id) else none) else some (false, id)

/-- Can the target be reached: in M2 and M3, and while the P-dies are in reset, only the cores (R474, R511)? -/
def dbgReach (s : State) (core : Bool) : Bool := core || !pdiesDown s

/-- Is a target held? -/
def dbgHeld (s : State) (core : Bool) (n : Nat) : Bool := if core then (mcAt s n).held else (ctxAt s n).held

/-- The number of held targets (R508). -/
def heldCount (s : State) : Nat :=
  (s.ctx.filter (fun e => e.2.held)).length + (s.mc.filter (fun e => e.2.held)).length

/-- HALT of a context (R508): as STOP, with cause BREAKPOINT; in REPLAYING when the drain ends (R94). A stopped context
becomes held as it is. -/
def haltCtx (s : State) (c : Nat) : State :=
  let x := ctxAt s c
  match x.st with
  | .idle => s
  | .stopped => if x.held then s else raiseSource (setCtx s c { x with held := true, byMatch := false }) 4
  | .replaying => setCtx s c { x with stopReq := true, haltReq := true }
  | .running | .waiting => holdCtx s c

/-- HALT of a core (R508): a waitc that waits issues again when the core continues. -/
def haltMc (s : State) (k : Nat) : State :=
  let y := mcAt s k
  if y.inReset || y.held then s else holdMc (setMc s k { y with waiting := none }) k

/-- HALT (R508). -/
def dbgHalt (s : State) : State :=
  match dbgTarget s with
  | some (core, n) => if !dbgReach s core then s else if core then haltMc s n else haltCtx s n
  | none => s

/-- RESUME (R508): the held target continues and its hold ends; from a hold that a match made its next instruction issues without KIND
0 tests (R509). -/
def dbgResume (s : State) : State :=
  match dbgTarget s with
  | some (core, n) =>
    if !dbgReach s core || !dbgHeld s core n then s
    else if core then setMc s n { mcAt s n with held := false, skipBp := (mcAt s n).byMatch }
    else resumeCtx s n
  | none => s

/-- STEP (R508): noted for a held target, once while one is in progress. -/
def dbgStep (s : State) : State :=
  match dbgTarget s with
  | some (core, n) =>
    if dbgReach s core && dbgHeld s core n && !s.dbg.contains (.step core n) then { s with dbg := s.dbg ++ [.step core n] } else s
  | none => s

/-- A write of DBG_CTL (R504, R508): the actions presented, in bit order. -/
def writeDbgCtl (s : State) (m : Nat) (a : CsrAcc) : State :=
  let h := Fld.DBG_CTL_HALT.presented a
  let r := Fld.DBG_CTL_RESUME.presented a
  let p := Fld.DBG_CTL_STEP.presented a
  if h + r + p = 0 then s
  else if dbgLevel s < 2 then violation s 6 m (regAddr .DBG_CTL 0) true
  else
    let s := if h = 1 then dbgHalt s else s
    let s := if r = 1 then dbgResume s else s
    if p = 1 then dbgStep s else s

/-- DBG_CTL as read. -/
def readDbgCtl (s : State) : Word :=
  let h := match dbgTarget s with
    | some (core, n) => dbgHeld s core n
    | none => false
  BitVec.ofNat 64 (256 * b2n h + heldCount s * 2 ^ 32)

/-! ## Comparators (R509) -/

/-- The number of the comparators' owner: a tile, or 512 plus a core. -/
def bpTarget (s : State) : Option Nat := (dbgTarget s).map (fun t => if t.1 then 512 + t.2 else t.2 / 4)

/-- A comparator's registers as read. -/
def readBp (s : State) (k : Nat) (ctl : Bool) : Word :=
  match bpTarget s with
  | some t => if ctl then (bpAt s t k).ctl else (bpAt s t k).addr
  | none => 0

/-- A write of a comparator (R504, R509): at level FULL. -/
def writeBp (s : State) (m k : Nat) (ctl : Bool) (a : CsrAcc) : State :=
  let r : Reg := if ctl then .DBG_BP_CTL else .DBG_BP_ADDR
  if dbgLevel s < 2 then violation s 6 m (regAddr r k) true
  else
    match bpTarget s with
    | none => s
    | some t =>
      if 512 ≤ t || !pdiesDown s then
        let b := bpAt s t k
        let b : Bp := if ctl then { b with ctl := r.applyWrite false b.ctl a } else { b with addr := r.applyWrite false b.addr a }
        { s with bp := Cells.put (fun _ => {}) s.bp (t * 4 + k) b }
      else s

/-! ## Registers of a held target (R510) -/

/-- The selected register of a context; one that does not exist reads zero (R14). -/
def ctxRegRead (s : State) (c : Nat) : Word :=
  let i := s.fld Fld.DBG_REG_SEL_INDEX 0
  let l := s.fld Fld.DBG_REG_SEL_LANE 0
  match s.fld Fld.DBG_REG_SEL_FILE 0 with
  | 0 => if i < 32 then ctxS s c (Fin.ofNat 32 i) else 0
  | 1 => if i < 8 then (ctxP s c i).setWidth 64 else 0
  | 2 => if i < 32 then BitVec.ofNat 64 (bits (ctxV s c (Fin.ofNat 32 i)).toNat (32 * l) 32) else 0
  | 3 => (ctxAt s c).pc
  | _ => 0

/-- The selected register of a context takes a value; s0 and p0 keep theirs, and the PC is aligned. -/
def ctxRegWrite (s : State) (c : Nat) (v : Word) : State :=
  let i := s.fld Fld.DBG_REG_SEL_INDEX 0
  let l := s.fld Fld.DBG_REG_SEL_LANE 0
  match s.fld Fld.DBG_REG_SEL_FILE 0 with
  | 0 => if i < 32 then setCtxS s c (Fin.ofNat 32 i) v else s
  | 1 => if i < 8 then setCtxP s c i (v.setWidth 32) else s
  | 2 =>
    if i < 32 then
      let r := Fin.ofNat 32 i
      setCtxV s c r (BitVec.ofNat 1024 (putBits (ctxV s c r).toNat (32 * l) 32 (v.toNat % 2 ^ 32)))
    else s
  | 3 => setCtxPc s c (v &&& ~~~3#64)
  | _ => s

/-- The selected register of a core. -/
def mcRegRead (s : State) (k : Nat) : Word × State :=
  let i := s.fld Fld.DBG_REG_SEL_INDEX 0
  match s.fld Fld.DBG_REG_SEL_FILE 0 with
  | 0 => (if i < 32 then mcS s k (Fin.ofNat 32 i) else 0, s)
  | 3 => ((mcAt s k).pc, s)
  | 4 => (mcCsr s k i).getD (0, s)
  | _ => (0, s)

/-- The selected register of a core takes a value. -/
def mcRegWrite (s : State) (k : Nat) (v : Word) : State :=
  let i := s.fld Fld.DBG_REG_SEL_INDEX 0
  match s.fld Fld.DBG_REG_SEL_FILE 0 with
  | 0 => if i < 32 then setMcS s k (Fin.ofNat 32 i) v else s
  | 3 => setMc s k { mcAt s k with pc := v &&& ~~~3#64 }
  | 4 => (setMcCsr s k i v).getD s
  | _ => s

/-- The held target whose registers may be reached at level FULL. -/
def dbgRegTarget (s : State) : Option (Bool × Nat) :=
  if dbgLevel s < 2 then none else (dbgTarget s).filter (fun t => dbgHeld s t.1 t.2)

/-- DBG_REG_DATA as read (R510): at level FULL, of a held target; in an unpowered domain zero (R511). -/
def readRegData (s : State) (m : Nat) : Word × State :=
  match dbgTarget s with
  | some (false, _) | none => if pdiesDown s && 2 ≤ dbgLevel s then (0, s) else go
  | some (true, _) => go
where
  /-- The read of a target that can be reached. -/
  go : Word × State :=
    match dbgRegTarget s with
    | some (true, k) => mcRegRead s k
    | some (false, c) => (ctxRegRead s c, s)
    | none => (0, violation s 6 m (regAddr .DBG_REG_DATA 0) false)

/-- A write of DBG_REG_DATA (R510): an access to half of it keeps the other half (R10). -/
def writeRegData (s : State) (m : Nat) (a : CsrAcc) : State :=
  let merge (old : Word) : Word := (old &&& ~~~(accMask a)) ||| accValue a
  match dbgTarget s with
  | some (false, _) | none => if pdiesDown s && 2 ≤ dbgLevel s then s else go merge
  | some (true, _) => go merge
where
  /-- The write of a target that can be reached. -/
  go (merge : Word → Word) : State :=
    match dbgRegTarget s with
    | some (true, k) => let (old, s) := mcRegRead s k; mcRegWrite s k (merge old)
    | some (false, c) => ctxRegWrite s c (merge (ctxRegRead s c))
    | none => violation s 6 m (regAddr .DBG_REG_DATA 0) true

/-! ## Memory access (R510) -/

/-- A write of DBG_MEM_CMD (R504, R510): while BUSY is set it is ignored; a misaligned address ends with ACCESS_DENIED. -/
def writeMemCmd (s : State) (m : Nat) (a : CsrAcc) : State :=
  let op := Fld.DBG_MEM_CMD_OP.presented a
  if s.flag Fld.DBG_MEM_CMD_BUSY 0 then s
  else if op = 2 ∧ dbgLevel s < 2 then violation s 6 m (regAddr .DBG_MEM_CMD 0) true
  else
    let s := s.plainWrite .DBG_MEM_CMD 0 false a
    if op ≠ 1 ∧ op ≠ 2 then s
    else if s.fld Fld.DBG_MEM_ADDR_ADDR 0 % (if s.flag Fld.DBG_MEM_CMD_SIZE 0 then 8 else 4) ≠ 0 then
      s.setFld Fld.DBG_MEM_CMD_STATUS 0 0x07
    else { s.setFld Fld.DBG_MEM_CMD_BUSY 0 1 with dbg := s.dbg ++ [.mem (op == 2)] }

/-! ## Debug registers on the bus (R504, R507) -/

/-- Registers that every master may use: the unlock registers, DBG_LEVEL and DBG_CHAL. -/
def dbgOpen (r : Reg) : Bool :=
  match r with
  | .DBG_LEVEL | .DBG_UNLOCK | .DBG_CHAL | .DBG_TOKEN => true
  | _ => false

/-- A read of a debug register. -/
def readDebug (s : State) (m : Nat) (r : Reg) (i : Nat) : Word × State :=
  if !dbgOpen r && !dbgOwner s m then (0, violation s 6 m (regAddr r i) false)
  else
    match r with
    | .DBG_CTL => (readDbgCtl s, s)
    | .DBG_REG_DATA => readRegData s m
    | .DBG_BP_ADDR => (readBp s i false, s)
    | .DBG_BP_CTL => (readBp s i true, s)
    | _ => (s.rd r i, s)

/-- A write of a debug register. -/
def writeDebug (s : State) (m : Nat) (r : Reg) (i : Nat) (a : CsrAcc) : State :=
  if !dbgOpen r && !dbgOwner s m then violation s 6 m (regAddr r i) true
  else
    match r with
    | .DBG_UNLOCK => writeDbgUnlock s m a
    | .DBG_TOKEN => writeDbgToken s m a
    | .DBG_CTL => writeDbgCtl s m a
    | .DBG_REG_DATA => writeRegData s m a
    | .DBG_BP_ADDR => writeBp s m i false a
    | .DBG_BP_CTL => writeBp s m i true a
    | .DBG_MEM_CMD => writeMemCmd s m a
    | _ => s.plainWrite r i false a

/-! ## Error registers (R514 to R516) -/

/-- A write of ERR_SUMMARY (R515): the clear first, then what hardware sets in the same cycle (`hw`). -/
def writeErrSummary (s : State) (a : CsrAcc) (hw : Nat) : State :=
  ((List.range 16).filter (fun b => hw.testBit b)).foldl detect (s.plainWrite .ERR_SUMMARY 0 false a)

/-- A master ID that names an engine that reports status 0x80 (R516). -/
def reportsParity (m : Nat) : Bool :=
  (0x300 ≤ m && m ≤ 0x353) || (0x358 ≤ m && m ≤ 0x35F) || m == 0x380 || m == 0x381 || m == 0x390 || m == 0x391
    || (0x3A0 ≤ m && m ≤ 0x3BF)

/-- Do TARGET and PARAM name a unit of the detector's row (R514, R516)? -/
def injectionOk (det target param : Nat) : Bool :=
  match det with
  | 0 => target ≤ 511
  | 1 => target ≤ 63
  | 3 | 15 => target ≤ 5
  | 4 => target ≤ 7
  | 5 | 6 => target ≤ 23 && param ≤ 9
  | 7 | 9 | 10 => target ≤ 1
  | 8 => target ≤ 15 && param ≤ 7
  | 11 => reportsParity target
  | _ => true

/-- Injections whose event needs no command of its own fire when they are armed: the fabric's and a die-to-die link's
next flit, a link's retraining (its outcome free), an unlocked PLL (R514). -/
def fireNow (s : State) : State :=
  let det := s.fld Fld.ERR_INJ_DETECTOR 0
  let t := s.fld Fld.ERR_INJ_TARGET 0
  if det = 3 ∨ det = 4 ∨ det = 10 ∨ det = 15 then
    match injFire s det t with
    | none => s
    | some (_, s) =>
      match det with
      | 3 => detect (s.satAdd Fld.ERR_FAB_FABRIC 0 1) 3
      | 4 => detect (s.satAdd Fld.ERR_FAB_D2D 0 1) 4
      | 10 => let (f, s) := s.fresh 4; linkLoss s t (f.getLsbD 0) (f.getLsbD 1) (f.getLsbD 2) (f.getLsbD 3)
      | _ => pllLoss s t
  else s

/-- In MODE 2 they fire again and again until MODE is cleared (R516; log entry 88). -/
def fireAgain (s : State) : State := if awake s && s.fld Fld.ERR_INJ_MODE 0 = 2 then fireNow s else s

/-- A write of ERR_INJ (R516). -/
def writeErrInj (s : State) (m : Nat) (a : CsrAcc) : State :=
  let det := s.written Fld.ERR_INJ_DETECTOR 0 a
  let t := s.written Fld.ERR_INJ_TARGET 0 a
  let p := s.written Fld.ERR_INJ_PARAM 0 a
  let mode := s.written Fld.ERR_INJ_MODE 0 a
  let arm := Fld.ERR_INJ_ARM.presented a = 1
  if !isCoreMaster m && !dbgOwner s m then violation s 1 m (regAddr .ERR_INJ 0) true
  else if !isCoreMaster m && dbgLevel s < 2 then violation s 6 m (regAddr .ERR_INJ 0) true
  else if arm ∧ !injectionOk det t p then violation s 4 m (regAddr .ERR_INJ 0) true
  else
    let same := det == s.fld Fld.ERR_INJ_DETECTOR 0 && t == s.fld Fld.ERR_INJ_TARGET 0 && p == s.fld Fld.ERR_INJ_PARAM 0
      && mode == s.fld Fld.ERR_INJ_MODE 0
    let s := s.plainWrite .ERR_INJ 0 false a
    let s := if same then s else s.setFld Fld.ERR_INJ_ARMED 0 0
    if arm ∧ (mode = 1 ∨ mode = 2) then fireNow (s.setFld Fld.ERR_INJ_ARMED 0 1) else s

/-! ## Commands -/

/-- NEW (R506). -/
def execDbgNew (m : Master) (a : CsrAcc) (s : State) : Host.Outcome State Fault Refusal :=
  .next (onModule s (fun s => if Fld.DBG_UNLOCK_NEW.presented a = 1 then writeDbgUnlock s m.toNat a else s))

/-- DBG_TOKEN (R506). -/
def execDbgToken (m : Master) (a : CsrAcc) (s : State) : Host.Outcome State Fault Refusal :=
  .next (onModule s (fun s => writeDbgToken s m.toNat a))

/-- SUBMIT (R506). -/
def execDbgSubmit (m : Master) (a : CsrAcc) (s : State) : Host.Outcome State Fault Refusal :=
  .next (onModule s (fun s => if Fld.DBG_UNLOCK_SUBMIT.presented a = 1 then writeDbgUnlock s m.toNat a else s))

/-- UNLOCK_VERIFIED (R506). -/
def execUnlockVerified (s : State) : Host.Outcome State Fault Refusal :=
  .next (onModule s (fun s => unlockEnd s))

/-- LOCK (R507). -/
def execDbgLock (m : Master) (a : CsrAcc) (s : State) : Host.Outcome State Fault Refusal :=
  .next (onModule s (fun s => if Fld.DBG_UNLOCK_LOCK.presented a = 1 then writeDbgUnlock s m.toNat a else s))

/-- DBG_HALT (R508). -/
def execDbgHalt (m : Master) (a : CsrAcc) (s : State) : Host.Outcome State Fault Refusal :=
  .next (onModule s (fun s =>
    if Fld.DBG_CTL_HALT.presented a = 1 then writeDebug s m.toNat .DBG_CTL 0 a else s))

/-- DBG_RESUME (R508). -/
def execDbgResume (m : Master) (a : CsrAcc) (s : State) : Host.Outcome State Fault Refusal :=
  .next (onModule s (fun s =>
    if Fld.DBG_CTL_RESUME.presented a = 1 then writeDebug s m.toNat .DBG_CTL 0 a else s))

/-- ERR_SUMMARY_CLEAR (R515): `hw` are the bits that hardware sets in the same SCLK cycle. -/
def execErrSummaryClear (a : CsrAcc) (hw : BitVec 16) (s : State) : Host.Outcome State Fault Refusal :=
  .next (onModule s (fun s => writeErrSummary s a hw.toNat))

/-- ERR_INJ (R516). -/
def execErrInj (m : Master) (a : CsrAcc) (s : State) : Host.Outcome State Fault Refusal :=
  .next (onModule s (fun s => writeErrInj s m.toNat a))

end Sys2Proof.Machine
end

