-- ==== Sys2Proof/Machine/JobLoad.lean ====
section
/-!
DEFINITION. Loading a job (R20 to R25, R31, R44, R211, R219, R234, R257, R537): what firmware checks, where it places the
programs, what it writes.
-/
namespace Sys2Proof.Machine

/-! ## Descriptor and tables -/

/-- A field of a descriptor or entry. -/
def jobB (d : List Byte) : Nat := leAt d 0x28 4
/-- Consumer count. -/
def jobC (d : List Byte) : Nat := leAt d 0x06 2
/-- Dataset size. -/
def jobN (d : List Byte) : Nat := leAt d 0x20 8
/-- Job ID. -/
def jobIdOf (d : List Byte) : Nat := leAt d 4 1
/-- Program count. -/
def jobProgs (d : List Byte) : Nat := leAt d 0x38 4
/-- Address of the shard table. -/
def jobShard (d : List Byte) : Nat := leAt d 0x50 8
/-- Address of the consumer table. -/
def jobConsumers (d : List Byte) : Nat := leAt d 0x58 8

/-- Are the bytes of a range zero? -/
def zeroAt (d : List Byte) (o n : Nat) : Bool := ((d.drop o).take n).all (· == 0)

/-- The field ranges and reserved bytes of R20. -/
def jobFieldsOk (d : List Byte) : Bool :=
  jobIdOf d ≤ 63 && (1 ≤ leAt d 5 1 && leAt d 5 1 ≤ 16) && (1 ≤ jobC d && jobC d ≤ 4096)
    && (1 ≤ jobN d && jobN d ≤ 2 ^ 48) && (1 ≤ jobB d && jobB d ≤ 2 ^ 24) && jobB d % jobC d == 0 && jobB d / jobC d ≤ 65535
    && (64 ≤ leAt d 0x2C 4 && leAt d 0x2C 4 ≤ 2 ^ 31) && leAt d 0x2C 4 % 64 == 0
    && leAt d 0x30 8 % 64 == 0 && (1 ≤ jobProgs d && jobProgs d ≤ 64) && leAt d 0x3C 4 == 0
    && leAt d 0x40 8 % 64 == 0 && (1 ≤ leAt d 0x48 4 && leAt d 0x48 4 ≤ 65536) && leAt d 0x4C 4 == 0
    && jobShard d % 64 == 0 && jobConsumers d % 64 == 0 && zeroAt d 0x60 160

/-- The spans a descriptor names: program table, catalog directory, shard table header, consumer table. -/
def jobSpans (d : List Byte) : List Span :=
  [(leAt d 0x30 8, 64 * jobProgs d), (leAt d 0x40 8, 32 * leAt d 0x48 4), (jobShard d, 32), (jobConsumers d, 32 * jobC d)]

/-- The shard table at the descriptor's address. -/
def jobShardSpan (s : State) (d : List Byte) : Span := (jobShard d, 32 + 32 * leAt (peek s (jobShard d) 32) 8 4)

/-- Entry `i` of the program table. -/
def progEntry (s : State) (d : List Byte) (i : Nat) : List Byte := peek s (leAt d 0x30 8 + 64 * i) 64

/-- Image length. -/
def progLen (e : List Byte) : Nat := leAt e 8 4
/-- Load offset. -/
def progLoad (e : List Byte) : Nat := leAt e 0xC 4
/-- Argument offset. -/
def progArg (e : List Byte) : Nat := leAt e 0x1C 4
/-- Instance count. -/
def progCount (e : List Byte) : Nat := leAt e 0x14 4

/-- Does the window of an entry hold a tile span? -/
def progWindow (e : List Byte) (o n : Nat) : Bool :=
  leAt e 0x18 1 * 4096 ≤ o && o + n ≤ (leAt e 0x19 1 + 1) * 4096

/-- The field ranges and reserved bytes of a program table entry (R23). -/
def progOk (e : List Byte) : Bool :=
  leAt e 0 8 % 128 == 0 && (4 ≤ progLen e && progLen e ≤ 0x100000) && progLen e % 4 == 0
    && progLoad e % 128 == 0 && progLoad e + progLen e ≤ 0x100000
    && leAt e 0x10 4 % 4 == 0 && leAt e 0x10 4 < progLen e && (1 ≤ progCount e && progCount e ≤ 16384)
    && leAt e 0x1A 1 < 128 && leAt e 0x1B 1 < 128 && progWindow e (progLoad e) (progLen e) && progWindow e (progArg e) 2048
    && progArg e % 64 == 0 && progArg e + 2048 ≤ 0x100000
    && (progArg e + 2048 ≤ progLoad e || progLoad e + progLen e ≤ progArg e)
    && leAt e 0x20 2 < 16 && leAt e 0x22 2 == 0

/-- The baler's view of the job (R257). -/
def jobBalerCtx (s : State) (d : List Byte) : BalerCtx :=
  let depths := (List.range (jobC d)).map (fun k => leAt (peek s (jobConsumers d + 32 * k) 32) 0x14 2)
  { table := jobConsumers d, B := jobB d, C := jobC d, ringMin := depths.foldl min 256, slot := leAt d 0x2C 4, valid := true }

/-- Every consumer table entry is in range, its reserved bits and bytes zero (R43, R44, R388, R537). -/
def consumersOk (s : State) (d : List Byte) : Bool :=
  let c := jobBalerCtx s d
  (List.range (jobC d)).all (fun k =>
    let b := peek s (jobConsumers d + 32 * k) 32
    consumerOk c (consumerEntry s c k) && leAt b 0x10 4 % 64 == 0 && leAt b 0xC 4 < 4096 && zeroAt b 0x16 10)

/-- The rules of R30 and R31 on the shard table. -/
def jobShardOk (s : State) (d : List Byte) : Bool :=
  let (a, n) := jobShardSpan s d
  let t := peek s a n
  tableOk t (leAt t 0 4) (leAt t 4 4) && zeroAt t 0xC 4 && zeroAt t 0x18 8
    && (List.range (leAt t 8 4)).all (fun i =>
      let e := (t.drop (32 + 32 * i)).take 32
      leAt e 0x14 2 < 2 && zeroAt e 0x16 10)

/-- The status of R21 before placement: 0, or why firmware refuses the job. -/
def jobStatus (s : State) (a : Nat) (d : List Byte) : Nat :=
  if a % 64 ≠ 0 ∨ !jobFieldsOk d then 0x05
  else if leAt d 0 4 ≠ 1 then 0x0C
  else if leAt d 0x1C 4 ≠ 0 ∧ leAt d 0x1C 4 ≠ s.fld Fld.ANCHOR_FWREV_REVISION 0 then 0x0C
  else if !(jobSpans d).all (fun p => inDram s p.1 p.2) then 0x07
  else if s.jobs.any (fun j => j.id == jobIdOf d) then 0x03
  else if jobN d < jobB d then 0x05
  else if !(inDram s (jobShardSpan s d).1 (jobShardSpan s d).2) then 0x07
  else if !jobShardOk s d || !consumersOk s d then 0x05
  else if !(List.range (jobProgs d)).all (fun i => progOk (progEntry s d i)) then 0x05
  else if !(List.range (jobProgs d)).all (fun i => inDram s (leAt (progEntry s d i) 0 8) (progLen (progEntry s d i))) then 0x07
  else 0

/-! ## Placement (R25) -/

/-- A placement so far: instances on contexts, images on tiles, instances left to firmware slicing with the hardware context
that each shares. -/
structure Placement where
  placed : List Placed := []
  images : List CodeImage
  sliced : List (Nat × Nat × Nat) := []
  seats : List SliceSeat
  deriving DecidableEq, Repr

/-- Do two spans overlap? -/
def overlap (a n b m : Nat) : Bool := a < b + m && b < a + n

/-- Is the image of a program of a job on a tile? -/
def hasImage (p : Placement) (job prog t : Nat) : Bool := p.images.any (fun g => g.job == job && g.prog == prog && g.tile == t)

/-- May the tile run the program: it holds the image already, or the image span and the argument area are free there? -/
def tileTakes (p : Placement) (job prog t : Nat) (e : List Byte) : Bool :=
  hasImage p job prog t || (p.images.filter (fun g => g.tile == t)).all (fun g =>
    !overlap (progLoad e) (progLen e) g.load g.len && !overlap (progLoad e) (progLen e) g.arg 2048
      && !overlap (progArg e) 2048 g.load g.len && !overlap (progArg e) 2048 g.arg 2048)

/-- Does a context of the tile run instances by firmware slicing? The whole of its window is theirs in turn (R24). -/
def tileSliced (s : State) (p : Placement) (t : Nat) : Bool :=
  p.sliced.any (fun q => tileOf q.2.2 == t) || s.parked.any (fun q => tileOf q.ctx == t)

/-- Is a hardware context free: on a working tile that is not shared by firmware slicing, at rest, with no instance of a loaded job
or of this one? -/
def ctxFree (s : State) (p : Placement) (c : Nat) : Bool :=
  !tileSliced s p (tileOf c) && !tileFailed s (tileOf c) && atRest (ctxAt s c) && !(p.placed.any (fun q => q.ctx == c))
    && !(s.jobs.any (fun j => j.placed.any (fun q => q.ctx == c)))

/-- The image of a program on a context's tile is recorded (R25, R90). -/
def withImage (p : Placement) (job prog c : Nat) (e : List Byte) : Placement :=
  if hasImage p job prog (tileOf c) then p
  else { p with images := p.images ++ [⟨job, prog, tileOf c, progLoad e, progLen e, leAt e 0 8, progArg e⟩] }

/-- Put an instance on a context; the tile takes the image. -/
def seatOn (p : Placement) (job prog inst c slice : Nat) (e : List Byte) : Placement :=
  withImage { p with placed := p.placed ++ [⟨prog, inst, c, slice⟩] } job prog c e

/-- Instances of this job's program on a hardware context. -/
def seatedOn (p : Placement) (prog c : Nat) : Nat := (p.placed.filter (fun q => q.ctx == c && q.prog == prog)).length

/-- SAVE_BASE × 128 of a hardware context's list: the first base that the plan gives for it, else room of its own for eight save
areas (R104; log entry 109). -/
def planBase (plan : JobPlan) (c : Nat) : Nat :=
  ((plan.seats.find? (fun t => t.ctx.val == c)).map (fun t => t.base.toNat * 128)).getD (c % 32 * 0x29000)

/-- The stook SRAM that the save areas of another context hold: of this job, or of a list in use (R104). -/
def areasOf (s : State) (plan : JobPlan) (p : Placement) (c : Nat) : Span :=
  let n := (p.placed.filter (fun q => q.ctx == c)).length
  if 2 ≤ n then (planBase plan c, n * 0x5200)
  else if n = 0 && hwSlicing s c then (s.fld Fld.CTX_SLICE_SAVE_BASE c * 128, s.fld Fld.CTX_SLICE_LIST_LEN c * 0x5200)
  else (0, 0)

/-- May a hardware context take one more software context of a program by hardware slicing: it runs the program, at most 7
are added, nothing shares it by firmware slicing, the save areas fit into stook SRAM and meet no other context's
(R25, R104, R113)? -/
def seatOk (s : State) (plan : JobPlan) (p : Placement) (prog c : Nat) : Bool :=
  let n := seatedOn p prog c
  let b := planBase plan c
  1 ≤ n && n < 8 && b + (n + 1) * 0x5200 ≤ 0x800000 && !p.sliced.any (fun q => q.2.2 == c)
    && (List.range 32).all (fun i =>
      let k := stookOf c * 32 + i
      let a := areasOf s plan p k
      k == c || a.2 == 0 || !overlap b ((n + 1) * 0x5200) a.1 a.2)

/-- May an instance share a hardware context by firmware slicing: the context runs one instance of this job and no list, and no
other context of its tile is in use, so that all of the instance's tile SRAM may be swapped (R24, R25; log entry 109)? -/
def hostOk (s : State) (p : Placement) (c : Nat) : Bool :=
  (p.placed.filter (fun q => q.ctx == c)).length == 1
    && [0, 1, 2, 3].all (fun i =>
      let k := tileOf c * 4 + i
      k == c || (atRest (ctxAt s k) && !(p.placed.any (fun q => q.ctx == k)) && !(s.jobs.any (fun j => j.placed.any (fun q => q.ctx == k)))))

/-- Place one instance (R25): on the lowest free context, else by hardware slicing on the plan's next seat or the lowest context of
the program that can take one, else on the context of the job that fewest share by firmware slicing; none where there is no such
context. -/
def placeOne (s : State) (plan : JobPlan) (job prog inst : Nat) (e : List Byte) (p : Placement) : Option Placement :=
  match (List.range 2048).find? (fun c => ctxFree s p c && tileTakes p job prog (tileOf c) e) with
  | some c => some (seatOn p job prog inst c 0 e)
  | none =>
    match p.seats.find? (fun q => seatOk s plan p prog q.ctx) with
    | some q => some (seatOn { p with seats := p.seats.erase q } job prog inst q.ctx (seatedOn p prog q.ctx) e)
    | none =>
      match (p.placed.map Placed.ctx).find? (seatOk s plan p prog) with
      | some c => some (seatOn p job prog inst c (seatedOn p prog c) e)
      | none =>
        let load (c : Nat) : Nat := (p.sliced.filter (fun q => q.2.2 == c)).length
        let hosts := (p.placed.map Placed.ctx).filter (hostOk s p)
        match hosts.find? (fun c => hosts.all (fun k => load c ≤ load k)) with
        | some c => some (withImage { p with sliced := p.sliced ++ [(prog, inst, c)] } job prog c e)
        | none => none

/-- Place every instance of every program, in table order and instance order. -/
def placeAll (s : State) (plan : JobPlan) (d : List Byte) : Option Placement :=
  (List.range (jobProgs d)).foldl (fun (p : Option Placement) i =>
    let e := progEntry s d i
    (List.range (progCount e)).foldl (fun (p : Option Placement) n => p.bind (placeOne s plan (jobIdOf d) i n e)) p)
    (some { images := s.images, seats := plan.seats })

/-! ## What firmware writes -/

/-- The job context of the permutation units (R219). -/
def permCtxBytes (s : State) (d : List Byte) : List Byte :=
  (d.drop 8).take 16 ++ leBytes 8 (jobN d) ++ leBytes 4 (jobB d) ++ leBytes 4 (leAt d 0x18 4) ++ leBytes 4 (jobN d / jobB d)
    ++ leBytes 2 (s.fld Fld.ROPE_STATUS_MODULE_ID 0) ++ leBytes 1 (leAt d 5 1) ++ leBytes 1 1 ++ leBytes 8 (jobShard d)
    ++ leBytes 8 0 ++ leBytes 2 (jobBalerCtx s d).ringMin ++ leBytes 6 0

/-- The job context of the balers (R257). -/
def balerCtxBytes (s : State) (d : List Byte) : List Byte :=
  leBytes 8 (jobConsumers d) ++ leBytes 4 (jobB d) ++ leBytes 2 (jobC d) ++ leBytes 2 (jobBalerCtx s d).ringMin
    ++ leBytes 4 (leAt d 0x2C 4) ++ leBytes 1 1 ++ List.replicate 43 0

/-- The argument block of an instance (R24). -/
def argBlock (a : Nat) (d e : List Byte) (q : Placed) : List Byte :=
  leBytes 4 q.inst ++ leBytes 4 (progCount e) ++ leBytes 8 a ++ leBytes 1 (jobIdOf d) ++ leBytes 1 q.prog ++ leBytes 6 0
    ++ (e.drop 0x28).take 24 ++ leBytes 16 0

/-- The address of an instance's argument block. -/
def argAddr (e : List Byte) (q : Placed) : Nat :=
  tileBase + tileOf q.ctx * 0x100000 + progArg e + (q.ctx % 4 * 8 + q.slice) * 64

/-- The registers of a hardware context for the first of `n` instances on it; a list of 2 to 8 slices in hardware. -/
def setupCtx (s : State) (c job n base quantum : Nat) (e : List Byte) : State :=
  let s := setCtx s c { st := .idle, pc := BitVec.ofNat 64 (progLoad e + leAt e 0x10 4) }
  let s := s.wr .CTX_WIN c (BitVec.ofNat 64 (leAt e 0x18 4))
  let s := s.wr .CTX_CTL c (BitVec.ofNat 64 (leAt e 0x20 2 * 2 ^ 12 + job * 2 ^ 16))
  s.wr .CTX_SLICE c (if 2 ≤ n then BitVec.ofNat 64 (quantum + n * 2 ^ 32 + base * 2 ^ 40) else 0)

/-- The save area of a software context that has not run yet (R104): registers zero, the PC at the entry, RUNNING. -/
def freshArea (e : List Byte) : List Byte :=
  saveBytes { st := .running, pc := BitVec.ofNat 64 (progLoad e + leAt e 0x10 4) } ++ List.replicate 0x4000 0

/-- The quantum of a program's instances: the entry's, or firmware's own when that is 0 (R25). -/
def progQuantum (plan : JobPlan) (e : List Byte) : Nat := if leAt e 0x24 4 = 0 then plan.quantum.toNat else leAt e 0x24 4

/-- Bring one placed instance into being: its argument block, and its context or its save area. A context that is shared by
firmware slicing has a quantum and no list (R101). -/
def makeInstance (s : State) (plan : JobPlan) (m a : Nat) (d : List Byte) (p : Placement) (q : Placed) : State :=
  let e := progEntry s d q.prog
  let s := memPut s m (argAddr e q) (argBlock a d e q)
  let base := planBase plan q.ctx / 128
  if q.slice = 0 then
    let s := setupCtx s q.ctx (jobIdOf d) (seatedOn p q.prog q.ctx) base (progQuantum plan e) e
    if p.sliced.any (fun k => k.2.2 == q.ctx) then s.setFld Fld.CTX_SLICE_QUANTUM q.ctx (progQuantum plan e) else s
  else memPut s m (stookBase + stookOf q.ctx * 0x800000 + base * 128 + q.slice * 0x5200) (freshArea e)

/-- An image is copied from DRAM to tile SRAM; words that a poisoned line covers have bad parity (R324). -/
def copyImage (s : State) (m : Nat) (g : CodeImage) : State :=
  let a := tileBase + g.tile * 0x100000 + g.load
  let r := memRead s m 3 g.dram g.len
  (poisonedWords s m (g.dram, g.len) (a, g.len)).foldl (fun s w => setBad s w true) (memPut r.st m a r.data)

/-- An instance left to firmware slicing, switched out before it has run: its context at the entry, its image and its
argument block (R24, R25); words of the image that a poisoned line covers have bad parity (R324). -/
def freshParked (s : State) (a : Nat) (d : List Byte) (q : Nat × Nat × Nat) : Parked :=
  let e := progEntry s d q.1
  let k : Placed := ⟨q.1, q.2.1, q.2.2, 0⟩
  { job := jobIdOf d, prog := q.1, inst := q.2.1, ctx := q.2.2,
    saved := { st := .idle, pc := BitVec.ofNat 64 (progLoad e + leAt e 0x10 4) },
    win := BitVec.ofNat 64 (leAt e 0x18 4), ctl := BitVec.ofNat 64 (leAt e 0x20 2 * 2 ^ 12 + jobIdOf d * 2 ^ 16),
    sram := [(progLoad e, peek s (leAt e 0 8) (progLen e)), (argAddr e k % 0x100000, argBlock a d e k)], acc := [],
    badWords := (poisonedWords s 0x10 (leAt e 0 8, progLen e) (progLoad e, progLen e)) }

/-- Write the placed job into the machine and start its contexts. -/
def installJob (s : State) (plan : JobPlan) (m a : Nat) (d : List Byte) (p : Placement) : State :=
  let fresh := p.images.filter (fun g => g.job == jobIdOf d && p.placed.any (fun q => q.prog == g.prog && tileOf q.ctx == g.tile))
  let s := fresh.foldl (fun s g => copyImage s m g) s
  let s := p.placed.foldl (fun s q => makeInstance s plan m a d p q) s
  let s := { s with parked := s.parked ++ p.sliced.map (freshParked s a d) }
  let s := (List.range 4).foldl (fun s x =>
    (s.setFld Fld.PERM_CTX_BASE_BASE x (s.fld Fld.PERM_CTX_BASE_BASE 0)).setFld Fld.BALER_CTX_BASE_BASE x
      (s.fld Fld.BALER_CTX_BASE_BASE 0)) s
  let s := memPut s m (permCtxAddr s 0 (jobIdOf d)) (permCtxBytes s d)
  let s := memPut s m (balerCtxAddr s 0 (jobIdOf d)) (balerCtxBytes s d)
  let s := (s.wr .P_COUNTER (deliveredName (jobIdOf d)) 0).wr .P_COUNTER (releasedName (jobIdOf d)) 0
  let s := { freshTally s (jobIdOf d) with
                    images := p.images,
                    jobs := s.jobs ++ [({ id := jobIdOf d, addr := a, desc := d, placed := p.placed,
                                          sliced := p.sliced.map (fun q => (q.1, q.2.1)) } : LoadedJob)] }
  (p.placed.filter (fun q => q.slice == 0)).foldl (fun s q => startCtx s q.ctx) s

/-- The tables that firmware reads to check a job. -/
def jobTables (s : State) (d : List Byte) : List Span :=
  if jobFieldsOk d && (jobSpans d).all (fun p => inDram s p.1 p.2) then jobSpans d ++ [jobShardSpan s d] else []

/-- What firmware reads of memory before it may answer. -/
def jobReads (s : State) (d : List Byte) : List Span :=
  if jobFieldsOk d && (jobSpans d).all (fun p => inDram s p.1 p.2) then
    jobSpans d ++ [jobShardSpan s d]
      ++ (List.range (jobProgs d)).map (fun i => (leAt (progEntry s d i) 0 8, progLen (progEntry s d i)))
  else []

/-- What firmware writes to DRAM when it loads the job. -/
def jobWrites (s : State) (d : List Byte) : List Span := [(permCtxAddr s 0 (jobIdOf d), 64), (balerCtxAddr s 0 (jobIdOf d), 64)]

/-- Firmware takes the notice of channel `n` on core `k`: it validates the job, places it and replies (R21, R25). A poisoned line of
the descriptor or of a table refuses the job with a free failure status, which no rule names (log entry 129). -/
def loadJob (s : State) (k n : Nat) (plan : JobPlan) : State :=
  let m := 0x10 + k
  let a := s.fld Fld.MBOX_RX_ADDR_ADDR n
  if (mcAt s k).inReset || !isReceiver s m n || !s.flag Fld.MBOX_CH_STAT_FULL n || pdiesDown s then s
  else if !inDram s a 256 then popChannel s n 0x07
  else
    match prepare s m [(a, 256)] [] with
    | .stall s => s
    | .go =>
      let r := memRead s m 3 a 256
      let d := r.data
      match prepare s m ((jobReads s d).filter (fun p => inDram s p.1 p.2)) (jobWrites s d) with
      | .stall s => s
      | .go =>
        let (bad, s) := readSpans r.st m ((jobTables s d).filter (fun p => inDram s p.1 p.2))
        let st := jobStatus s a d
        if r.bad || bad then let (c, s) := anyFailure s; popChannel s n c
        else if st ≠ 0 then popChannel s n st
        else
          match placeAll s plan d with
          | none => popChannel s n 0x03
          | some p => popChannel (installJob s plan m a d p) n 0

/-! ## Firmware slicing (R25, R101): what firmware does between commands (log entry 109) -/

/-- The tile SRAM of the instance on a context: its whole window (R24). -/
def ownSram (s : State) (c : Nat) : Span :=
  let lo := s.fld Fld.CTX_WIN_TILE_LO c * 4096
  let hi := (s.fld Fld.CTX_WIN_TILE_HI c + 1) * 4096
  (lo, hi - lo)

/-- The instance resident on a context, switched out with its tile SRAM, bad words included. -/
def parkResident (s : State) (c : Nat) (id prog inst : Nat) : Parked :=
  let (o, n) := ownSram s c
  let base := tileBase + tileOf c * 0x100000
  { job := id, prog := prog, inst := inst, ctx := c, saved := ctxAt s c, win := s.rd .CTX_WIN c, ctl := s.rd .CTX_CTL c,
    sram := [(o, rawBytes s (base + o) n)], badWords := (badWords s (base + o) n).map (· - base / 4),
    acc := ([0, 1, 2, 3].filter (ownsAcc s c)).map (fun i => (i, accBytes s (tileOf c) i)) }

/-- May an instance that is switched out run on: it has not run yet, or its quantum ended it? -/
def parkedReady (q : Parked) : Bool := q.saved.st == .idle || (q.saved.st == .stopped && q.saved.cause == causeQuantum)

/-- An instance is switched in: its tile SRAM, accumulators, registers; START or RESUME. -/
def unpark (s : State) (q : Parked) : State :=
  let c := q.ctx
  let s := q.sram.foldl (fun s e => memPut s 0x10 (tileBase + tileOf c * 0x100000 + e.1) e.2) s
  let s := q.badWords.foldl (fun s w => setBad s ((tileBase + tileOf c * 0x100000) / 4 + w) true) s
  let s := q.acc.foldl (fun s e => setAccBytes s (tileOf c) e.1 e.2) s
  let s := setCtx ((s.wr .CTX_WIN c q.win).wr .CTX_CTL c q.ctl) c q.saved
  if q.saved.st = .idle then startCtx s c else resumeCtx s c

/-- The instance that a loaded job has resident on a context: job, program, instance. -/
def residentOf (s : State) (c : Nat) : Option (Nat × Nat × Nat) :=
  s.jobs.findSome? (fun j => (j.placed.find? (fun q => q.ctx == c)).map (fun q => (j.id, q.prog, q.inst)))

/-- Firmware switches the instances of one context whose quantum has ended, or that has halted: it takes the stop's pending bit
(R100), the resident instance goes to the end of the rotation, and the first that may run comes in. -/
def sliceCtx (s : State) (c : Nat) : State :=
  match s.parked.find? (fun q => q.ctx == c && parkedReady q), residentOf s c with
  | some q, some (id, prog, inst) =>
    let out := parkResident s c id prog inst
    let s := { s with parked := s.parked.erase q ++ [out],
                      jobs := s.jobs.map (fun (j : LoadedJob) => if j.id = id then
                        { j with placed := j.placed.map (fun (k : Placed) => if k.ctx = c then { k with prog := q.prog, inst := q.inst } else k) } else j) }
    let k := stookOf c
    unpark (relevel (s.wr .STOOK_IRQ_PEND k (withField (s.rd .STOOK_IRQ_PEND k) (c % 32) 1 0)) (512 + k)) q
  | _, _ => s

/-- A context that firmware slicing may switch: stopped at its quantum's end, or halted. -/
def sliceDue (s : State) (c : Nat) : Bool :=
  let x := ctxAt s c
  x.st == .stopped && !x.held && (x.cause == causeQuantum || x.cause == causeHalt)
    && s.parked.any (fun q => q.ctx == c && parkedReady q)

/-- The state, cause and attempt count of a software context of an instance: of its hardware context, or of its save area (R104). -/
def instanceState (s : State) (q : Placed) : Nat × Nat × Nat :=
  let x := ctxAt s q.ctx
  if !hwSlicing s q.ctx || s.fld Fld.CTX_SLICE_CUR q.ctx == q.slice then (ctxStateCode x.st, x.cause, x.attempt)
  else
    let b := peek s (saveAddr s q.ctx q.slice) 0x200
    (leAt b 0x131 1, leAt b 0x132 1, leAt b 0x130 1)

/-- Has a step of the instance failed twice, so that it is STOPPED with PARITY_REPLAY_FAILED (R88, R92)? -/
def failedTwice (s : State) (q : Placed) : Bool := instanceState s q == (3, causeParity, 1)

/-- Firmware ends the jobs of which a step has failed twice, with status PARITY_REPLAY_FAILED (R92). -/
def endFailedJobs (s : State) : State :=
  (s.jobs.filter (fun j => j.placed.any (failedTwice s))).foldl (fun s j => stopJob s j.id 0x0B) s

/-- What the block does when no command waits: firmware reports the steps that have been delivered (R445), ends the jobs that have
delivered their last (R213) or of which a step has failed twice (R92), and makes the switches that are due (R25). -/
def idleWork (s : State) : State :=
  if [0, 1, 2, 3].all (fun k => (mcAt s k).inReset) then s
  else
    let s := endFailedJobs (endSpentJobs ((s.jobs.map LoadedJob.id).foldl cairnsDue s))
    ((s.parked.map Parked.ctx).eraseDups.filter (sliceDue s)).foldl sliceCtx s

/-- JOB_LOAD (R21). -/
def execJobLoad (k : Fin 4) (n : Fin 64) (plan : JobPlan) (s : State) : Host.Outcome State Fault Refusal :=
  .next (loadJob s k n plan)

end Sys2Proof.Machine
end

