-- ==== Sys2Proof/Machine/Power.lean ====
section
/-!
DEFINITION. Power states (R476 to R490).
-/
namespace Sys2Proof.Machine

/-! ## Requests (R479 to R481) -/

/-- May a master request a target (R479, R511)? -/
def powerMaster (m t : Nat) : Bool :=
  match t with
  | 0 => m == 1 || m == 2 || isCoreMaster m || m == 0x1F
  | 1 | 2 => m == 1 || m == 2 || isCoreMaster m
  | _ => isCoreMaster m

/-- Is some core or context held by a debug session? -/
def someHeld (s : State) : Bool := s.ctx.any (fun e => e.2.held) || s.mc.any (fun e => e.2.held)

/-- The lowest tile with a context that is neither IDLE nor STOPPED. -/
def busyTile (s : State) : Option Nat := (s.ctx.find? (fun e => !atRest e.2)).map (fun e => e.1 / 4)

/-- The P-die engines in master-ID order. -/
def pdieUnits : List EngUnit :=
  (List.range 64).map .thresher ++ (List.range 16).map .stream ++ (List.range 4).map .baler ++ (List.range 4).map .perm
    ++ (List.range 4).map .token ++ (List.range 4).map .pool ++ (List.range 64).map .dma

/-- The first P-die engine whose queue is not empty. -/
def busyEngine (s : State) : Option Nat := (pdieUnits.find? (fun u => !(jobsOf s u).isEmpty)).map unitMaster

/-- Does a span lie in tile or stook SRAM? -/
def inSram (s : State) (p : Span) : Bool :=
  p.2 != 0 && (match regionOf s p.1 with
    | .stook _ | .tile _ => true
    | _ => false)

/-- Does a Furrow engine hold a message or key with a span in SRAM, or a WAIT on a P-die counter? -/
def furrowTouchesPdie (s : State) (x : Nat) : Bool :=
  (jobsOf s (.furrow x)).any (fun j => inSram s (furLocal j) || (j.op == 5 && furWaitName j < 0x4000))
    || s.keys.any (fun e => e.2.st != 0 && inSram s (e.2.base, e.2.len))

/-- The failing check of R481 and its refuser. -/
def entryCheck (s : State) (t : Nat) : Option (Nat × Nat) :=
  if s.flag Fld.PWR_STATUS_BUSY 0 || partialReset s then some (1, 0x3FF)
  else if t ≤ 2 && s.fld Fld.BRINGUP_STEP_DONE 0 != 9 then some (2, 0x3FF)
  else if someHeld s then some (3, 0x1F)
  else if t = 1 then none
  else
    match busyTile s, busyEngine s with
    | some k, _ => some (4, 0x100 + k)
    | none, some m => some (5, m)
    | none, none =>
      if flashTouchesSram s 0 then some (6, 0x380) else if flashTouchesSram s 1 then some (6, 0x381)
      else if furrowTouchesPdie s 0 then some (6, 0x390) else if furrowTouchesPdie s 1 then some (6, 0x391)
      else if 3 ≤ t && isLead s && s.flag Fld.ROPE_STATUS_FORMED 0
          && (List.range 32).any (fun n => n != 0 && s.fld Fld.ROPE_MEMBER_STATE n == 1) then some (7, 0x10)
      else none

/-- An entry is refused (R481). -/
def refuseEntry (s : State) (t chk id : Nat) : State :=
  let s := (s.satAdd Fld.PWR_REFUSE_REFUSED 0 1).setFld Fld.PWR_REFUSE_LAST_ID 0 id
  let s := ((s.setFld Fld.PWR_REFUSE_LAST_TARGET 0 t).setFld Fld.PWR_REFUSE_LAST_CHECK 0 chk).setFld Fld.PWR_REFUSE_LAST_KIND 0 0
  raiseSource s 9

/-- An accepted entry begins (R482): M1 has no DRAIN; else every tracked line is snooped. -/
def beginEntry (s : State) (t : Nat) : State :=
  let s := { s.setFld Fld.PWR_STATUS_BUSY 0 1 with pwr := { s.pwr with target := t, aborting := false, held := none } }
  if t = 1 then s.setFld Fld.PWR_STATUS_PHASE 0 2
  else snoopTracked (s.setFld Fld.PWR_STATUS_PHASE 0 1)

/-- The wake cause of an M0 request by a master: 1 host, 2 management core; none is stated for debug. -/
def requestCause (s : State) (m : Nat) : Nat × State :=
  if isCoreMaster m then (2, s)
  else if m = 0x1F then let (v, s) := s.fresh 4; (v.toNat, s)
  else (1, s)

/-- An M0 request: an exit from M1 to M3 (R480), an abort in DRAIN (R483), a wake event that CUT holds (R484, R487). Any other while
BUSY is set is refused at check 1 (R484; log entry 81). -/
def requestRun (s : State) (m : Nat) : State :=
  match pwrPhase s with
  | 0 =>
    if 1 ≤ pwrState s ∧ pwrState s ≤ 3 then let (c, s) := requestCause s m; startExit s c 0 else s
  | 1 => if s.pwr.aborting then refuseEntry s 0 1 0x3FF else abortEntry s m
  | 2 =>
    if wakesFrom s (if isCoreMaster m then 2 else 1) s.pwr.target && s.pwr.held.isNone then
      let (c, s) := requestCause s m
      { s with pwr := { s.pwr with held := some (c, 0) } }
    else refuseEntry s 0 1 0x3FF
  | _ => refuseEntry s 0 1 0x3FF

/-- A write of PWR_REQ (R479 to R481). A master without the request, and every request in DECOMMISSIONED (R511), is refused with a
class 1 violation; a TARGET that no state has does nothing. -/
def writePwrReq (s : State) (m : Nat) (a : CsrAcc) : State :=
  let t := Fld.PWR_REQ_TARGET.presented a
  if !Fld.PWR_REQ_TARGET.reached a then s
  else if !powerMaster m (if t ≤ 4 then t else 0) || lifecycle s = 4 then violation s 1 m (regAddr .PWR_REQ 0) true
  else if t > 4 then s
  else if t = 0 then requestRun s m
  else if t ≤ pwrState s && !s.flag Fld.PWR_STATUS_BUSY 0 then s
  else
    match entryCheck s t with
    | some (chk, id) => refuseEntry s t chk id
    | none => beginEntry s t

/-! ## Phases -/

/-- Every host link that is up and does not run at ×8 on lanes 0 to 7 retrains to that (R402, R477); `ok` says which trainings
succeed. -/
def narrowLinks (s : State) (ok : List Bool) : State :=
  [0, 1].foldl (fun s x =>
    if linkUp s x && s.fld Fld.HL_STATUS_WIDTH x != 1 then trainLink s x false (ok.getD x false) false (s.flag Fld.HL_STATUS_REVERSED x) else s) s

/-- The host links train as they came up first, from ×16 (R402, R486): those that are up, or with `all` each of them. -/
def widenLinks (s : State) (ts : List LinkTrain) (all : Bool) : State :=
  [0, 1].foldl (fun s x =>
    match ts[x]? with
    | some t => if all || linkUp s x then trainLink s x t.ok16 t.okLo t.okHi t.rev else s
    | none => s) s

/-- Is a flash task of a READWRITE volume outstanding? The FLUSH of an entry to M3 or M4, an ordered one, waits for it
(R291). -/
def flushWaits (s : State) : Bool :=
  [0, 1].any (fun x => (tasksOf s x).any (fun t => volState s x t.vol == 3))

/-- DRAIN ends (R482, R483): once no line is tracked the links retrain to ×8; M3 and M4 then flush every READWRITE volume. A line
tracked since DRAIN began is snooped too. Whether a link trains to its low lanes is free (log entry 123). -/
def drainEnd (s : State) : State :=
  if pwrPhase s ≠ 1 || s.pwr.aborting then s
  else if !s.snoop.isEmpty || !s.snps.isEmpty then snoopTracked s
  else
    let (ok, s) := s.fresh 2
    let s := narrowLinks s [ok.getLsbD 0, ok.getLsbD 1]
    if 3 ≤ s.pwr.target && flushWaits s then s
    else
      match (if 3 ≤ s.pwr.target then flashFlushAll s else .ok 0 s) with
      | .ok _ s => s.setFld Fld.PWR_STATUS_PHASE 0 2
      | .wait s => s
      | .fail x s => abortEntry s (0x380 + x)

/-- Interfaces go down with M2 or M3 (R477): all but interface 0 of the field ports, or every one. -/
def portsDown (s : State) (all : Bool) : State :=
  (List.range 2).foldl (fun s x => (List.range 8).foldl (fun s p => (List.range 8).foldl (fun s i =>
    if ifUp s x p i && (all || (p != 7 && i != 0)) then portLinkDown s x p i else s) s) s) s

/-- What M3 and M4 lose: DRAM, links, P-dies, X-die engine state (R477, the table of states). The rope keeps its ID. -/
def standby (s : State) : State :=
  let s := moveBypass (portsDown (hostLinkDown (hostLinkDown s 0) 1) true) 0
  let s := tearOpen (loseDram (pdieReset s))
  let t := flashMedia s { s with
      heldPuts := [], tagWait := [], homeQ := [], phy := [],
      csr := Cells.drop xdieKey s.csr, eng := [], devReq := [], hostBuf := [], snoop := [], snps := [], link := [], schedQ := [],
      sched := [], polTokens := [], egressWait := [], portIf := [], nrEmpty := [], qps := [], keys := [], fur := [],
      markCnt := [], replSeq := 0 }
  relevel (relevel t 384) 448

/-- CUT ends (R482, R484): STATE takes the target, BUSY clears, source 8; a held wake event starts an exit. -/
def cutEnd (s : State) : State :=
  if pwrPhase s ≠ 2 then s
  else
    let t := s.pwr.target
    let s : State := match t with
      | 1 => s
      | 2 => pdieReset (portsDown s false)
      | 3 => standby s
      | _ => let s := standby s; { s with mc := [], pins := { s.pins with offReqN := false } }
    let s := ((s.setFld Fld.PWR_STATUS_STATE 0 t).setFld Fld.PWR_STATUS_BUSY 0 0).setFld Fld.PWR_STATUS_PHASE 0 0
    let h := s.pwr.held
    let s := raiseSource { s with pwr := { s.pwr with target := 0, held := none } } 8
    match h with
    | some (c, p) => startExit s c p
    | none => s

/-- An abort has settled (R483). -/
def abortSettled (s : State) : State :=
  if !s.pwr.aborting then s
  else
    pumpAll { (s.setFld Fld.PWR_STATUS_BUSY 0 0).setFld Fld.PWR_STATUS_PHASE 0 0 with
      pwr := { s.pwr with target := 0, aborting := false, held := none } }

/-- An exit completes (R486): source 8. From M2 the die-to-die links are checked and the host links return to ×16; from M3 the floor
plan is clear, DONE is 0, READY and MEM_IL, which bring-up sets again, are at reset, and the host links train. The units that do not
come back are marked failed; these and the outcomes of check and training are free (log entry 123). -/
def exitComplete (s : State) : State :=
  if pwrPhase s ≠ 3 then s
  else
    let (n, s) := s.draw Config.exitNews
    let s : State := match s.pwr.exitFrom with
      | 2 => widenLinks (d2dCheck s (n.d2d.map BitVec.toNat)) [n.train0, n.train1] false
      | 3 =>
        let s := (List.range 48).foldl (fun (s : State) w => s.wr .FLOOR w 0) s
        let s := ((s.setFld Fld.BRINGUP_STEP_DONE 0 0).setFld Fld.BRINGUP_STEP_READY 0 0).wr .MEM_IL 0 0
        widenLinks s [n.train0, n.train1] true
      | _ => { s with gated := 0 }
    let s := n.lost.foldl (fun s e => markFloor s e.1.val e.2.toNat) s
    let s := ((s.setFld Fld.PWR_STATUS_STATE 0 0).setFld Fld.PWR_STATUS_BUSY 0 0).setFld Fld.PWR_STATUS_PHASE 0 0
    pumpAll (raiseSource { s with pwr := {} } 8)

/-! ## Wake events (R487 to R489) -/

/-- Is this a wake frame for the module (R488)? -/
def isWakeFrame (s : State) (x p i : Nat) (dst payload : List Byte) : Bool :=
  let id := leBytes 2 (moduleId s)
  (dst == List.replicate 6 0xFF || dst == beBytes 6 (s.fld Fld.PORT_MAC_MAC (portCopy x p) + i))
    && payload.take 16 == List.replicate 6 0xFF ++ id ++ id ++ id ++ id ++ leBytes 2 (s.fld Fld.PWR_WAKE_KEY 0)

/-- May a stook be gated (R476)? -/
def mayGate (s : State) (k : Nat) : Bool :=
  pwrState s == 1 && (List.range 32).all (fun c => atRest (ctxAt s (32 * k + c)))
    && (jobsOf s (.thresher k)).isEmpty && (jobsOf s (.dma k)).isEmpty

/-! ## Body bias and SRAM assist (R490) -/

/-- The body bias in millivolts of logic that runs in a state: a die's fused code in steps of 10 mV up to M1, 0 mV
deeper. -/
def logicBias (s : State) (die : Nat) : Int := if pwrState s ≤ 1 then 10 * ((s.fuses.fbb.getD die 0 : Nat) : Int) else 0

/-- The supply of stook k (P-die k div 16): body bias of its logic and setting of its SRAM (R490). -/
def stookSupply (s : State) (k : Nat) : Supply :=
  if 2 ≤ pwrState s then .unpowered
  else if s.gated.testBit k then .powered (-300) (.retention 600)
  else .powered (logicBias s (k / 16)) (.assist 80 30)

/-- The supply of X-die x outside the management island: 0 mV in M2, unpowered from M3 on (R490). -/
def xdieSupply (s : State) (x : Nat) : Supply :=
  if 3 ≤ pwrState s then .unpowered else .powered (logicBias s (4 + x)) (.assist 80 30)

/-- The supply of the management island: that of its X-die up to M2, 0 mV with assist in M3 (R490); M4 runs nothing. -/
def islandSupply (s : State) : Supply :=
  if 4 ≤ pwrState s then .unpowered else .powered (logicBias s 4) (.assist 80 30)

/-- The anchor's supply: 0 mV in every state it runs in (R490); it has no SRAM row of its own. -/
def anchorBias (s : State) : Option Int := if 4 ≤ pwrState s then none else some 0

/-! ## Commands -/

/-- A write of PWR_REQ that presents a target. -/
def powerRequest (t : Nat) (m : Master) (a : CsrAcc) (s : State) : State :=
  if Fld.PWR_REQ_TARGET.reached a && Fld.PWR_REQ_TARGET.presented a = t then writePwrReq s m.toNat a else s

/-- REQUEST_M0 (R480). -/
def execRequestM0 (m : Master) (a : CsrAcc) (s : State) : Host.Outcome State Fault Refusal :=
  .next (onModule s (fun s => powerRequest 0 m a s))
/-- REQUEST_M1 (R481). -/
def execRequestM1 (m : Master) (a : CsrAcc) (s : State) : Host.Outcome State Fault Refusal :=
  .next (onModule s (fun s => powerRequest 1 m a s))
/-- REQUEST_M2 (R481). -/
def execRequestM2 (m : Master) (a : CsrAcc) (s : State) : Host.Outcome State Fault Refusal :=
  .next (onModule s (fun s => powerRequest 2 m a s))
/-- REQUEST_M3 (R481). -/
def execRequestM3 (m : Master) (a : CsrAcc) (s : State) : Host.Outcome State Fault Refusal :=
  .next (onModule s (fun s => powerRequest 3 m a s))
/-- REQUEST_M4 (R481). -/
def execRequestM4 (m : Master) (a : CsrAcc) (s : State) : Host.Outcome State Fault Refusal :=
  .next (onModule s (fun s => powerRequest 4 m a s))

/-- DRAIN_END (R482). -/
def execDrainEnd (s : State) : Host.Outcome State Fault Refusal := .next (drainEnd s)

/-- CUT_END (R482). -/
def execCutEnd (s : State) : Host.Outcome State Fault Refusal := .next (cutEnd s)

/-- ABORT_SETTLED (R483). -/
def execAbortSettled (s : State) : Host.Outcome State Fault Refusal := .next (abortSettled s)

/-- EXIT_COMPLETE (R486). -/
def execExitComplete (s : State) : Host.Outcome State Fault Refusal := .next (exitComplete s)

/-- WAKE_FRAME (R488): an untagged frame with its destination MAC and payload; it is dropped under R357. -/
def execWakeFrame (x : XDie) (i : RxInfo) (dst payload : List Byte) (s : State) : Host.Outcome State Fault Refusal :=
  let p := i.port.val
  let (ok, t) := ingress s x i
  if !ok || p = 8 || !ifEnabled s x p i.iface then .next t
  else
    let t := if isWakeFrame t x p i.iface dst payload then wakeEvent t 4 (wakePort x p) (0x390 + x) else t
    .next (furDrop t x)

/-- WAKE_SENSE (R489): a crossing that has lasted 1,000 SCLK cycles. It makes no power request in DECOMMISSIONED (R511). -/
def execWakeSense (s : State) : Host.Outcome State Fault Refusal :=
  .next (onModule s (fun s =>
    let s := raiseSource { s with pins := { s.pins with wakeSense := true } } 10
    if inService s || lifecycle s == 4 then s else wakeEvent s 5 0 0x3FF))

/-- STOOK_GATE (R476). -/
def execStookGate (k : StookId) (s : State) : Host.Outcome State Fault Refusal :=
  .next (if mayGate s k && !s.gated.testBit k then { s with gated := s.gated + 2 ^ k.val } else s)

/-- STOOK_UNGATE (R476). -/
def execStookUngate (k : StookId) (s : State) : Host.Outcome State Fault Refusal := .next (ungate s k)

end Sys2Proof.Machine
end

