-- ==== Sys2Proof/Machine/Inflate.lean ====
section
/-!
DEFINITION. Decompression of DEFLATE, zlib and gzip (R341; RFC 1950 to 1952), byte by byte under an output limit (R339).
-/
namespace Sys2Proof.Machine

/-- Why a decoder stops: its input ended, is corrupt, asks for something unsupported, fails a check value, or its output
would pass the limit. -/
inductive DecErr where
  | short | corrupt | unsup | check | full
  deriving DecidableEq, Repr

/-- A decoder: bits of input consumed, output in reverse, its length, the error that stopped it. -/
structure Dec where
  pos : Nat := 0
  out : List Byte := []
  n : Nat := 0
  err : Option DecErr := none

/-- Emit bytes, up to the limit. -/
def Dec.emit (cap : Nat) (d : Dec) (bs : List Byte) : Dec :=
  let t := bs.take (cap - d.n)
  { d with out := t.reverse ++ d.out, n := d.n + t.length, err := if bs.length ≤ cap - d.n then d.err else some .full }

/-- Stop with an error. -/
def Dec.fail (d : Dec) (e : DecErr) : Dec := { d with err := some e }

/-- Input to a decoder: its bits as a number, and how many there are. -/
structure DecIn where
  bits : Nat
  len : Nat

/-- The input of a list of bytes. -/
def DecIn.of (bs : List Byte) : DecIn := ⟨leNat bs, 8 * bs.length⟩

/-- Read `k` bits, least significant first. -/
def Dec.get (i : DecIn) (d : Dec) (k : Nat) : Nat × Dec :=
  if d.pos + k ≤ i.len then (bits i.bits d.pos k, { d with pos := d.pos + k }) else (0, { d with pos := i.len, err := some .short })

/-- Continue to the next byte boundary. -/
def Dec.align (d : Dec) : Dec := { d with pos := ceilDiv d.pos 8 * 8 }

/-- The `n` bytes of a match at distance `k` behind the end of a reversed output. -/
def matchBytes (out : List Byte) (k n : Nat) : List Byte :=
  let w := (out.take k).reverse
  (List.range n).map (fun j => w.getD (j % k) 0)

/-! ## Huffman codes (RFC 1951, 3.2.2) -/

/-- A canonical code: how many codes have each length 0 to 15, and the symbols in order of code. -/
structure Huff where
  counts : List Nat
  syms : List Nat

/-- The code of a list of lengths. -/
def Huff.of (lens : List Nat) : Huff :=
  let at_ (l : Nat) : List Nat := (lens.zipIdx.filter (fun e => e.1 == l)).map Prod.snd
  ⟨(List.range 16).map (fun l => if l = 0 then 0 else (at_ l).length), (List.range 15).flatMap (fun l => at_ (l + 1))⟩

/-- Codes of each length used, in units of 2^-15. -/
def Huff.sum (h : Huff) : Nat := (h.counts.zipIdx.map (fun e => e.1 * 2 ^ (15 - e.2))).foldl (· + ·) 0

/-- A set of lengths that gives each bit string at most one meaning and leaves none unused; a lone code of length 1, and
for distances no code at all, may stand alone. -/
def Huff.ok (h : Huff) (alone : Bool) : Bool :=
  h.sum == 2 ^ 15 || (alone && (h.syms.isEmpty || (h.syms.length == 1 && h.counts.getD 1 0 == 1)))

/-- Decode a symbol, one bit at a time. -/
def Huff.sym (h : Huff) (i : DecIn) : Nat → Nat → Nat → Nat → Nat → Dec → Nat × Dec
  | 0, _, _, _, _, d => (0, d.fail .corrupt)
  | f + 1, l, code, first, index, d =>
    let (b, d) := d.get i 1
    if d.err.isSome then (0, d)
    else
      let code := code + b
      let c := h.counts.getD l 0
      if code < first + c then (h.syms.getD (index + (code - first)) 0, d)
      else h.sym i f (l + 1) (2 * code) (2 * (first + c)) (index + c) d

/-- Decode a symbol. -/
def Huff.read (h : Huff) (i : DecIn) (d : Dec) : Nat × Dec := h.sym i 15 1 0 0 0 d

/-! ## Blocks (RFC 1951, 3.2.3 to 3.2.7) -/

/-- Base and extra bits of length codes 257 to 285. -/
def lengthCodes : List (Nat × Nat) :=
  [(3, 0), (4, 0), (5, 0), (6, 0), (7, 0), (8, 0), (9, 0), (10, 0), (11, 1), (13, 1), (15, 1), (17, 1), (19, 2), (23, 2),
   (27, 2), (31, 2), (35, 3), (43, 3), (51, 3), (59, 3), (67, 4), (83, 4), (99, 4), (115, 4), (131, 5), (163, 5),
   (195, 5), (227, 5), (258, 0)]

/-- Base and extra bits of distance codes 0 to 29. -/
def distCodes : List (Nat × Nat) :=
  [(1, 0), (2, 0), (3, 0), (4, 0), (5, 1), (7, 1), (9, 2), (13, 2), (17, 3), (25, 3), (33, 4), (49, 4), (65, 5), (97, 5),
   (129, 6), (193, 6), (257, 7), (385, 7), (513, 8), (769, 8), (1025, 9), (1537, 9), (2049, 10), (3073, 10), (4097, 11),
   (6145, 11), (8193, 12), (12289, 12), (16385, 13), (24577, 13)]

/-- The order of code length code lengths. -/
def clOrder : List Nat := [16, 17, 18, 0, 8, 7, 9, 6, 10, 5, 11, 4, 12, 3, 13, 2, 14, 1, 15]

/-- Lengths of the fixed literal and length code. -/
def fixedLens : List Nat := List.replicate 144 8 ++ List.replicate 112 9 ++ List.replicate 24 7 ++ List.replicate 8 8

/-- The symbols of a compressed block, to its end-of-block code. -/
def inflateCodes (i : DecIn) (cap start : Nat) (lit dist : Huff) : Nat → Dec → Dec
  | 0, d => d.fail .short
  | f + 1, d =>
    let (s, d) := lit.read i d
    if d.err.isSome then d
    else if s < 256 then
      let d := d.emit cap [BitVec.ofNat 8 s]
      if d.err.isSome then d else inflateCodes i cap start lit dist f d
    else if s = 256 then d
    else
      match lengthCodes[s - 257]? with
      | none => d.fail .corrupt
      | some (lb, le) =>
        let (x, d) := d.get i le
        if d.err.isSome then d
        else
          let (t, d) := dist.read i d
          if d.err.isSome then d
          else
            match distCodes[t]? with
            | none => d.fail .corrupt
            | some (db, de) =>
              let (y, d) := d.get i de
              if d.err.isSome then d
              else if d.n - start < db + y then d.fail .corrupt
              else
                let d := d.emit cap (matchBytes d.out (db + y) (lb + x))
                if d.err.isSome then d else inflateCodes i cap start lit dist f d

/-- The code lengths of a dynamic block (RFC 1951, 3.2.7); `acc` holds those read, in reverse. -/
def readLens (i : DecIn) (h : Huff) (total : Nat) : Nat → List Nat → Dec → List Nat × Dec
  | 0, acc, d => (acc, d)
  | f + 1, acc, d =>
    if total ≤ acc.length then (if acc.length = total then (acc.reverse, d) else ([], d.fail .corrupt))
    else
      let (s, d) := h.read i d
      if d.err.isSome then ([], d)
      else if s < 16 then readLens i h total f (s :: acc) d
      else
        let (base, k) := if s = 16 then (3, 2) else if s = 17 then (3, 3) else (11, 7)
        let (x, d) := d.get i k
        if d.err.isSome then ([], d)
        else if s = 16 ∧ acc.isEmpty then ([], d.fail .corrupt)
        else readLens i h total f (List.replicate (base + x) (if s = 16 then acc.headD 0 else 0) ++ acc) d

/-- A block with dynamic codes. -/
def inflateDynamic (i : DecIn) (cap start : Nat) (d : Dec) : Dec :=
  let (a, d) := d.get i 5
  let (b, d) := d.get i 5
  let (c, d) := d.get i 4
  if d.err.isSome then d
  else if a + 257 > 286 then d.fail .corrupt
  else
    let (ls, d) := (List.range (c + 4)).foldl (fun (r : List Nat × Dec) _ => let (x, d) := r.2.get i 3; (r.1 ++ [x], d)) ([], d)
    if d.err.isSome then d
    else
      let cl := Huff.of ((List.range 19).map (fun s => ((clOrder.zip ls).find? (fun e => e.1 == s)).elim 0 Prod.snd))
      if !cl.ok false then d.fail .corrupt
      else
        let total := a + 257 + b + 1
        let (lens, d) := readLens i cl total (total + 1) [] d
        let lit := Huff.of (lens.take (a + 257))
        let dist := Huff.of (lens.drop (a + 257))
        if d.err.isSome then d
        else if lens.getD 256 0 = 0 || !lit.ok true || !dist.ok true then d.fail .corrupt
        else inflateCodes i cap start lit dist (i.len + 1) d

/-- A stored block. -/
def inflateStored (i : DecIn) (cap : Nat) (d : Dec) : Dec :=
  let d := d.align
  let (l, d) := d.get i 16
  let (m, d) := d.get i 16
  if d.err.isSome then d
  else if l + m ≠ 0xFFFF then d.fail .corrupt
  else
    let have_ := min l ((i.len - d.pos) / 8)
    let e := { d with pos := d.pos + 8 * have_ }.emit cap (leBytes have_ (bits i.bits d.pos (8 * have_)))
    if e.err.isSome then e else if have_ < l then e.fail .short else e

/-- The blocks of a DEFLATE stream; `start` is the output length at its beginning. -/
def inflateBlocks (i : DecIn) (cap start : Nat) : Nat → Dec → Dec
  | 0, d => d.fail .short
  | f + 1, d =>
    let (last, d) := d.get i 1
    let (ty, d) := d.get i 2
    if d.err.isSome then d
    else
      let d := match ty with
        | 0 => inflateStored i cap d
        | 1 => inflateCodes i cap start (Huff.of fixedLens) (Huff.of (List.replicate 30 5)) (i.len + 1) d
        | 2 => inflateDynamic i cap start d
        | _ => d.fail .corrupt
      if d.err.isSome || last = 1 then d else inflateBlocks i cap start f d

/-- A raw DEFLATE stream from a byte boundary; it ends there too. -/
def inflateRaw (i : DecIn) (cap : Nat) (d : Dec) : Dec :=
  let d := inflateBlocks i cap d.n (i.len + 1) d
  if d.err.isSome then d else d.align

/-! ## Containers (R341) -/

/-- The bytes that a decoder has emitted since its output had length `start`. -/
def Dec.since (d : Dec) (start : Nat) : List Byte := (d.out.take (d.n - start)).reverse

/-- zlib. -/
def inflateZlib (i : DecIn) (cap : Nat) : Dec :=
  let d : Dec := {}
  let (cmf, d) := d.get i 8
  let (flg, d) := d.get i 8
  if d.err.isSome then d
  else if cmf % 16 ≠ 8 ∨ cmf / 16 > 7 ∨ (cmf * 256 + flg) % 31 ≠ 0 then d.fail .corrupt
  else if flg.testBit 5 then d.fail .unsup
  else
    let d := inflateRaw i cap d
    if d.err.isSome then d
    else
      let (a, d) := d.get i 32
      if d.err.isSome then d
      else if beNat (leBytes 4 a) ≠ adler32 (d.since 0) then d.fail .check else d

/-- Skip a zero-terminated field. -/
def skipString (i : DecIn) : Nat → Dec → Dec
  | 0, d => d.fail .short
  | f + 1, d =>
    let (b, d) := d.get i 8
    if d.err.isSome || b = 0 then d else skipString i f d

/-- One gzip member. -/
def gzipMember (i : DecIn) (cap : Nat) (d : Dec) : Dec :=
  let p := d.pos
  let start := d.n
  let (id, d) := d.get i 24
  let (flg, d) := if d.err.isSome || id ≠ 0x088B1F then (0, d) else d.get i 8
  if d.err.isSome then d
  else if id ≠ 0x088B1F ∨ 32 ≤ flg then d.fail .corrupt
  else
    let d := (d.get i 48).2
    let d := if d.err.isNone && flg.testBit 2 then
        let (x, d) := d.get i 16
        if d.err.isSome then d else (d.get i (8 * x)).2
      else d
    let d := if d.err.isNone && flg.testBit 3 then skipString i i.len d else d
    let d := if d.err.isNone && flg.testBit 4 then skipString i i.len d else d
    let d := if d.err.isNone && flg.testBit 1 then
        let q := d.pos
        let (c, d) := d.get i 16
        if d.err.isSome then d
        else if crc32 (leBytes ((q - p) / 8) (bits i.bits p (q - p))) % 65536 ≠ c then d.fail .check else d
      else d
    if d.err.isSome then d
    else
      let d := inflateRaw i cap d
      if d.err.isSome then d
      else
        let (t, d) := d.get i 64
        if d.err.isSome then d
        else
          let o := d.since start
          if t % 2 ^ 32 ≠ crc32 o ∨ t / 2 ^ 32 ≠ o.length % 2 ^ 32 then d.fail .check else d

/-- The members of a gzip input, to its end. -/
def gzipMembers (i : DecIn) (cap total : Nat) : Nat → Dec → Dec
  | 0, d => d
  | f + 1, d =>
    let d := gzipMember i cap d
    if d.err.isSome || total ≤ d.pos then d else gzipMembers i cap total f d

/-- INFLATE of a container: 0 raw, 1 zlib, 2 gzip. `total` counts the bits of the whole input span, of which `i` holds
those that can be read. -/
def inflate (container : Nat) (i : DecIn) (total cap : Nat) : Dec :=
  match container with
  | 0 => inflateRaw i cap {}
  | 1 => inflateZlib i cap
  | _ => gzipMembers i cap total (total + 1) {}

end Sys2Proof.Machine
end

