-- ==== Sys2Proof/Machine/Deflate.lean ====
section
/-!
DEFINITION. Compression (R343): a fixed function of the input, the container and the level.
-/
namespace Sys2Proof.Machine

/-! ## Matches -/

/-- A piece of the parse: a literal, or a match of a length and a distance. -/
inductive Token where
  | lit (b : Nat)
  | copy (len dist : Nat)
  deriving DecidableEq, Repr

/-- The length of the common prefix of two lists, at most `n`. -/
def commonLen : Nat → List Byte → List Byte → Nat
  | n + 1, a :: r, b :: q => if a = b then 1 + commonLen n r q else 0
  | _, _, _ => 0

/-- The nearest positions before the current one whose three bytes equal those here, at most `n`: distance and length.
`hist` is the text before the current position in reverse, `tail` the text from the candidate on, `here` the text from
the current position. -/
def candidates (here : List Byte) : Nat → Nat → List Byte → List Byte → Nat → List (Nat × Nat)
  | 0, _, _, _, _ => []
  | _, _, [], _, _ => []
  | f + 1, n, b :: r, tail, k =>
    if n = 0 then []
    else
      let t := b :: tail
      if 3 ≤ here.length ∧ t.take 3 = here.take 3 then
        (k, commonLen 258 t here) :: candidates here f (n - 1) r t (k + 1)
      else candidates here f n r t (k + 1)

/-- The match taken at a position: the longest of the 16 nearest candidates, the nearest among equals. -/
def bestMatch (hist here : List Byte) : Option (Nat × Nat) :=
  (candidates here 32768 16 hist here 1).foldl (fun (b : Option (Nat × Nat)) c =>
    match b with
    | none => some c
    | some d => if d.2 < c.2 then some c else some d) none

/-- The greedy parse: each token with the position where it starts. -/
def parseText : Nat → Nat → List Byte → List Byte → List (Nat × Token)
  | 0, _, _, _ => []
  | _, _, _, [] => []
  | f + 1, pos, hist, b :: r =>
    match bestMatch hist (b :: r) with
    | some (dist, len) =>
      (pos, .copy len dist) :: parseText f (pos + len) (((b :: r).take len).reverse ++ hist) ((b :: r).drop len)
    | none => (pos, .lit b.toNat) :: parseText f (pos + 1) (b :: hist) r

/-! ## Bits -/

/-- Bits of a stream, first bit first. -/
abbrev BitStr := List Bool

/-- `n` bits of a number, least significant first. -/
def numBits (n v : Nat) : BitStr := (List.range n).map (fun i => v.testBit i)

/-- The bits of a code, most significant first. -/
def codeBits (c : Nat × Nat) : BitStr := (numBits c.1 c.2).reverse

/-- Bytes of a bit string, padded with zeros. -/
def packBits : Nat → BitStr → List Byte
  | 0, _ => []
  | _, [] => []
  | f + 1, bs => BitVec.ofNat 8 ((bs.take 8).zipIdx.foldl (fun n e => n + b2n e.1 * 2 ^ e.2) 0) :: packBits f (bs.drop 8)

/-- Canonical codes of a list of lengths (RFC 1951, 3.2.2): length and code of each symbol. -/
def codesOf (lens : List Nat) : List (Nat × Nat) :=
  let count (l : Nat) : Nat := if l = 0 then 0 else (lens.filter (· == l)).length
  let first (l : Nat) : Nat := (List.range l).foldl (fun c k => 2 * (c + count k)) 0
  lens.zipIdx.map (fun e => (e.1, if e.1 = 0 then 0 else first e.1 + ((lens.take e.2).filter (· == e.1)).length))

/-! ## Length-limited codes by package-merge -/

/-- An item: weight and the symbols in it. -/
abbrev Pack := Nat × List Nat

/-- Merge two lists of items by weight; at equal weights those of the first come first. -/
def mergePacks : Nat → List Pack → List Pack → List Pack
  | 0, a, b => a ++ b
  | _, [], b => b
  | _, a, [] => a
  | f + 1, x :: a, y :: b => if x.1 ≤ y.1 then x :: mergePacks f a (y :: b) else y :: mergePacks f (x :: a) b

/-- Pairs of neighbours as packages; an odd last item is dropped. -/
def pairPacks : List Pack → List Pack
  | x :: y :: r => (x.1 + y.1, x.2 ++ y.2) :: pairPacks r
  | _ => []

/-- Code lengths of a list of frequencies, at most `limit`: a symbol's length is the number of the first 2n − 2 items of
the last list that hold it. -/
def packageMerge (limit : Nat) (freqs : List Nat) : List Nat :=
  let items : List Pack := ((freqs.zipIdx.filter (fun e => e.1 ≠ 0)).map (fun e => (e.1, [e.2]))).mergeSort
    (fun a b => a.1 < b.1 || (a.1 == b.1 && a.2.headD 0 ≤ b.2.headD 0))
  match items with
  | [] => freqs.map (fun _ => 0)
  | [(_, l)] => freqs.zipIdx.map (fun e => b2n (l.contains e.2))
  | _ =>
    let last := (List.range (limit - 1)).foldl (fun (l : List Pack) _ =>
      let p := pairPacks l
      mergePacks (items.length + p.length) items p) items
    let used := (last.take (2 * items.length - 2)).flatMap Prod.snd
    freqs.zipIdx.map (fun e => (used.filter (· == e.2)).length)

/-! ## Blocks -/

/-- Code, extra bits and their value for a number in a table of bases. -/
def codeFor (table : List (Nat × Nat)) (v : Nat) : Nat × Nat × Nat :=
  match (table.zipIdx.reverse).find? (fun e => e.1.1 ≤ v) with
  | some e => (e.2, e.1.2, v - e.1.1)
  | none => (0, 0, 0)

/-- The literal or length symbol of a token, with its extra bits. -/
def litSymbol : Token → Nat × BitStr
  | .lit b => (b, [])
  | .copy len _ => let (c, n, x) := codeFor lengthCodes len; (257 + c, numBits n x)

/-- The distance symbol of a match, with its extra bits. -/
def distSymbol : Token → Option (Nat × BitStr)
  | .lit _ => none
  | .copy _ d => let (c, n, x) := codeFor distCodes d; some (c, numBits n x)

/-- A block's tokens and its end under two codes. -/
def tokenBits (lit dist : List (Nat × Nat)) (ts : List Token) : BitStr :=
  ts.flatMap (fun t =>
    let (s, x) := litSymbol t
    codeBits (lit.getD s (0, 0)) ++ x
      ++ (match distSymbol t with
          | some (d, y) => codeBits (dist.getD d (0, 0)) ++ y
          | none => [])) ++ codeBits (lit.getD 256 (0, 0))

/-- How often each of `n` symbols occurs. -/
def freqsOf (n : Nat) (ss : List Nat) : List Nat := (List.range n).map (fun i => (ss.filter (· == i)).length)

/-- The length of the run of one value that begins a list. -/
def runLen (v : Nat) : List Nat → Nat
  | [] => 0
  | x :: r => if x = v then 1 + runLen v r else 0

/-- The run-length coding of code lengths (R343): symbol, extra bits, value. Code 18 comes before 17, and 17 before 16. -/
def rleLens : Nat → Option Nat → List Nat → List (Nat × Nat × Nat)
  | 0, _, _ => []
  | _, _, [] => []
  | f + 1, prev, x :: r =>
    let run := runLen x (x :: r)
    if x = 0 ∧ 11 ≤ run then
      let n := min 138 run
      (18, 7, n - 11) :: rleLens f (some 0) ((x :: r).drop n)
    else if x = 0 ∧ 3 ≤ run then
      let n := min 10 run
      (17, 3, n - 3) :: rleLens f (some 0) ((x :: r).drop n)
    else if prev = some x ∧ 3 ≤ run then
      let n := min 6 run
      (16, 2, n - 3) :: rleLens f prev ((x :: r).drop n)
    else (x, 0, 0) :: rleLens f (some x) r

/-- The least count, at least `lo`, that keeps every nonzero length. -/
def minimalCount (lo : Nat) (lens : List Nat) : Nat :=
  max lo ((lens.zipIdx.filter (fun e => e.1 ≠ 0)).foldl (fun m e => max m (e.2 + 1)) 0)

/-- A block with dynamic codes (level 2). -/
def dynamicBlock (ts : List Token) : BitStr :=
  let lens := packageMerge 15 (freqsOf 286 (ts.map (fun t => (litSymbol t).1) ++ [256]))
  let df := freqsOf 30 (ts.filterMap (fun t => (distSymbol t).map Prod.fst))
  let dl := if df.all (· == 0) then 1 :: List.replicate 29 0 else packageMerge 15 df
  let hl := minimalCount 257 lens
  let hd := minimalCount 1 dl
  let rle := rleLens 400 none (lens.take hl ++ dl.take hd)
  let cl := packageMerge 7 (freqsOf 19 (rle.map Prod.fst))
  let order := clOrder.map (fun s => cl.getD s 0)
  let hc := minimalCount 4 order
  let cc := codesOf cl
  numBits 5 (hl - 257) ++ numBits 5 (hd - 1) ++ numBits 4 (hc - 4) ++ (order.take hc).flatMap (numBits 3)
    ++ rle.flatMap (fun e => codeBits (cc.getD e.1 (0, 0)) ++ numBits e.2.1 e.2.2)
    ++ tokenBits (codesOf lens) (codesOf dl) ts

/-- Blocks of 65,536 input bytes: each holds the tokens that start in it. -/
def compressedBlocks (level : Nat) (bs : List Byte) : BitStr :=
  let ts := parseText bs.length 0 [] bs
  let n := ceilDiv bs.length 65536
  (List.range n).flatMap (fun k =>
    let t := (ts.filter (fun e => e.1 / 65536 == k)).map Prod.snd
    numBits 1 (b2n (k + 1 = n)) ++ numBits 2 level
      ++ (if level = 1 then tokenBits (codesOf fixedLens) (codesOf (List.replicate 30 5)) t else dynamicBlock t))

/-- Stored blocks (level 0). -/
def storedBlocks (bs : List Byte) : List Byte :=
  let n := ceilDiv bs.length 65535
  (List.range n).flatMap (fun k =>
    let b := (bs.drop (65535 * k)).take 65535
    BitVec.ofNat 8 (b2n (k + 1 = n)) :: leBytes 2 b.length ++ leBytes 2 (0xFFFF - b.length) ++ b)

/-- The bit stream of a level. -/
def deflateRaw (level : Nat) (bs : List Byte) : List Byte :=
  if level = 0 then storedBlocks bs
  else
    let b := compressedBlocks level bs
    packBits b.length b

/-- What precedes the compressed data of a container (R343). -/
def deflateHead (container level : Nat) : List Byte :=
  match container with
  | 0 => []
  | 1 =>
    let f := level * 64
    beBytes 2 (0x7800 + f + (31 - (0x7800 + f) % 31) % 31)
  | _ => [0x1F, 0x8B, 0x08, 0, 0, 0, 0, 0, 0, 0xFF]

/-- DEFLATE (R343). -/
def deflate (container level : Nat) (bs : List Byte) : List Byte :=
  let raw := deflateRaw level bs
  match container with
  | 0 => raw
  | 1 => deflateHead 1 level ++ raw ++ beBytes 4 (adler32 bs)
  | _ => deflateHead 2 level ++ raw ++ leBytes 4 (crc32 bs) ++ leBytes 4 bs.length

/-! ## Output of the first bytes of an input (R339) -/

/-- The tokens of a parse that no later input can change: a match that the end of the text does not cut short, a literal that
three bytes of text stand at. -/
def settledTokens (n : Nat) (ts : List (Nat × Token)) : List (Nat × Token) :=
  ts.takeWhile (fun e => match e.2 with
    | .lit _ => e.1 + 3 ≤ n
    | .copy len _ => e.1 + len < n || len == 258)

/-- Where a list of tokens ends in the text. -/
def tokensEnd (ts : List (Nat × Token)) : Nat :=
  match ts.getLast? with
  | some (p, .lit _) => p + 1
  | some (p, .copy len _) => p + len
  | none => 0

/-- The bits of compressed blocks that the first bytes of a text of `total` bytes settle: blocks that end within them, and of a
block with fixed codes its header and the tokens so far. -/
def settledBlocks (level total : Nat) (bs : List Byte) : BitStr :=
  let ts := settledTokens bs.length (parseText bs.length 0 [] bs)
  let n := ceilDiv total 65536
  let upTo := tokensEnd ts / 65536
  (List.range (upTo + 1)).flatMap (fun k =>
    let t := (ts.filter (fun e => e.1 / 65536 == k)).map Prod.snd
    let head := numBits 1 (b2n (k + 1 = n)) ++ numBits 2 level
    let lit := codesOf fixedLens
    let dist := codesOf (List.replicate 30 5)
    if level = 1 then
      let all := tokenBits lit dist t
      if k < upTo then head ++ all else head ++ all.take (all.length - (codeBits (lit.getD 256 (0, 0))).length)
    else if k < upTo then head ++ dynamicBlock t
    else [])

/-- The stored blocks that the first bytes of a text of `total` bytes settle. -/
def settledStored (total : Nat) (bs : List Byte) : List Byte :=
  (List.range (bs.length / 65535 + 1)).flatMap (fun k =>
    let len := min 65535 (total - 65535 * k)
    if len = 0 then []
    else BitVec.ofNat 8 (b2n (total ≤ 65535 * (k + 1))) :: leBytes 2 len ++ leBytes 2 (0xFFFF - len) ++ (bs.drop (65535 * k)).take 65535)

/-- The output that the first bytes of an input of `total` bytes settle: what a job that stops after them has written (R339; log
entry 114). -/
def deflateSoFar (container level total : Nat) (bs : List Byte) : List Byte :=
  if bs.length = total then deflate container level bs
  else
    deflateHead container level ++
      (if level = 0 then settledStored total bs
       else
        let b := settledBlocks level total bs
        packBits b.length (b.take (b.length / 8 * 8)))

end Sys2Proof.Machine
end

