-- ==== Sys2Proof/Machine/Zstd.lean ====
section
/-!
DEFINITION. Decompression of Zstandard frames (R342; RFC 8878) under an output limit (R339).
-/
namespace Sys2Proof.Machine

/-! ## XXH64 -/

/-- A word rotated left. -/
def rol64 (x n : Nat) : Nat := (x * 2 ^ n + x / 2 ^ (64 - n)) % 2 ^ 64

/-- The primes of XXH64. -/
def xxP1 : Nat := 0x9E3779B185EBCA87
def xxP2 : Nat := 0xC2B2AE3D27D4EB4F
def xxP3 : Nat := 0x165667B19E3779F9
def xxP4 : Nat := 0x85EBCA77C2B2AE63
def xxP5 : Nat := 0x27D4EB2F165667C5

/-- One lane step. -/
def xxRound (a x : Nat) : Nat := rol64 ((a + x * xxP2) % 2 ^ 64) 31 * xxP1 % 2 ^ 64

/-- A lane joins the result. -/
def xxMerge (h v : Nat) : Nat := ((h ^^^ xxRound 0 v) * xxP1 + xxP4) % 2 ^ 64

/-- The last bytes of the input. -/
def xxTail : Nat → Nat → List Byte → Nat
  | 0, h, _ => h
  | f + 1, h, bs =>
    if 8 ≤ bs.length then xxTail f ((rol64 (h ^^^ xxRound 0 (leAt bs 0 8)) 27 * xxP1 + xxP4) % 2 ^ 64) (bs.drop 8)
    else if 4 ≤ bs.length then
      xxTail f ((rol64 (h ^^^ (leAt bs 0 4 * xxP1 % 2 ^ 64)) 23 * xxP2 + xxP3) % 2 ^ 64) (bs.drop 4)
    else match bs with
      | [] => h
      | b :: r => xxTail f (rol64 (h ^^^ (b.toNat * xxP5 % 2 ^ 64)) 11 * xxP1 % 2 ^ 64) r

/-- XXH64 with seed 0. -/
def xxh64 (bs : List Byte) : Nat :=
  let n := bs.length / 32
  let lane (i v : Nat) : Nat := (List.range n).foldl (fun a k => xxRound a (leAt bs (32 * k + 8 * i) 8)) v
  let h :=
    if n = 0 then xxP5
    else
      let a := lane 0 ((xxP1 + xxP2) % 2 ^ 64)
      let b := lane 1 xxP2
      let c := lane 2 0
      let d := lane 3 (2 ^ 64 - xxP1)
      [a, b, c, d].foldl xxMerge ((rol64 a 1 + rol64 b 7 + rol64 c 12 + rol64 d 18) % 2 ^ 64)
  let h := xxTail bs.length ((h + bs.length) % 2 ^ 64) (bs.drop (32 * n))
  let h := (h ^^^ (h / 2 ^ 33)) * xxP2 % 2 ^ 64
  let h := (h ^^^ (h / 2 ^ 29)) * xxP3 % 2 ^ 64
  h ^^^ (h / 2 ^ 32)

/-! ## Bit streams read backward -/

/-- A stream read from its end: its bits as a number, and how many are left (negative once more were read). -/
structure Back where
  bits : Nat
  left : Int

/-- The stream of some bytes: the highest set bit of the last byte marks its end. -/
def Back.of (bs : List Byte) : Option Back :=
  let l := (bs.getLastD 0).toNat
  if l = 0 then none else some ⟨leNat bs, (8 * (bs.length - 1) + Nat.log2 l : Nat)⟩

/-- Read `k` bits; bits before the beginning read as zero. -/
def Back.get (b : Back) (k : Nat) : Nat × Back :=
  let q := b.left - k
  ((if 0 ≤ q then (b.bits >>> q.toNat) % 2 ^ k else (b.bits <<< (-q).toNat) % 2 ^ k), { b with left := q })

/-! ## FSE (RFC 8878, 4.1) -/

/-- A cell of a decoding table: symbol, bits to read, base of the next state. -/
abbrev FseCell := Nat × Nat × Nat

/-- A decoding table: its accuracy and cells. -/
structure FseTable where
  log : Nat
  cells : List FseCell

/-- The next cell of the spread, skipping those from `high` on. -/
def fseStep (size high : Nat) : Nat → Nat → Nat
  | 0, p => p
  | f + 1, p =>
    let q := (p + size / 2 + size / 8 + 3) % size
    if high ≤ q then fseStep size high f q else q

/-- Place symbols in the cells, from a position. -/
def fseSpread (size high : Nat) : List Nat → Nat → List (Nat × Nat)
  | [], _ => []
  | s :: r, p => (p, s) :: fseSpread size high r (fseStep size high size p)

/-- The decoding table of normalised counts (−1 for a count below 1). -/
def fseTable (log : Nat) (norm : List Int) : FseTable :=
  let size := 2 ^ log
  let low := (norm.zipIdx.filter (fun e => e.1 = -1)).map Prod.snd
  let high := size - low.length
  let seq := norm.zipIdx.flatMap (fun e => if 0 < e.1 then List.replicate e.1.toNat e.2 else [])
  let placed := fseSpread size high seq 0 ++ low.zipIdx.map (fun e => (size - 1 - e.2, e.1))
  let syms := (List.range size).map (fun i => (placed.find? (fun e => e.1 == i)).elim 0 Prod.snd)
  ⟨log, syms.zipIdx.map (fun e =>
    let n := norm.getD e.1 0
    let next := (if n = -1 then 1 else n.toNat) + ((syms.take e.2).filter (· == e.1)).length
    let nb := log - Nat.log2 next
    (e.1, nb, next * 2 ^ nb - size))⟩

/-- A table with one symbol. -/
def rleTable (s : Nat) : FseTable := ⟨0, [(s, 0, 0)]⟩

/-- Runs of zero counts: two bits at a time, 3 meaning more. -/
def fseZeros (i : DecIn) : Nat → Nat → Dec → Nat × Dec
  | 0, n, d => (n, d)
  | f + 1, n, d =>
    let (r, d) := d.get i 2
    if d.err.isSome then (n, d) else if r = 3 then fseZeros i f (n + 3) d else (n + r, d)

/-- The counts of a table description; `acc` holds those read, in reverse. -/
def fseCounts (i : DecIn) (maxSyms : Nat) : Nat → Nat → List Int → Dec → List Int × Dec
  | 0, _, acc, d => (acc, d.fail .corrupt)
  | f + 1, rem, acc, d =>
    if rem = 0 then (acc.reverse, d)
    else if maxSyms ≤ acc.length then (acc, d.fail .corrupt)
    else
      let k := Nat.log2 (rem + 1) + 1
      let (v, e) := d.get i k
      -- the last bit is not there when the value needs one bit less
      let (v, e) : Nat × Dec :=
        if e.err.isSome then
          let (u, e') := d.get i (k - 1)
          (u, e')
        else (v, e)
      let low := v % 2 ^ (k - 1)
      let th := 2 ^ k - 1 - (rem + 1)
      let (v, e) : Nat × Dec :=
        if low < th then (low, if e.err.isSome then e else { e with pos := d.pos + (k - 1) })
        else if d.pos + k ≤ i.len then ((if 2 ^ (k - 1) ≤ v then v - th else v), e)
        else (v, e.fail .short)
      if e.err.isSome then (acc, e)
      else
        let p : Int := (v : Int) - 1
        let used := p.natAbs
        if rem < used then (acc, e.fail .corrupt)
        else if p = 0 then
          let (z, e) := fseZeros i maxSyms 0 e
          if e.err.isSome then (acc, e) else fseCounts i maxSyms f rem (List.replicate z 0 ++ 0 :: acc) e
        else fseCounts i maxSyms f (rem - used) (p :: acc) e

/-- A table description at a byte boundary (RFC 8878, 4.1.1). -/
def readFse (i : DecIn) (maxLog maxSyms : Nat) (d : Dec) : FseTable × Dec :=
  let (a, d) := d.get i 4
  if d.err.isSome then (rleTable 0, d)
  else if maxLog < a + 5 then (rleTable 0, d.fail .corrupt)
  else
    let (ns, d) := fseCounts i maxSyms (maxSyms + 1) (2 ^ (a + 5)) [] d
    if d.err.isSome then (rleTable 0, d)
    else if maxSyms < ns.length then (rleTable 0, d.fail .corrupt)
    else (fseTable (a + 5) ns, d.align)

/-- A state's cell. -/
def FseTable.cell (t : FseTable) (st : Nat) : FseCell := t.cells.getD st (0, 0, 0)

/-- The next state. -/
def FseTable.next (t : FseTable) (st : Nat) (b : Back) : Nat × Back :=
  let (_, nb, base) := t.cell st
  let (x, b) := b.get nb
  (base + x, b)

/-! ## Huffman-coded literals (RFC 8878, 4.2) -/

/-- A literals code: longest code and, for each value of that many bits, symbol and length. -/
structure LitTable where
  log : Nat
  cells : List (Nat × Nat)

/-- Weights from two interleaved states; the stream's end ends them. -/
def fseWeights (t : FseTable) : Nat → Nat → Nat → Back → List Nat
  | 0, _, _, _ => []
  | f + 1, s1, s2, b =>
    let (n1, b) := t.next s1 b
    (t.cell s1).1 :: (if b.left < 0 then [(t.cell s2).1] else fseWeights t f s2 n1 b)

/-- The table of a list of weights, the last symbol's being implied. -/
def litTable (ws : List Nat) : Option LitTable :=
  let sum := ws.foldl (fun a w => a + (if w = 0 then 0 else 2 ^ (w - 1))) 0
  let log := Nat.log2 sum + 1
  let left := 2 ^ log - sum
  if sum = 0 ∨ 11 < log ∨ 255 < ws.length ∨ ws.any (fun w => 11 < w) ∨ 2 ^ Nat.log2 left ≠ left then none
  else
    let all := ws ++ [Nat.log2 left + 1]
    some ⟨log, (List.range log).flatMap (fun k =>
      (all.zipIdx.filter (fun e => e.1 == k + 1)).flatMap (fun e => List.replicate (2 ^ k) (e.2, log - k)))⟩

/-- A Huffman tree description: the table and the bytes it takes. -/
def readLitTable (bs : List Byte) : Except DecErr (LitTable × Nat) :=
  match bs with
  | [] => .error .short
  | h :: r =>
    let n := h.toNat
    let wrap (w : Option LitTable) (k : Nat) : Except DecErr (LitTable × Nat) :=
      match w with
      | some t => .ok (t, k)
      | none => .error .corrupt
    if 128 ≤ n then
      let k := n - 127
      let len := (k + 1) / 2
      if r.length < len then .error .short
      else wrap (litTable ((List.range k).map (fun i => leAt r (i / 2) 1 / (if i % 2 = 0 then 16 else 1) % 16))) (1 + len)
    else if r.length < n then .error .short
    else
      let i := DecIn.of (r.take n)
      let (t, d) := readFse i 6 256 {}
      match d.err, Back.of ((r.take n).drop (d.pos / 8)) with
      | some _, _ | _, none => .error .corrupt
      | none, some b =>
        let (s1, b) := b.get t.log
        let (s2, b) := b.get t.log
        if b.left < 0 then .error .corrupt else wrap (litTable (fseWeights t 256 s1 s2 b)) (1 + n)

/-- Decode `n` literals from a stream that must end with them. -/
def litStream (t : LitTable) : Nat → Back → List Byte → Option (List Byte)
  | 0, b, acc => if b.left = 0 then some acc.reverse else none
  | n + 1, b, acc =>
    let (x, _) := b.get t.log
    let (s, l) := t.cells.getD x (0, 0)
    let b := { b with left := b.left - l }
    if b.left < 0 then none else litStream t n b (BitVec.ofNat 8 s :: acc)

/-- The streams of Huffman-coded literals: one, or four with a jump table. -/
def litStreams (t : LitTable) (four : Bool) (n : Nat) (bs : List Byte) : Option (List Byte) :=
  let one (n : Nat) (bs : List Byte) : Option (List Byte) := (Back.of bs).bind (fun b => litStream t n b [])
  if !four then one n bs
  else
    let (a, b, c) := (leAt bs 0 2, leAt bs 2 2, leAt bs 4 2)
    let q := (n + 3) / 4
    let r := bs.drop 6
    if bs.length < 6 ∨ r.length ≤ a + b + c ∨ n < 3 * q then none
    else do
      let w ← one q (r.take a)
      let x ← one q ((r.drop a).take b)
      let y ← one q ((r.drop (a + b)).take c)
      let z ← one (n - 3 * q) (r.drop (a + b + c))
      pure (w ++ x ++ y ++ z)

/-! ## Frames -/

/-- What later blocks of a frame use: the literals code, the three sequence tables, the repeated offsets. -/
structure ZCtx where
  lits : Option LitTable := none
  ll : Option FseTable := none
  off : Option FseTable := none
  ml : Option FseTable := none
  reps : Nat × Nat × Nat := (1, 4, 8)

/-- The literals section of a block: literals, code in force, bytes taken. -/
def readLiterals (old : Option LitTable) (bs : List Byte) : Except DecErr (List Byte × Option LitTable × Nat) :=
  let h := leAt bs 0 5
  let ty := h % 4
  let sf := h / 4 % 4
  if bs.isEmpty then .error .corrupt
  else if ty < 2 then
    let (hl, n) := match sf with
      | 1 => (2, bits h 4 12)
      | 3 => (3, bits h 4 20)
      | _ => (1, bits h 3 5)
    let need := hl + (if ty = 0 then n else 1)
    if bs.length < need ∨ 131072 < n then .error .corrupt
    else .ok (if ty = 0 then ((bs.drop hl).take n, old, need) else (List.replicate n (bs.getD hl 0), old, need))
  else
    let (hl, w) := match sf with
      | 2 => (4, 14)
      | 3 => (5, 18)
      | _ => (3, 10)
    let n := bits h 4 w
    let c := bits h (4 + w) w
    let body := (bs.drop hl).take c
    if bs.length < hl + c ∨ 131072 < n then .error .corrupt
    else
      let tree : Except DecErr (LitTable × Nat) := if ty = 2 then readLitTable body
        else match old with
          | some t => .ok (t, 0)
          | none => .error .corrupt
      match tree with
      | .error _ => .error .corrupt
      | .ok (t, k) =>
        match litStreams t (sf ≠ 0) n (body.drop k) with
        | some l => .ok (l, some t, hl + c)
        | none => .error .corrupt

/-- Default counts (RFC 8878, 3.1.1.3.2.2). -/
def llDefault : FseTable := fseTable 6
  [4, 3, 2, 2, 2, 2, 2, 2, 2, 2, 2, 2, 2, 1, 1, 1, 2, 2, 2, 2, 2, 2, 2, 2, 2, 3, 2, 1, 1, 1, 1, 1, -1, -1, -1, -1]
def mlDefault : FseTable := fseTable 6
  ([1, 4, 3, 2, 2, 2, 2, 2, 2] ++ List.replicate 37 1 ++ List.replicate 7 (-1))
def offDefault : FseTable := fseTable 5 ([1, 1, 1, 1, 1, 1, 2, 2, 2] ++ List.replicate 15 1 ++ List.replicate 5 (-1))

/-- Base and extra bits of a literals length code. -/
def llCode (c : Nat) : Nat × Nat :=
  if c < 16 then (c, 0)
  else [(16, 1), (18, 1), (20, 1), (22, 1), (24, 2), (28, 2), (32, 3), (40, 3), (48, 4), (64, 6)].getD (c - 16)
    (2 ^ (c - 19), c - 19)

/-- Base and extra bits of a match length code. -/
def mlCode (c : Nat) : Nat × Nat :=
  if c < 32 then (c + 3, 0)
  else [(35, 1), (37, 1), (39, 1), (41, 1), (43, 2), (47, 2), (51, 3), (59, 3), (67, 4), (83, 4), (99, 5)].getD (c - 32)
    (2 ^ (c - 36) + 3, c - 36)

/-- One of the three tables of a sequences section, by its mode; `d` counts the bytes taken. -/
def seqTable (i : DecIn) (mode maxLog maxSym : Nat) (dflt : FseTable) (old : Option FseTable) (d : Dec) : FseTable × Dec :=
  match mode with
  | 0 => (dflt, d)
  | 1 =>
    let (s, d) := d.get i 8
    if d.err.isNone && maxSym < s then (dflt, d.fail .corrupt) else (rleTable s, d)
  | 2 => readFse i maxLog (maxSym + 1) d
  | _ => match old with
    | some t => (t, d)
    | none => (dflt, d.fail .corrupt)

/-- The offset of an offset value and the repeated offsets after it (RFC 8878, 3.1.1.5). -/
def offsetOf (reps : Nat × Nat × Nat) (v ll : Nat) : Nat × Nat × Nat × Nat :=
  let (a, b, c) := reps
  if 3 < v then (v - 3, v - 3, a, b)
  else
    match v - 1 + b2n (ll = 0) with
    | 0 => (a, a, b, c)
    | 1 => (b, b, a, c)
    | 2 => (c, c, a, b)
    | _ => (a - 1, a - 1, a, b)

/-- The sequences of a block, executed: literals left, repeated offsets, output. -/
def runSeqs (cap start : Nat) (ll off ml : FseTable) : Nat → Nat × Nat × Nat → Back → List Byte → Nat × Nat × Nat → Dec →
    List Byte × (Nat × Nat × Nat) × Dec
  | 0, _, b, lits, reps, d => (lits, reps, if b.left = 0 then d else d.fail .corrupt)
  | n + 1, (sl, so, sm), b, lits, reps, d =>
    let oc := (off.cell so).1
    let (x, b) := b.get oc
    let (mb, me) := mlCode (ml.cell sm).1
    let (y, b) := b.get me
    let (lb, le) := llCode (ll.cell sl).1
    let (z, b) := b.get le
    let l := lb + z
    let (o, reps) := offsetOf reps (2 ^ oc + x) l
    let (sl, b) := if n = 0 then (sl, b) else ll.next sl b
    let (sm, b) := if n = 0 then (sm, b) else ml.next sm b
    let (so, b) := if n = 0 then (so, b) else off.next so b
    if b.left < 0 ∨ lits.length < l then (lits, reps, d.fail .corrupt)
    else
      let d := d.emit cap (lits.take l)
      if d.err.isSome then (lits, reps, d)
      else if o = 0 ∨ d.n - start < o then (lits, reps, d.fail .corrupt)
      else
        let d := d.emit cap (matchBytes d.out o (mb + y))
        if d.err.isSome then (lits, reps, d) else runSeqs cap start ll off ml n (sl, so, sm) b (lits.drop l) reps d

/-- A compressed block. -/
def zBlock (cap start : Nat) (c : ZCtx) (bs : List Byte) (d : Dec) : ZCtx × Dec :=
  match readLiterals c.lits bs with
  | .error e => (c, d.fail e)
  | .ok (lits, lt, k) =>
    let c := { c with lits := lt }
    let r := bs.drop k
    let b0 := leAt r 0 1
    let (hl, n) := if b0 < 128 then (1, b0) else if b0 < 255 then (2, (b0 - 128) * 256 + leAt r 1 1) else (3, leAt r 1 2 + 0x7F00)
    if r.length < hl then (c, d.fail .corrupt)
    else if n = 0 then (c, if r.length = hl then d.emit cap lits else d.fail .corrupt)
    else if r.length < hl + 1 then (c, d.fail .corrupt)
    else
      let m := leAt r hl 1
      let body := r.drop (hl + 1)
      let i := DecIn.of body
      let (ll, e) := seqTable i (m / 64) 9 35 llDefault c.ll {}
      let (off, e) := if e.err.isSome then (ll, e) else seqTable i (m / 16 % 4) 8 31 offDefault c.off e
      let (ml, e) := if e.err.isSome then (ll, e) else seqTable i (m / 4 % 4) 9 52 mlDefault c.ml e
      if m % 4 ≠ 0 ∨ e.err.isSome then (c, d.fail .corrupt)
      else
        match Back.of (body.drop (e.pos / 8)) with
        | none => (c, d.fail .corrupt)
        | some b =>
          let (sl, b) := b.get ll.log
          let (so, b) := b.get off.log
          let (sm, b) := b.get ml.log
          let (lits, reps, d) := runSeqs cap start ll off ml n (sl, so, sm) b lits c.reps d
          let c := { c with ll := some ll, off := some off, ml := some ml, reps := reps }
          (c, if d.err.isSome then d else d.emit cap lits)

/-- The blocks of a frame. `most` is the largest block. -/
def zBlocks (i : DecIn) (cap start most : Nat) : Nat → ZCtx → Dec → Dec
  | 0, _, d => d.fail .short
  | f + 1, c, d =>
    let (h, d) := d.get i 24
    if d.err.isSome then d
    else
      let n := h / 8
      let before := d.n
      if h / 2 % 4 = 3 ∨ most < n then d.fail .corrupt
      else
        let take := if h / 2 % 4 = 1 then 1 else n
        let got := min take ((i.len - d.pos) / 8)
        let bs := leBytes got (bits i.bits d.pos (8 * got))
        let d := { d with pos := d.pos + 8 * got }
        let (c, d) : ZCtx × Dec := match h / 2 % 4 with
          | 0 => (c, let e := d.emit cap bs; if e.err.isNone && got < take then e.fail .short else e)
          | 1 => (c, if got < take then d.fail .short else d.emit cap (List.replicate n (bs.headD 0)))
          | _ => if got < take then (c, d.fail .short) else zBlock cap start c bs d
        if d.err.isSome then d
        else if most < d.n - before then d.fail .corrupt
        else if h % 2 = 1 then d else zBlocks i cap start most f c d

/-- One frame (R342). -/
def zFrame (i : DecIn) (cap : Nat) (d : Dec) : Dec :=
  let (magic, d) := d.get i 32
  if d.err.isSome then d
  else if magic / 16 = 0x184D2A5 then
    let (n, d) := d.get i 32
    if d.err.isSome then d
    else if i.len < d.pos + 8 * n then { d with pos := i.len, err := some .short } else { d with pos := d.pos + 8 * n }
  else if magic ≠ 0xFD2FB528 then d.fail .corrupt
  else
    let start := d.n
    let (h, d) := d.get i 8
    if d.err.isSome then d
    else if h.testBit 3 then d.fail .corrupt
    else
      let single := h.testBit 5
      let (w, d) := if single then (0, d) else d.get i 8
      let (dict, d) := d.get i (match h % 4 with | 0 => 0 | 1 => 8 | 2 => 16 | _ => 32)
      let fl := match h / 64 with | 0 => b2n single | 1 => 2 | 2 => 4 | _ => 8
      let (fcs, d) := d.get i (8 * fl)
      let fcs := if fl = 2 then fcs + 256 else fcs
      let window := if single then fcs else let b := 2 ^ (10 + w / 8); b + b / 8 * (w % 8)
      if d.err.isSome then d
      else if dict ≠ 0 ∨ (!single && 2 ^ 31 < window) then d.fail .unsup
      else
        let d := zBlocks i cap start (min 131072 window) (i.len + 1) {} d
        if d.err.isSome then d
        else
          let out := d.since start
          let (sum, d) := if h.testBit 2 then d.get i 32 else (0, d)
          if d.err.isSome then d
          else if fl ≠ 0 ∧ fcs ≠ out.length then d.fail .corrupt
          else if h.testBit 2 ∧ sum ≠ xxh64 out % 2 ^ 32 then d.fail .check
          else d

/-- The frames of an input, to its end. -/
def zFrames (i : DecIn) (cap total : Nat) : Nat → Dec → Dec
  | 0, d => d
  | f + 1, d =>
    let d := zFrame i cap d
    if d.err.isSome || total ≤ d.pos then d else zFrames i cap total f d

/-- ZSTD (R342). -/
def zstd (i : DecIn) (total cap : Nat) : Dec := zFrames i cap total (total + 1) {}

end Sys2Proof.Machine
end

