-- ==== Sys2Proof/Machine/Stream.lean ====
section
/-!
DEFINITION. Stream engines (R337 to R349) and the commands of the DRAM channels (R319 to R327).
-/
namespace Sys2Proof.Machine

/-! ## Fields of the descriptor (R337) -/

/-- Input span. -/
def strIn (j : Job) : Span := (leAt j.desc 0x08 8, leAt j.desc 0x10 4)
/-- Output address. -/
def strOutAddr (j : Job) : Nat := leAt j.desc 0x18 8
/-- Output capacity. -/
def strCap (j : Job) : Nat := leAt j.desc 0x20 4
/-- COPY. -/
def strCopy (j : Job) : Bool := j.flags.testBit 1
/-- Does the job have an output: INFLATE, DEFLATE, ZSTD, and RECORD with COPY (R338)? -/
def strHasOut (j : Job) : Bool := (1 ≤ j.op && j.op ≤ 3) || (j.op == 6 && strCopy j)
/-- The output span, empty without an output. -/
def strOut (j : Job) : Span := (strOutAddr j, if strHasOut j then strCap j else 0)

/-- Check 1 (R338). -/
def strFieldsOk (j : Job) : Bool :=
  let d := j.desc
  let n := leAt d 0x10 4
  let eb := leAt d 0x4A 1
  let stride := leAt d 0x4C 4
  (1 ≤ j.op && j.op ≤ 6) && j.flags < 4 && leAt d 5 1 % 4 == 1 && j.jobId < 64 && (!j.flags.testBit 0 || j.op == 4)
    && (!j.flags.testBit 1 || j.op == 6) && (1 ≤ n && n ≤ 2 ^ 31) && zeroBytes d 0x16 2 && zeroBytes d 0x64 28
    && ((j.op != 1 && j.op != 2) || leAt d 0x14 1 ≤ 2) && (j.op != 2 || leAt d 0x15 1 ≤ 2)
    && (!strHasOut j || strCap j ≤ 2 ^ 31)
    && (j.op != 4 || (1 ≤ leAt d 0x48 1 && leAt d 0x48 1 ≤ 64))
    && (j.op != 5 || ([1, 2, 4, 8].contains eb && eb ≤ stride && n % stride == 0))
    && (j.op != 6 || (1 ≤ leAt d 0x62 2 && leAt d 0x62 2 ≤ 255))

/-- The record bytes (R347). -/
def strEng (value used chk limit : Nat) : List Byte :=
  leBytes 8 value ++ leBytes 4 used ++ leBytes 1 chk ++ leBytes 1 limit ++ leBytes 2 0

/-! ## Input (R348) -/

/-- The offset of the first byte of a span that cannot be read: bad parity or poison. -/
def firstBad (s : State) (a n : Nat) : Option Nat :=
  match regionOf s a with
  | .dram =>
    let ls := (errLines s a n).filter (fun l => decodeLine s l = .uncorrectable)
      ++ (if anyChanFailed s then (linesOf a n).filter (lineOnFailed s) else [])
    (ls.map (fun l => l * 64 - a)).min?
  | _ => ((badWords s a n).map (fun w => w * 4 - a)).min?

/-- The state after reading the first bytes of a span, up to the bad one if `met`. -/
def readInput (s : State) (m : Nat) (p : Span) (bad : Option Nat) (used : Nat) (met : Bool) : State :=
  (memRead s m 3 p.1 (min p.2 (match bad with
    | some b => if met then max used (b + 1) else used
    | none => used))).st

/-! ## Limits (R339, R340) -/

/-- OUT_MAX as it acts, in bytes. -/
def outMax (s : State) (i : Nat) : Nat := max 1 (min 2048 (s.fld Fld.STREAM_CFG_OUT_MAX i)) * 2 ^ 20

/-- The output limit of a decompression and its LIMIT code: the least of the limits, the first in order among equals.
`cap` is none when the capacity is no limit; `len` is the compressed length. -/
def outLimit (s : State) (i : Nat) (cap : Option Nat) (len : Option Nat) : Nat × Nat :=
  let ratio := s.fld Fld.STREAM_CFG_RATIO i
  let cs := (match cap with | some c => [(c, 1)] | none => []) ++ [(outMax s i, 2)]
    ++ (match len with | some n => if ratio = 0 then [] else [(ratio * n, 3)] | none => [])
  cs.foldl (fun b c => if c.1 < b.1 then c else b) (cs.headD (0, 0))

/-! ## Operations -/

/-- The outcome of an operation: status, value, bytes consumed, LIMIT, output, and whether its read met a bad word. -/
structure StrRes where
  status : Nat
  value : Nat := 0
  used : Nat := 0
  limit : Nat := 0
  out : List Byte := []
  met : Bool := false

/-- A decoder's outcome as a status (R339 to R341). `exact` is the expected length or 0, `bad` says that the input was cut
at a bad word. -/
def decStatus (d : Dec) (exact : Nat) (bad : Bool) : Nat :=
  match d.err with
  | none => if exact ≠ 0 ∧ d.n ≠ exact then 0x06 else 0
  | some .full => if exact ≠ 0 then 0x06 else 0x04
  | some .short => if bad then 0x80 else 0x06
  | some .corrupt => 0x06
  | some .unsup => 0x0C
  | some .check => 0x11

/-- Decompress: container 0 to 2 as INFLATE, 3 as ZSTD. `avail` holds the input that can be read of `total` bytes. -/
def decompress (container : Nat) (avail : List Byte) (total : Nat) (cap : Nat) : Dec :=
  if container = 3 then zstd (DecIn.of avail) (8 * total) cap else inflate container (DecIn.of avail) (8 * total) cap

/-- INFLATE and ZSTD (R339 to R342). -/
def strDecode (s : State) (i : Nat) (j : Job) (avail : List Byte) (bad : Bool) : StrRes :=
  let n := (strIn j).2
  let exact := leAt j.desc 0x24 4
  let (L, which) := outLimit s i (some (strCap j)) (some n)
  if L < exact then { status := 0x04, limit := which }
  else
    let d := decompress (if j.op = 3 then 3 else leAt j.desc 0x14 1) avail n (if exact = 0 then L else exact)
    let st := decStatus d exact bad
    { status := st, used := min n (ceilDiv d.pos 8), limit := if st = 0x04 then which else 0, out := d.out.reverse, met := st = 0x80 }

/-- DEFLATE (R343): an output that passes its limit ends the job after the fewest bytes of input that settle so much. -/
def strDeflate (s : State) (i : Nat) (j : Job) (avail : List Byte) (bad : Bool) : StrRes :=
  let soFar (n : Nat) : List Byte := deflateSoFar (leAt j.desc 0x14 1) (leAt j.desc 0x15 1) (strIn j).2 (avail.take n)
  let z := soFar avail.length
  let (L, which) := outLimit s i (some (strCap j)) none
  if L < z.length then
    { status := 0x04, used := ((List.range avail.length).find? (fun n => L < (soFar n).length)).getD avail.length, limit := which,
      out := z.take L }
  else if bad then { status := 0x80, used := avail.length, out := z, met := true }
  else { status := 0, used := avail.length, out := z }

/-- CRC (R344). -/
def strCrc (j : Job) (avail : List Byte) (bad : Bool) : StrRes :=
  let d := j.desc
  let fl := leAt d 0x49 1
  if bad then { status := 0x80, used := avail.length, met := true }
  else
    let c := crcOf ⟨leAt d 0x48 1, leAt d 0x28 8, leAt d 0x30 8, fl.testBit 0, fl.testBit 1, leAt d 0x38 8⟩ avail
    { status := if j.flags.testBit 0 && c != leAt d 0x40 8 then 0x11 else 0, value := c, used := avail.length }

/-- ALIVE from element `k` (R345), `prev` being the element before. -/
def aliveFrom (j : Job) (avail : List Byte) : Nat → Nat → Nat → StrRes
  | 0, k, _ =>
    if avail.length < (strIn j).2 then { status := 0x80, value := k, used := avail.length, met := true }
    else { status := 0, value := k, used := (strIn j).2 }
  | f + 1, k, prev =>
    let d := j.desc
    let eb := leAt d 0x4A 1
    let m := 2 ^ (8 * eb)
    let stride := leAt d 0x4C 4
    let o := k * stride
    let step := leAt d 0x50 8 % m
    if avail.length < o + eb then { status := 0x80, value := k, used := o, met := true }
    else
      let v := leAt avail o eb
      let want := if k = 0 then leAt d 0x58 8 else (prev + step) % m
      let before := if k = 0 then (leAt d 0x58 8 + m - step) % m else prev
      if v = want ∨ (k = 0 ∧ (leAt d 0x4B 1).testBit 0) then aliveFrom j avail f (k + 1) v
      else { status := if v = before then 0x12 else 0x13, value := k, used := min (strIn j).2 (o + stride) }

/-- RECORD (R346): the outcome and the R39 order at which it was found. A reserved record type is refused where a reserved
compression code is (R36; log entry 115). -/
def strRecord (s : State) (i : Nat) (j : Job) (avail : List Byte) : StrRes × Nat :=
  let d := j.desc
  let n := (strIn j).2
  let h := avail.take 32
  let stored := leAt h 4 4
  let dec := leAt h 8 4
  let comp := leAt h 3 1
  let type := leAt h 2 1
  let alive := leAt h 0x0C 2
  let exp := leAt d 0x60 2
  if n < 32 then ({ status := 0x06 }, 2)
  else if avail.length < 32 then ({ status := 0x80, met := true }, 1)
  else if crc32c (h.take 0x1C) ≠ leAt h 0x1C 4 then ({ status := 0x11 }, 1)
  else if leAt h 0 2 ≠ 0x5EAF ∨ n < 32 + stored then ({ status := 0x06 }, 2)
  else if alive ≠ exp then ({ status := if alive = (exp + 65536 - leAt d 0x62 2) % 65536 then 0x12 else 0x13 }, 4)
  else if avail.length < 32 + stored then ({ status := 0x80, used := avail.length - 32, met := true }, 5)
  else
    let pay := (avail.drop 32).take stored
    let c := crc32c pay
    let (L, which) := outLimit s i (if strCopy j then some (strCap j) else none) (some stored)
    if c ≠ leAt h 0x18 4 then ({ status := 0x11, value := c, used := stored }, 5)
    else if 4 < comp || !(type ≥ 0x80 || [1, 2, 3, 4, 0x10, 0x20, 0x30].contains type) then ({ status := 0x0C, value := c, used := stored }, 6)
    else if L < dec then ({ status := 0x04, value := c, used := stored, limit := which }, 6)
    else if comp = 0 then
      if dec ≠ stored then ({ status := 0x06, value := c, used := stored }, 6)
      else ({ status := 0, value := c, used := stored, out := if strCopy j then pay else [] }, 6)
    else
      let r := decompress (comp - 1) pay stored dec
      let st := match decStatus r 0 false with
        | 0x04 => 0x06
        | 0 => if r.n = dec then 0 else 0x06
        | st => st
      ({ status := st, value := c, used := min stored (ceilDiv r.pos 8), out := if strCopy j then r.out.reverse else [] }, 6)

/-! ## Jobs (R338, R347, R348) -/

/-- A stream job runs. -/
def strRun (i : Nat) (s : State) (j : Job) : Started :=
  let m := unitMaster (.stream i)
  let p := strIn j
  let o := strOut j
  let early (st chk : Nat) : Started := failWith s st (strEng 0 0 chk 0)
  let sp := ownSpans s j.origin [p, o]
  if !strFieldsOk j then early 0x81 1
  else if sp ≠ 0 then early sp 2
  else if spansMeet p o then early 0x82 3
  else
    let bad := firstBad s p.1 p.2
    let avail := (memRead s m 3 p.1 p.2).data.take (bad.getD p.2)
    let (r, order) : StrRes × Nat := match j.op with
      | 1 | 3 => (strDecode s i j avail bad.isSome, 0)
      | 2 => (strDeflate s i j avail bad.isSome, 0)
      | 4 => (strCrc j avail bad.isSome, 0)
      | 5 => (aliveFrom j avail (p.2 / leAt j.desc 0x4C 4) 0 0, 0)
      | _ => strRecord s i j avail
    let chk := if r.status = 0 then 0 else if j.op = 6 then 8 + order else 4
    let s := readInput s m p bad (if j.op = 6 then 32 + r.used else r.used) r.met
    { status := r.status, xfer := r.out.length, eng := strEng r.value r.used chk r.limit,
      writes := if r.out.isEmpty then [] else [(o.1, r.out)], st := s }

/-- What a stream job's start reads. -/
def strReads (s : State) (j : Job) : List Span :=
  if strFieldsOk j && ownSpans s j.origin [strIn j, strOut j] == 0 then [strIn j] else []

/-- An internal parity error is met during the operation (R338, R516): CHECK 4, for RECORD that of order 1. -/
def strParity (j : Job) (r : Started) : List Byte := putAt r.eng 0x0C [if j.op = 6 then 9 else 4]

/-- Start the next job of a stream engine: one runs at a time. -/
def strStart (s : State) (i op : Nat) : State :=
  let u : EngUnit := .stream i
  startFirst s u (takesOp [1, 2, 3, 4, 5, 6] op) (fun _ => phaseCount (jobsOf s u) .running < 1) strReads (strRun i) strParity

/-- Counts of ended jobs. -/
def countStream (s : State) (i status : Nat) : State :=
  if status = 0x04 then s.satAdd Fld.STREAM_COUNT_OUTFULL i 1
  else if status = 0x11 ∨ status = 0x12 ∨ status = 0x13 then s.satAdd Fld.STREAM_COUNT_MISMATCH i 1 else s

/-- A stream job ends (R347). -/
def strEnd (s : State) (i n : Nat) : State :=
  let u : EngUnit := .stream i
  match (endable s u)[n]? with
  | none => s
  | some j =>
    match endReady s u j with
    | .stall s => s
    | .go =>
      let f := finishWrites s u j
      (countStream (endRecord f.st u f.job) i f.job.status).modAdd Fld.STREAM_STATUS_DONE i 1

/-- A write of STREAM_CFG (R339): LOCK freezes OUT_MAX and RATIO. -/
def writeStreamCfg (s : State) (i : Nat) (a : CsrAcc) : State := s.plainWrite .STREAM_CFG i (s.flag Fld.STREAM_CFG_LOCK i) a

/-- INFLATE (R341). -/
def execStreamInflate (e : Fin 16) (s : State) : Host.Outcome State Fault Refusal := .next (strStart s e 1)

/-- DEFLATE (R343). -/
def execStreamDeflate (e : Fin 16) (s : State) : Host.Outcome State Fault Refusal := .next (strStart s e 2)

/-- ZSTD (R342). -/
def execStreamZstd (e : Fin 16) (s : State) : Host.Outcome State Fault Refusal := .next (strStart s e 3)

/-- CRC (R344). -/
def execStreamCrc (e : Fin 16) (s : State) : Host.Outcome State Fault Refusal := .next (strStart s e 4)

/-- ALIVE (R345). -/
def execStreamAlive (e : Fin 16) (s : State) : Host.Outcome State Fault Refusal := .next (strStart s e 5)

/-- RECORD (R346). -/
def execStreamRecord (e : Fin 16) (s : State) : Host.Outcome State Fault Refusal := .next (strStart s e 6)

/-- STREAM_JOB_END (R347). -/
def execStreamJobEnd (e : Fin 16) (i : Nat) (s : State) : Host.Outcome State Fault Refusal := .next (strEnd s e i)

/-- STREAM_ABORT (R348). -/
def execStreamAbort (e : Fin 16) (a : CsrAcc) (s : State) : Host.Outcome State Fault Refusal :=
  .next (onPdie s (fun s =>
    writeAbort s (.stream e) Fld.STREAM_ABORT_TAG Fld.STREAM_ABORT_JOB Fld.STREAM_ABORT_RES_STATUS
      Fld.STREAM_ABORT_RES_COUNT e a))

/-- STREAM_CFG_LOCK: a write of STREAM_CFG, its LOCK bit among them (R339). -/
def execStreamCfgLock (e : Fin 16) (a : CsrAcc) (s : State) : Host.Outcome State Fault Refusal :=
  .next (onPdie s (fun s => writeStreamCfg s e a))

/-! ## DRAM channels -/

/-- A write of MEM_IL (R319): HASH only while LOCK is clear. -/
def writeMemIl (s : State) (a : CsrAcc) : State := s.plainWrite .MEM_IL 0 (s.flag Fld.MEM_IL_LOCK 0) a

/-- MEM_IL_LOCK (R319). -/
def execMemIlLock (a : CsrAcc) (s : State) : Host.Outcome State Fault Refusal :=
  .next (onModule s (fun s => writeMemIl s a))

/-- A master reads a line (R322 to R324); a line that the host holds is asked for first (R410), and one above
populated DRAM reads zero (R316). -/
def dramReadLine (s : State) (m line : Nat) : State :=
  match prepare s m [(line * 64, 64)] [] with
  | .stall s => s
  | .go => (memRead s m 3 (line * 64) 64).st

/-- A master writes bytes of a line (R325). -/
def dramWriteBytes (s : State) (m line off : Nat) (bs : List Byte) : State :=
  let bs := bs.take (64 - off)
  match prepare s m [] [(line * 64 + off, bs.length)] with
  | .stall s => s
  | .go => if bs.isEmpty then s else memPut s m (line * 64 + off) bs

/-- DRAM_READ (R322 to R324); with the P-dies, and so DRAM, down it waits (R474). -/
def execDramRead (m : Master) (line : Fin 103079215104) (s : State) : Host.Outcome State Fault Refusal :=
  .next (onPdie s (fun s => dramReadLine s m.toNat line))

/-- DRAM_WRITE (R325). -/
def execDramWrite (m : Master) (line : Fin 103079215104) (off : Fin 64) (bs : List Byte) (s : State) :
    Host.Outcome State Fault Refusal :=
  .next (onPdie s (fun s => dramWriteBytes s m.toNat line off bs))

/-- CORRECTED_WRITEBACK (R323): the `i`-th corrected line still due is written back. -/
def execCorrectedWriteback (i : Nat) (s : State) : Host.Outcome State Fault Refusal :=
  match s.wbPend[i]? with
  | none => .next s
  | some l =>
    let s := { s with wbPend := s.wbPend.eraseIdx i }
    .next (if anyChanFailed s && lineOnFailed s l then s else setErrs s l [])

/-- MCLK cycles between refreshes of a rank (R327). -/
def refreshInterval (s : State) (ch : Nat) : Nat := if Cells.get (fun _ => false) s.hot ch then 4290 else 8580

/-- REFRESH (R327): `cycles` MCLK cycles after the rank's last refresh; `delayed` requests wait on it. -/
def execRefresh (ch : Fin 24) (rank : Fin 4) (cycles : BitVec 16) (delayed : BitVec 32) (s : State) :
    Host.Outcome State Fault Refusal :=
  let _ := rank
  .next (if chanFailed s ch || cycles.toNat < refreshInterval s ch then s
    else (s.modAdd Fld.DRAM_REFRESH_ISSUED ch 1).modAdd Fld.DRAM_REFRESH_DELAYED ch delayed.toNat)

/-- DRAM_TEMPERATURE_SENSOR (R327): the sensor of a channel's module reports above 85 °C, or no longer. -/
def execDramTemperatureSensor (ch : Fin 24) (hot : Bool) (s : State) : Host.Outcome State Fault Refusal :=
  .next { s with hot := Cells.put (fun _ => false) s.hot ch hot }

end Sys2Proof.Machine
end

