-- ==== Sys2Proof/Machine/VideoStream.lean ====
section
/-!
DEFINITION. The walk of a video or image record (R188: start codes, OBU headers, JPEG markers): its stream units, those that R183
skips, the sequence-level headers of check 4, the pictures that check 8 counts, and the headers of a JPEG record. Formats and
codes are those of the standards that chapter 06 names (PRESUMED; log entry 10).
-/
namespace Sys2Proof.Machine

/-- A record as the walk finds it. -/
abbrev Stream := List StreamUnit

/-! ## NAL units -/

/-- The places after the start codes 00 00 01 of a byte stream, `i` the place of its first byte. -/
def startCodes : List Byte → Nat → List Nat
  | [], _ => []
  | b :: l, i => if b = 0 && l.take 2 == [0, 1] then (i + 3) :: startCodes l (i + 1) else startCodes l (i + 1)

/-- Bytes without the zeros at their end. -/
def trimZeros (bs : List Byte) : List Byte := (bs.reverse.dropWhile (fun b => b == 0)).reverse

/-- The NAL units of a byte stream: each runs to the next start code, trailing zeros left out. HEVC (`hevc`) and H.264 keep the
type in different bits. -/
def nalUnits (hevc : Bool) (pay : List Byte) : Stream :=
  let at' := startCodes pay 0
  (at'.zip (at'.drop 1 ++ [pay.length + 3])).map (fun e =>
    let d := trimZeros ((pay.drop e.1).take (e.2 - 3 - e.1))
    ⟨if hevc then bits (leAt d 0 1) 1 6 else bits (leAt d 0 1) 0 5, e.1, d⟩)

/-! ## OBUs -/

/-- A leb128 number: its value and the bytes it takes, of at most eight. -/
def leb128 : Nat → List Byte → Nat × Nat
  | 0, _ => (0, 0)
  | _ + 1, [] => (0, 0)
  | n + 1, b :: l =>
    if b.toNat < 128 then (b.toNat, 1)
    else
      let (v, k) := leb128 n l
      (b.toNat % 128 + 128 * v, k + 1)

/-- The OBUs of a low-overhead byte stream; one without a size field runs to the end. -/
def obuUnits : Nat → Nat → List Byte → Stream
  | 0, _, _ => []
  | _ + 1, _, [] => []
  | fuel + 1, off, b :: l =>
    let ext := if b.getLsbD 2 then 1 else 0
    let (size, k) := if b.getLsbD 1 then leb128 8 (l.drop ext) else (l.length - ext, 0)
    let head := 1 + ext + k
    let body := (b :: l).drop head
    ⟨bits b.toNat 3 4, off + head, body.take size⟩ :: obuUnits fuel (off + head + size) (body.drop size)

/-! ## JPEG segments -/

/-- Markers without a segment: TEM, RST0 to RST7, SOI, EOI. -/
def bareMarker (m : Nat) : Bool := m = 1 || (0xD0 ≤ m && m ≤ 0xD9)

/-- The segments of a JPEG up to its first scan, whose unit holds the rest of the record. -/
def jpegUnits : Nat → Nat → List Byte → Stream
  | 0, _, _ => []
  | _ + 1, _, [] => []
  | fuel + 1, off, b :: l =>
    match l with
    | [] => []
    | c :: r =>
      if b ≠ 0xFF then []
      else if c = 0xFF then jpegUnits fuel (off + 1) l
      else if bareMarker c.toNat then ⟨c.toNat, off + 2, []⟩ :: jpegUnits fuel (off + 2) r
      else if c = 0xDA then [⟨0xDA, off + 2, r⟩]
      else
        let n := beNat (r.take 2)
        if n < 2 then [] else ⟨c.toNat, off + 4, (r.drop 2).take (n - 2)⟩ :: jpegUnits fuel (off + 2 + n) (r.drop n)

/-! ## The walk -/

/-- Supplemental enhancement information, user data and metadata have no effect (R183): HEVC and H.264 SEI, AV1 metadata and padding,
JPEG comments and application data. -/
def skippedUnit (ty : Nat) (u : StreamUnit) : Bool :=
  match ty with
  | 1 => u.kind = 39 || u.kind = 40
  | 2 => u.kind = 5 || u.kind = 15
  | 3 => u.kind = 6
  | _ => u.kind = 0xFE || (0xE0 ≤ u.kind && u.kind ≤ 0xEF)

/-- The stream of a record of types 1 to 4. -/
def videoStream (ty : Nat) (pay : List Byte) : Stream :=
  (match ty with
    | 1 => nalUnits true pay
    | 2 => obuUnits pay.length 0 pay
    | 3 => nalUnits false pay
    | 4 => jpegUnits pay.length 0 pay
    | _ => []).filter (fun u => !skippedUnit ty u)

/-- A unit with coded picture data, or AV1's show_existing_frame. -/
def codedUnit (ty : Nat) (u : StreamUnit) : Bool :=
  match ty with
  | 1 => u.kind ≤ 9 || (16 ≤ u.kind && u.kind ≤ 21)
  | 2 => u.kind = 3 || u.kind = 6
  | 3 => u.kind = 1 || u.kind = 5
  | _ => u.kind = 0xDA

/-- The unit that begins a picture: HEVC's first_slice_segment_in_pic_flag in the base layer, H.264's first_mb_in_slice of 0. -/
def pictureUnit (ty : Nat) (u : StreamUnit) : Bool :=
  codedUnit ty u && (match ty with
    | 1 => bits (leAt u.data 0 2) 0 1 = 0 && bits (leAt u.data 1 1) 3 5 = 0 && bits (leAt u.data 2 1) 7 1 = 1
    | 3 => bits (leAt u.data 1 1) 7 1 = 1
    | _ => true)

/-- The units that begin pictures, in decode order; a JPEG record has one picture. -/
def pictureUnits (ty : Nat) (st : Stream) : Stream :=
  let us := st.filter (pictureUnit ty)
  if ty = 4 then us.take 1 else us

/-- The units before the first coded one. -/
def headUnits (ty : Nat) (st : Stream) : Stream := st.takeWhile (fun u => !codedUnit ty u)

/-- AV1's reduced_still_picture_header, without which a frame header begins with show_existing_frame. -/
def av1Reduced (st : Stream) : Bool :=
  (st.find? (fun u => u.kind = 1)).elim false (fun u => bits (leAt u.data 0 1) 3 1 = 1)

/-- The slot that an AV1 frame header shows, if it is a show_existing_frame. -/
def av1Existing (st : Stream) (u : StreamUnit) : Option Nat :=
  if u.kind = 3 && !av1Reduced st && bits (leAt u.data 0 1) 7 1 = 1 then some (bits (leAt u.data 0 1) 4 3) else none

/-! ## JPEG headers -/

/-- A frame header SOF0 to SOF15: not DHT, JPG or DAC. -/
def isSof (m : Nat) : Bool := 0xC0 ≤ m && m ≤ 0xCF && m ≠ 0xC4 && m ≠ 0xC8 && m ≠ 0xCC

/-- Quantisation tables of a DQT segment. -/
def dqtTables : Nat → List Byte → List Nat
  | 0, _ => []
  | _ + 1, [] => []
  | n + 1, b :: l =>
    let k := 64 * (b.toNat / 16 + 1)
    if l.length < k then [] else b.toNat % 16 :: dqtTables n (l.drop k)

/-- Huffman tables of a DHT segment, as class times 16 plus destination. -/
def dhtTables : Nat → List Byte → List Nat
  | 0, _ => []
  | _ + 1, [] => []
  | n + 1, b :: l =>
    let k := 16 + (l.take 16).foldl (fun a c => a + c.toNat) 0
    if l.length < k then [] else b.toNat :: dhtTables n (l.drop k)

/-- The components of a frame header: identifier, sampling factors, quantisation table. -/
def sofComps (d : List Byte) : List (Nat × Nat × Nat × Nat) :=
  (List.range (leAt d 5 1)).map (fun i =>
    (leAt d (6 + 3 * i) 1, bits (leAt d (7 + 3 * i) 1) 4 4, bits (leAt d (7 + 3 * i) 1) 0 4, leAt d (8 + 3 * i) 1))

/-- The components of a scan header: identifier, DC and AC tables. Its unit begins with the segment's length. -/
def sosComps (d : List Byte) : List (Nat × Nat × Nat) :=
  (List.range (leAt d 2 1)).map (fun i =>
    (leAt d (3 + 2 * i) 1, bits (leAt d (4 + 2 * i) 1) 4 4, bits (leAt d (4 + 2 * i) 1) 0 4))

/-- Every table that the first scan uses has been sent; arithmetic coding (SOF9 and above) uses no Huffman tables. -/
def jpegTables (st : Stream) (sof : Nat) (cs : List (Nat × Nat × Nat × Nat)) (scan : List (Nat × Nat × Nat)) : Bool :=
  let head := headUnits 4 st
  let q := (head.filter (fun u => u.kind = 0xDB)).flatMap (fun u => dqtTables u.data.length u.data)
  let h := (head.filter (fun u => u.kind = 0xC4)).flatMap (fun u => dhtTables u.data.length u.data)
  scan.all (fun e => match cs.find? (fun c => c.1 == e.1) with
    | none => false
    | some c => q.contains c.2.2.2 && (0xC9 ≤ sof || (h.contains e.2.1 && h.contains (16 + e.2.2))))

/-- The chroma code (R208) of a frame's sampling factors; 4 where R182 lists none such. -/
def jpegChroma (cs : List (Nat × Nat × Nat × Nat)) : Nat :=
  match cs with
  | [_] => 2
  | [(_, h0, v0, _), (_, h1, v1, _), (_, h2, v2, _)] =>
    if h1 ≠ h2 ∨ v1 ≠ v2 then 4
    else if h0 = h1 ∧ v0 = v1 then 1
    else if h0 = 2 * h1 ∧ v0 = v1 then 3
    else if h0 = 2 * h1 ∧ v0 = 2 * v1 then 0
    else 4
  | _ => 4

/-- The headers of a JPEG record: SOI, frame header, scan header and every table that the first scan uses. -/
def jpegSeq (st : Stream) : Option SeqHeader :=
  match st.head?, (headUnits 4 st).find? (fun u => isSof u.kind), st.find? (codedUnit 4) with
  | some soi, some f, some scan =>
    let cs := sofComps f.data
    let sc := sosComps scan.data
    let h := beNat (sliceB f.data 1 2)
    let w := beNat (sliceB f.data 3 2)
    if soi.kind ≠ 0xD8 ∨ f.data.length ≠ 6 + 3 * cs.length ∨ cs.isEmpty ∨ w = 0 ∨ h = 0 then none
    else if beNat (scan.data.take 2) ≠ 6 + 2 * sc.length ∨ scan.data.length < 6 + 2 * sc.length ∨ sc.isEmpty then none
    else if cs.any (fun c => c.2.1 = 0 || 4 < c.2.1 || c.2.2.1 = 0 || 4 < c.2.2.1) then none
    else if !jpegTables st f.kind cs sc then none
    else some {
      profile := if st.any (fun u => u.kind = 0xDE) then .other
        else if f.kind = 0xC0 then .jpegBaseline else if f.kind = 0xC1 ∨ f.kind = 0xC9 then .jpegExtended else .other
      level := 0, chroma := jpegChroma cs, components := cs.length, depth := leAt f.data 0 1, interlaced := false
      otherTool := false, width := w, height := h, unitLog := 0, dispX := 0, dispY := 0, dispW := w, dispH := h }
  | _, _, _ => none

/-! ## Checks 4 and 8 -/

/-- The sequence-level headers stand before the first coded slice or frame (check 4): HEVC VPS, SPS and PPS; AV1's sequence header;
H.264 SPS and PPS. -/
def headersFound (ty : Nat) (st : Stream) : Bool :=
  let has (k : Nat) : Bool := (headUnits ty st).any (fun u => u.kind == k)
  match ty with
  | 1 => has 32 && has 33 && has 34
  | 2 => has 1
  | 3 => has 7 && has 8
  | _ => true

/-- Check 4: the sequence-level headers, where they are found and parse. -/
def sequenceHeaders (ty : Nat) (st : Stream) : Option SeqHeader :=
  if ty = 4 then jpegSeq st else if headersFound ty st then Config.videoSeq ty st else none

/-- How many first bytes of a payload are read to find the sequence-level headers: those before the first coded unit, a JPEG's scan
header included (DEDUCED, log entry 10). -/
def headersEnd (ty : Nat) (st : Stream) (len : Nat) : Nat :=
  match st.find? (codedUnit ty) with
  | some u => if ty = 4 then u.off + beNat (u.data.take 2) else u.off
  | none => len

/-- What the picture scan reads of a payload (DEDUCED, log entry 10): all of it where start codes delimit units; the OBUs of an AV1
record without their tile data; a JPEG up to its scan. -/
def scanParts (ty : Nat) (pay : List Byte) (st : Stream) : List (Nat × Nat) :=
  match ty with
  | 2 =>
    let us := obuUnits pay.length 0 pay
    ((0 :: us.map (fun u => u.off + u.data.length)).zip us).map (fun e =>
      let body := if e.2.kind = 4 then 0 else if e.2.kind = 6 then Config.av1HeadBytes e.2 else e.2.data.length
      (e.1, e.2.off - e.1 + body))
  | 4 => [(0, headersEnd 4 st pay.length)]
  | _ => [(0, pay.length)]

/-- The picture headers of a record in decode order, show_existing_frame headers among them (R193). -/
def recordPics (ty : Nat) (st : Stream) (v : SeqHeader) : List PicHeader :=
  (pictureUnits ty st).zipIdx.map (fun u =>
    match ty with
    | 1 => ⟨Config.videoFrame 1 st u.2, .hevc (Config.hevcHead st u.2)⟩
    | 2 =>
      match av1Existing st u.1 with
      | some n => ⟨⟨true, false, v.width, v.height⟩, .av1Show n⟩
      | none => ⟨Config.videoFrame 2 st u.2, .av1 (Config.av1Head st u.2)⟩
    | 3 => ⟨Config.videoFrame 3 st u.2, .h264 (Config.h264Head st u.2)⟩
    | _ => ⟨⟨true, false, v.width, v.height⟩, .jpeg⟩)

end Sys2Proof.Machine
end

