-- ==== Sys2Proof/Machine/Video.lean ====
section
/-!
DEFINITION. What a thresher's first pass makes of the headers of a record (R189, R192 to R198): supported streams, decoder
state picture by picture, output order, the reference closure and its buffers, decoding units, selected units and region
misses. The marking processes are those of the standards that chapter 06 names (PRESUMED; log entry 10).
-/
namespace Sys2Proof.Machine

/-! ## Supported streams (R182, R183) -/

/-- Horizontal subsampling of a chroma code (R208 codes). -/
def chromaX (c : Nat) : Nat := if c = 0 ∨ c = 3 then 2 else 1
/-- Vertical subsampling. -/
def chromaY (c : Nat) : Nat := if c = 0 then 2 else 1

/-- Profile, level, chroma format and bit depth of a sequence lie in the table of R182, by record type. -/
def profileOk (ty : Nat) (v : SeqHeader) : Bool :=
  match ty, v.profile with
  | 1, .hevcMain | 1, .hevcMainStill => v.level ≤ 62 && v.chroma == 0 && v.depth == 8
  | 1, .hevcMain10 => v.level ≤ 62 && v.chroma == 0 && (v.depth == 8 || v.depth == 10)
  | 2, .av1Main => v.level ≤ 61 && (v.chroma == 0 || v.chroma == 2) && (v.depth == 8 || v.depth == 10)
  | 3, .h264ConstrainedBaseline | 3, .h264Main | 3, .h264High =>
    v.level ≤ 62 && (v.chroma == 0 || v.chroma == 2) && v.depth == 8
  | 4, .jpegBaseline => jpegOk && v.depth == 8
  | 4, .jpegExtended => jpegOk && (v.depth == 8 || v.depth == 12)
  | _, _ => false
where
  /-- One component, or three at 4:4:4, 4:2:2 or 4:2:0. -/
  jpegOk : Bool := (v.components == 1 && v.chroma == 2) || (v.components == 3 && (v.chroma == 0 || v.chroma == 1 || v.chroma == 3))

/-- Check 5 of R188: supported under R182 and R183. -/
def streamSupported (ty : Nat) (v : SeqHeader) : Bool := profileOk ty v && !v.interlaced && !v.otherTool

/-- The coding unit U of R189. -/
def codingUnit (ty : Nat) (v : SeqHeader) : Nat × Nat :=
  match ty with
  | 3 => (16, 16)
  | 4 => (8 * chromaX v.chroma, 8 * chromaY v.chroma)
  | _ => (2 ^ v.unitLog, 2 ^ v.unitLog)

/-! ## Pass 1 (R193) -/

/-- What pass 1 gives for one header: a coded picture, or a show_existing_frame; its direct references as header indices (none
where the reference is absent from the record); its place in output order, if it is output (R192, R194); an AV1 reference of
another size, which asks for reference scaling (R183). -/
structure PassPic where
  coded : Bool
  refs : List (Option Nat)
  place : Option (Nat × Int)
  scaled : Bool := false
  deriving DecidableEq, Repr, Inhabited

/-! ### HEVC -/

/-- A picture of the decoded picture buffer: header index, order count, marked long-term. -/
structure HevcRef where
  pic : Nat
  poc : Int
  long : Bool
  deriving DecidableEq, Repr, Inhabited

/-- HEVC state between pictures: the buffer, the order count that later ones derive theirs from, the coded video sequence, and
whether RASL pictures are skipped. -/
structure HevcPass where
  dpb : List HevcRef := []
  prevPoc : Int := 0
  cvs : Nat := 0
  skipRasl : Bool := true
  first : Bool := true
  deriving DecidableEq, Repr, Inhabited

/-- The high part of an order count from that of an earlier picture (HEVC, and H.264 type 0). -/
def pocMsb (prevMsb : Int) (prevLsb lsb m : Nat) : Int :=
  if lsb < prevLsb ∧ prevLsb - lsb ≥ m / 2 then prevMsb + m
  else if lsb > prevLsb ∧ lsb - prevLsb > m / 2 then prevMsb - m
  else prevMsb

/-- One HEVC header: order count, reference picture set, marking. -/
def hevcStep (h : HevcHead) (i : Nat) (p : HevcPass) : PassPic × HevcPass :=
  let opens := h.irap && (h.idr || !h.cra || h.afterEnd || p.first)
  let prevLsb := (p.prevPoc % (h.maxLsb : Int)).toNat
  let poc : Int := (if opens then 0 else pocMsb (p.prevPoc - prevLsb) prevLsb h.lsb h.maxLsb) + h.lsb
  let dpb := if opens then [] else p.dpb
  let cvs := if opens then p.cvs + 1 else p.cvs
  let long := h.long.map (fun (e : Nat × Option Nat × Bool) =>
    (match e.2.1 with
      | some cycle =>
        let full : Int := (e.1 : Int) + poc - ((cycle * h.maxLsb : Nat) : Int) - (h.lsb : Int)
        dpb.find? (fun r => r.poc == full)
      | none => dpb.find? (fun r => r.poc % (h.maxLsb : Int) == (e.1 : Int)), e.2.2))
  let short := h.short.map (fun (e : Int × Bool) => (dpb.find? (fun r => !r.long && r.poc == poc + e.1), e.2))
  let kept := short.filterMap Prod.fst ++ (long.filterMap Prod.fst).map (fun r => { r with long := true })
  let refs := (if h.idr then [] else short ++ long).filterMap (fun e => if e.2 then some (e.1.map HevcRef.pic) else none)
  let skip := if h.irap then opens else p.skipRasl
  ({ coded := true, refs := refs, place := if h.output && !(h.rasl && skip) then some (cvs, poc) else none },
   { dpb := (if h.idr then [] else kept) ++ [⟨i, poc, false⟩], prevPoc := if h.anchor then poc else p.prevPoc, cvs := cvs,
     skipRasl := skip, first := false })

/-! ### H.264 -/

/-- A reference frame: header index (none for a frame that a gap in frame_num generates), frame_num, long-term index, order
count. -/
structure H264Ref where
  pic : Option Nat
  frameNum : Nat
  long : Option Nat
  poc : Int
  deriving DecidableEq, Repr, Inhabited

/-- H.264 state between pictures. -/
structure H264Pass where
  frames : List H264Ref := []
  prevRefNum : Nat := 0
  prevNum : Nat := 0
  offset : Nat := 0
  prevMsb : Int := 0
  prevLsb : Int := 0
  period : Nat := 0
  deriving DecidableEq, Repr, Inhabited

/-- FrameNumWrap of a short-term frame. -/
def H264Ref.wrap (r : H264Ref) (q : H264Seq) (num : Nat) : Int :=
  if r.frameNum > num then (r.frameNum : Int) - q.maxFrameNum else r.frameNum

/-- The short-term frame with a picture number. -/
def shortRef (fs : List H264Ref) (q : H264Seq) (num : Nat) (n : Int) : Option H264Ref :=
  fs.find? (fun r => r.long.isNone && r.wrap q num == n)

/-- The long-term frame with an index. -/
def longRef (fs : List H264Ref) (n : Nat) : Option H264Ref := fs.find? (fun r => r.long == some n)

/-- The sliding window: when the frames fill it, the short-term frame with the lowest FrameNumWrap leaves. -/
def slideWindow (q : H264Seq) (num : Nat) (fs : List H264Ref) : List H264Ref :=
  if fs.length < max 1 q.refFrames then fs
  else
    let shorts := fs.filter (fun r => r.long.isNone)
    match shorts.find? (fun r => shorts.all (fun t => r.wrap q num ≤ t.wrap q num)) with
    | some r => fs.erase r
    | none => fs

/-- Insert by a key into a list in rising order of it. -/
def insertRising {α : Type} (key : α → Int) (a : α) : List α → List α
  | [] => [a]
  | b :: l => if key a < key b then a :: b :: l else b :: insertRising key a l

/-- A list in rising order of a key; equal keys keep their order. -/
def rising {α : Type} (key : α → Int) (l : List α) : List α := l.foldl (fun acc a => insertRising key a acc) []

/-- The initial lists 0 and 1 of a slice. -/
def initialLists (q : H264Seq) (num : Nat) (poc : Int) (kind : Nat) (fs : List H264Ref) : List H264Ref × List H264Ref :=
  let long := rising (fun (r : H264Ref) => (r.long.getD 0 : Int)) (fs.filter (fun r => r.long.isSome))
  let short := fs.filter (fun r => r.long.isNone)
  if kind = 1 then
    let short := if q.pocType = 0 then short.filter (fun r => r.pic.isSome) else short
    let before := rising (fun (r : H264Ref) => -r.poc) (short.filter (fun r => r.poc < poc))
    let after := rising (fun (r : H264Ref) => r.poc) (short.filter (fun r => poc < r.poc))
    let l0 := before ++ after ++ long
    let l1 := after ++ before ++ long
    (l0, match l1 with
      | a :: b :: l => if l0 = l1 then b :: a :: l else l1
      | _ => l1)
  else (rising (fun (r : H264Ref) => -(r.wrap q num)) short ++ long, [])

/-- The final list of a slice: `active` entries, after the modification commands. An entry that neither the initial list nor a
command fills counts as an absent reference (DESIGN CHOICE, log entry 130). -/
def finalList (q : H264Seq) (num : Nat) (fs : List H264Ref) (init : List H264Ref) (active : Nat) (mods : List (Nat × Nat)) :
    List (Option H264Ref) :=
  let start := ((init.map some) ++ List.replicate active none).take active
  (mods.zipIdx.foldl (fun (acc : List (Option H264Ref) × Int) m =>
    let (l, pred) := acc
    let put (r : Option H264Ref) : List (Option H264Ref) :=
      (l.take m.2 ++ [r] ++ (l.drop m.2).filter (fun e => e.isNone || e != r)).take active
    if m.1.1 = 2 then (put (longRef fs m.1.2), pred)
    else
      let d : Int := if m.1.1 = 0 then -((m.1.2 : Int) + 1) else (m.1.2 : Int) + 1
      let pred := (pred + d) % (q.maxFrameNum : Int)
      let n := if pred > num then pred - q.maxFrameNum else pred
      (put (shortRef fs q num n), pred)) (start, (num : Int))).1

/-- The direct references of an H.264 picture (R194): every entry of the final lists of every slice. -/
def h264Refs (h : H264Head) (poc : Int) (fs : List H264Ref) : List (Option Nat) :=
  h.slices.flatMap (fun c =>
    let (i0, i1) := initialLists h.seq h.frameNum poc c.kind fs
    let l0 := if c.kind = 0 then [] else finalList h.seq h.frameNum fs i0 c.active0 c.mods0
    let l1 := if c.kind = 2 then finalList h.seq h.frameNum fs i1 c.active1 c.mods1 else []
    (l0 ++ l1).map (fun r => r.bind H264Ref.pic))

/-- One memory management control operation on the earlier frames. -/
def mmcoStep (q : H264Seq) (num : Nat) (fs : List H264Ref) (m : Nat × Nat × Nat) : List H264Ref :=
  let n : Int := (num : Int) - (m.2.1 + 1)
  match m.1 with
  | 1 => match shortRef fs q num n with | some r => fs.erase r | none => fs
  | 2 => fs.filter (fun r => r.long != some m.2.1)
  | 3 =>
    match shortRef fs q num n with
    | some r => (fs.filter (fun t => t.long != some m.2.2)).map (fun t => if t = r then { t with long := some m.2.2 } else t)
    | none => fs
  | 4 => fs.filter (fun r => match r.long with | some l => l < m.2.1 | none => true)
  | 5 => []
  | 6 => fs.filter (fun r => r.long != some m.2.1)
  | _ => fs

/-- The order count of an H.264 frame: its top field's, its own, and the high part of type 0. -/
def h264Poc (h : H264Head) (p : H264Pass) (offset : Nat) : Int × Int × Int :=
  let q := h.seq
  match q.pocType with
  | 0 =>
    let msb := if h.idr then 0 else pocMsb p.prevMsb p.prevLsb.toNat h.lsb q.maxLsb
    let top := msb + h.lsb
    (top, min top (top + h.bottom), msb)
  | 1 =>
    let n := q.offsetsRef.length
    let abs := if n = 0 then 0 else offset + h.frameNum
    let abs := if h.ref then abs else abs - 1
    let cycle := q.offsetsRef.foldl (· + ·) 0
    let e : Int := if abs = 0 then 0
      else ((abs - 1) / n : Nat) * cycle + (q.offsetsRef.take ((abs - 1) % n + 1)).foldl (· + ·) 0
    let top := (if h.ref then e else e + q.offsetNonRef) + h.delta0
    (top, min top (top + q.offsetBottom + h.delta1), 0)
  | _ =>
    let n : Int := 2 * ((offset + h.frameNum : Nat) : Int)
    let t := if h.idr then 0 else if h.ref then n else n - 1
    (t, t, 0)

/-- The frames that a gap in frame_num generates: none of them is in the record. -/
def fillGap (h : H264Head) (p : H264Pass) : H264Pass :=
  let m := h.seq.maxFrameNum
  if h.idr ∨ h.frameNum = p.prevRefNum ∨ m = 0 then p
  else
    let gap := (h.frameNum + m - (p.prevRefNum + 1) % m) % m
    (List.range gap).foldl (fun (p : H264Pass) _ =>
      let n := (p.prevRefNum + 1) % m
      { p with frames := slideWindow h.seq n p.frames ++ [⟨none, n, none, 0⟩], prevRefNum := n, prevNum := n,
               offset := if p.prevNum > n then p.offset + m else p.offset }) p

/-- One H.264 header: gaps, order count, reference lists, marking. -/
def h264Step (h : H264Head) (i : Nat) (p : H264Pass) : PassPic × H264Pass :=
  let q := h.seq
  let p := fillGap h p
  let offset := if h.idr then 0 else if p.prevNum > h.frameNum then p.offset + q.maxFrameNum else p.offset
  let (top, poc, msb) := h264Poc h p offset
  let fs := if h.idr then [] else p.frames
  let ops := if h.idr then [] else h.mmco.getD []
  let clears := ops.any (fun m => m.1 == 5)
  let period := if h.idr || clears then p.period + 1 else p.period
  let own := if clears then 0 else poc
  let num := if clears then 0 else h.frameNum
  let long := if h.idr then (if h.longIdr then some 0 else none) else (ops.find? (fun m => m.1 == 6)).map (fun m => m.2.1)
  let marked := if h.mmco.isSome && !h.idr then ops.foldl (mmcoStep q h.frameNum) fs else slideWindow q h.frameNum fs
  ({ coded := true, refs := h264Refs h poc fs, place := some (period, own) },
   { frames := if h.ref then marked ++ [⟨some i, num, long, own⟩] else fs
     prevRefNum := if h.ref then num else p.prevRefNum
     prevNum := num
     offset := if clears then 0 else offset
     prevMsb := if !h.ref then p.prevMsb else if clears then 0 else msb
     prevLsb := if !h.ref then p.prevLsb else if clears then top - poc else (h.lsb : Int)
     period := period })

/-! ### AV1 -/

/-- What a slot carries of the frame that refreshed it (R193): its header index and its frame header state. -/
structure Av1Ref where
  pic : Nat
  frame : PicFrame
  head : Av1Head
  deriving DecidableEq, Repr, Inhabited

/-- AV1's eight reference slots. -/
structure Av1Pass where
  slots : List (Option Av1Ref) := List.replicate 8 none
  deriving DecidableEq, Repr, Inhabited

/-- What a slot holds. -/
def Av1Pass.slot (p : Av1Pass) (n : Nat) : Option Av1Ref := (p.slots[n]?).join

/-- One AV1 frame header: references by slot, their sizes, slot refresh. -/
def av1Step (f : PicFrame) (h : Av1Head) (i : Nat) (p : Av1Pass) : PassPic × Av1Pass :=
  let named := h.refIdx ++ (match h.primary with | some k => [h.refIdx.getD k 0] | none => [])
  ({ coded := true, refs := if h.inter then named.map (fun n => (p.slot n).map Av1Ref.pic) else [],
     place := if h.shown then some (0, (i : Int)) else none,
     scaled := h.inter && h.refIdx.any (fun n =>
       (p.slot n).elim false (fun r => r.frame.width != f.width || r.frame.height != f.height)) },
   { slots := p.slots.zipIdx.map (fun e => if h.refresh.testBit e.2 then some ⟨i, f, h⟩ else e.1) })

/-- One AV1 show_existing_frame: a key frame shown again refreshes every slot with the state of its own. -/
def av1Existed (n i : Nat) (p : Av1Pass) : PassPic × Av1Pass :=
  let e := p.slot n
  ({ coded := false, refs := [e.map Av1Ref.pic], place := some (0, (i : Int)) },
    if e.elim false (fun r => r.head.key) then { slots := List.replicate 8 e } else p)

/-! ### The pass -/

/-- Decoder state of pass 1, of each standard. -/
structure Pass where
  hevc : HevcPass := {}
  h264 : H264Pass := {}
  av1 : Av1Pass := {}
  deriving DecidableEq, Repr, Inhabited

/-- One header in decode order. -/
def passStep (h : PicHeader) (i : Nat) (p : Pass) : PassPic × Pass :=
  match h.syn with
  | .hevc x => let (o, t) := hevcStep x i p.hevc; (o, { p with hevc := t })
  | .h264 x => let (o, t) := h264Step x i p.h264; (o, { p with h264 := t })
  | .av1 x => let (o, t) := av1Step h.frame x i p.av1; (o, { p with av1 := t })
  | .av1Show n => let (o, t) := av1Existed n i p.av1; (o, { p with av1 := t })
  | .jpeg => ({ coded := true, refs := [], place := some (0, 0) }, p)

/-- Pass 1 over a record's headers (R193). -/
def passOne (hs : List PicHeader) : List PassPic :=
  (hs.zipIdx.foldl (fun (acc : List PassPic × Pass) h => let (o, p) := passStep h.1 h.2 acc.2; (acc.1 ++ [o], p)) ([], {})).1

/-- Check 10 of R188: the first header in decode order that does not parse (CORRUPT_INPUT), or that changes the coded size, asks for
reference scaling or uses another feature of R183 (UNSUPPORTED). -/
def picHeaderStatus (v : SeqHeader) (hs : List PicHeader) : Nat :=
  match (hs.zip (passOne hs)).find? (fun e => !e.1.frame.parses || e.1.frame.refused || e.1.frame.width ≠ v.width
      || e.1.frame.height ≠ v.height || e.2.scaled) with
  | none => 0
  | some e => if !e.1.frame.parses then 0x06 else 0x0C

/-- Does a header carry coded data? A show_existing_frame does not. -/
def picCoded (h : PicHeader) : Bool :=
  match h.syn with
  | .av1Show _ => false
  | _ => true

/-- F of R188: the pictures that carry coded data. -/
def codedCount (hs : List PicHeader) : Nat := (hs.filter picCoded).length

/-- The output order of a record (R192): header indices in order of their places. -/
def outputOrder (ps : List PassPic) : List Nat :=
  let out := ps.zipIdx.filterMap (fun e => e.1.place.map (fun k => (k, e.2)))
  (rising (fun (e : (Nat × Int) × Nat) => (e.1.1 : Int)) (rising (fun (e : (Nat × Int) × Nat) => e.1.2) out)).map Prod.snd

/-- The header whose picture an output shows. -/
def shownPic (ps : List PassPic) (i : Nat) : Nat :=
  match ps[i]? with
  | some p => if p.coded then i else (p.refs.headD none).getD i
  | none => i

/-! ## The closure (R194, R195) -/

/-- The closure of a list of headers: the least set that holds them and the direct references of its members, in decode order.
A reference always lies before the picture that names it. -/
def closureOf (ps : List PassPic) (outs : List Nat) : List Nat :=
  let r := ps.zipIdx.reverse.foldl (fun (acc : List Nat × List Nat) e =>
    if acc.1.contains e.2 then (acc.1 ++ e.1.refs.filterMap id, e.2 :: acc.2) else acc) (outs, [])
  r.2

/-- Check 13: every member's references are in the record. -/
def refsPresent (ps : List PassPic) (cl : List Nat) : Bool :=
  cl.all (fun i => (ps.getD i default).refs.all Option.isSome)

/-- A dependency graph of more than 256 pictures is not applied (R195). -/
def closureFallback (cl : List Nat) : Bool := cl.length > 256

/-- The headers that a job decodes or shows: the closure, or every one (R195). -/
def decodedSet (ps : List PassPic) (cl : List Nat) : List Nat :=
  if closureFallback cl then List.range ps.length else cl

/-- The frame buffers that the closure needs at its largest (R190, DESIGN CHOICE, log entry 110): at each member, itself and
the earlier coded members that it or a later member references. -/
def liveBuffers (ps : List PassPic) (set : List Nat) : Nat :=
  (set.map (fun i =>
    (set.filter (fun k => (ps.getD k default).coded
      && (k == i || (k < i && set.any (fun l => i ≤ l && (ps.getD l default).refs.contains (some k)))))).length)).foldl max 0

/-- The number of frame buffers that a job requests (R190). -/
def bufferCount (ps : List PassPic) (cl : List Nat) : Nat := min 17 (liveBuffers ps (decodedSet ps cl) + 1)

/-! ## Regions (R196 to R198) -/

/-- Do two rectangles share a sample? -/
def rectsMeet (a b : VideoRect) : Bool :=
  0 < a.w && 0 < a.h && 0 < b.w && 0 < b.h && a.x < b.x + b.w && b.x < a.x + a.w && a.y < b.y + b.h && b.y < a.y + a.h

/-- A rectangle grown by `n` samples on every side, clipped to a picture. -/
def growRect (a : VideoRect) (n w h : Nat) : VideoRect :=
  let x0 := max 0 (a.x - n)
  let y0 := max 0 (a.y - n)
  let x1 := min (w : Int) (a.x + a.w + n)
  let y1 := min (h : Int) (a.y + a.h + n)
  ⟨x0, y0, (x1 - x0).toNat, (y1 - y0).toNat⟩

/-- The samples of a picture that a read of a rectangle gives: beyond the picture it reads the nearest ones. -/
def clampRect (a : VideoRect) (w h : Nat) : VideoRect :=
  let near (n : Nat) (x : Int) : Int := min (max x 0) ((n : Int) - 1)
  let x0 := near w a.x
  let y0 := near h a.y
  if a.w = 0 ∨ a.h = 0 then a
  else ⟨x0, y0, (near w (a.x + a.w - 1) - x0 + 1).toNat, (near h (a.y + a.h - 1) - y0 + 1).toNat⟩

/-- The unit that holds a luma sample. -/
def unitAt (us : List VideoUnit) (x y : Nat) : Option Nat :=
  us.findIdx? (fun u => u.area.any (fun r => rectsMeet r ⟨x, y, 1, 1⟩))

/-- The decoding units of a picture (R196): HEVC tiles, or slices when tiles_enabled_flag is 0; AV1 tiles; H.264 slices; JPEG
MCUs. -/
def unitKind (h : PicHeader) : UnitKind :=
  match h.syn with
  | .hevc x => if x.tiles then .hevcTile else .hevcSlice
  | .h264 _ => .h264Slice
  | .av1 _ | .av1Show _ => .av1Tile
  | .jpeg => .jpegMcu

/-- The decoding units of picture `i` of a record with headers `hs`. -/
def unitsOf (ty : Nat) (st : Stream) (hs : List PicHeader) (i : Nat) : List VideoUnit :=
  match hs[i]? with
  | some h => (Config.videoUnits ty st i).filter (fun u => u.kind == unitKind h)
  | none => []

/-- Region decode does not apply to JPEG records, to AV1 frames with superres and to pictures with a single unit (R198). -/
def regionApplies (ty : Nat) (h : PicHeader) (us : List VideoUnit) : Bool :=
  ty ≠ 4 && 1 < us.length && (match h.syn with | .av1 a => !a.superres | _ => true)

/-- The units that meet the expanded window, and those that are decoded with them (R196). -/
def selectUnits (us : List VideoUnit) (e : VideoRect) : List Nat :=
  let hit := us.zipIdx.filterMap (fun u => if u.1.area.any (fun r => rectsMeet r e) then some u.2 else none)
  (List.range us.length).filter (fun i =>
    hit.contains i || hit.any (fun k => (us[k]?).elim false (fun u => u.withUnits.contains i)))

/-- The margin of R197, in luma samples. -/
def regionMargin (ty : Nat) : Nat := if ty = 2 then 16 else 8

/-- Samples of a plane as luma samples: a chroma sample covers its luma samples, and in 4:2:0 half the margin covers as much. -/
def toLuma (v : SeqHeader) (plane : Nat) (r : VideoRect) : VideoRect :=
  if plane = 0 then r
  else ⟨r.x * chromaX v.chroma, r.y * chromaY v.chroma, r.w * chromaX v.chroma, r.h * chromaY v.chroma⟩

/-- Samples before and after its position that an interpolation at a fractional one takes: HEVC's eight and four taps, H.264's six
and two, AV1's eight. -/
def predTaps (ty plane : Nat) : Nat × Nat :=
  match ty with
  | 1 => if plane = 0 then (3, 4) else (1, 2)
  | 3 => if plane = 0 then (2, 3) else (0, 1)
  | _ => (3, 4)

/-- Motion vector units per luma sample (R199). -/
def vectorUnits (ty : Nat) : Nat := if ty = 2 then 8 else 4

/-- First sample and number of samples that a block of `n` samples at `x` reads along one axis, displaced by `mv` of `d` to a
sample. -/
def displaced (taps : Nat × Nat) (x : Int) (n : Nat) (mv : Int) (d : Nat) : Int × Nat :=
  let at' := x + mv / (d : Int)
  if mv % (d : Int) = 0 then (at', n) else (at' - taps.1, taps.1 + n + taps.2)

/-- The samples of its plane that a prediction reads of the reference (R198): the block displaced by its vector, with the taps; a
warped prediction's own; those of the block, for a collocated vector. -/
def predArea (ty : Nat) (v : SeqHeader) (q : VideoPred) : VideoRect :=
  match q.reach with
  | .vector mx my =>
    let m := vectorUnits ty
    let (x, w) := displaced (predTaps ty q.plane) q.area.x q.area.w mx (m * if q.plane = 0 then 1 else chromaX v.chroma)
    let (y, h) := displaced (predTaps ty q.plane) q.area.y q.area.h my (m * if q.plane = 0 then 1 else chromaY v.chroma)
    ⟨x, y, w, h⟩
  | .warped r => r
  | .collocated => q.area

/-- The header index of a picture's direct reference, by its place among them. -/
def refPic (ps : List PassPic) (i place : Nat) : Option Nat := ((ps.getD i default).refs[place]?).join

/-- Does a prediction leave the valid region V of its reference, which has units `us`, of which `sel` are reconstructed (R197,
R198)? A sample is in V when no sample within the margin of it, inside the picture, lies in an unselected unit. -/
def readMisses (ty : Nat) (v : SeqHeader) (us : List VideoUnit) (sel : List Nat) (q : VideoPred) : Bool :=
  let box := growRect (clampRect (toLuma v q.plane (predArea ty v q)) v.width v.height) (regionMargin ty) v.width v.height
  us.zipIdx.any (fun u => !sel.contains u.2 && u.1.area.any (fun a => rectsMeet a box))

end Sys2Proof.Machine
end

