-- ==== Sys2Proof/Machine/Thresher.lean ====
section
/-!
DEFINITION. Threshers (R182 to R210): the checks of a job, its frame buffers, preview pictures and shaped output. What
the video and image standards define is taken from `Config` (log entry 10).
-/
namespace Sys2Proof.Machine

/-! ## Fields of the descriptor (R207) -/

/-- Is the job a DECODE? -/
def thrDecode (j : Job) : Bool := j.op == 2
/-- Payload span. -/
def thrPayload (j : Job) : Span := (leAt j.desc 0x08 8, leAt j.desc 0x10 4)
/-- Record type. -/
def thrType (j : Job) : Nat := leAt j.desc 0x14 1
/-- The pool a job names, on the thresher's P-die. -/
def thrPool (k : Nat) (j : Job) : Nat := k / 16 * 64 + leAt j.desc 0x16 1 % 64
/-- COUNT. -/
def thrCount (j : Job) : Nat := leAt j.desc 0x1A 1
/-- The output pictures that a job selects (R192). -/
def thrOutputs (j : Job) : List Nat :=
  (List.range (thrCount j)).map (fun i => leAt j.desc 0x1C 2 + leAt j.desc 0x18 2 + i * leAt j.desc 0x1B 1)
/-- 16-bit container, for DECODE. -/
def thrWide (j : Job) : Bool := thrDecode j && (leAt j.desc 0x15 1).testBit 2
/-- ROT. -/
def thrRot (j : Job) : Nat := leAt j.desc 0x52 1

/-! ## Output planes -/

/-- An output plane: its offset in a frame, pitch, columns and rows. -/
structure OutPlane where
  off : Nat
  pitch : Nat
  cols : Nat
  rows : Nat

/-- The chroma code of the output. -/
def thrOutChroma (j : Job) (v : SeqHeader) : Nat := if thrDecode j then leAt j.desc 0x15 1 % 4 else v.chroma

/-- Columns of preview samples whose covered area begins in a window `lo .. lo + n - 1` of a plane (R200). -/
def previewCols (lo n : Nat) : Nat := ceilDiv (lo + n) 8 - ceilDiv lo 8

/-- The size of an output plane: luma, or chroma of the output's chroma format. -/
def planeSize (j : Job) (v : SeqHeader) (chroma : Bool) : Nat × Nat :=
  let c := thrOutChroma j v
  let sx := if chroma then chromaX c else 1
  let sy := if chroma then chromaY c else 1
  if thrDecode j then (leAt j.desc 0x4C 2 / sx, leAt j.desc 0x4E 2 / sy)
  else (previewCols (v.dispX / sx) (ceilDiv v.dispW sx), previewCols (v.dispY / sy) (ceilDiv v.dispH sy))

/-- The planes that a job writes for each frame. -/
def thrPlanes (j : Job) (v : SeqHeader) : List OutPlane :=
  let d := j.desc
  let (w, h) := planeSize j v false
  let y : OutPlane := ⟨0, leAt d 0x28 4, w, h⟩
  if thrOutChroma j v = 2 then [y]
  else
    let (cw, ch) := planeSize j v true
    [y, ⟨leAt d 0x30 4, leAt d 0x2C 4, cw, ch⟩, ⟨leAt d 0x34 4, leAt d 0x2C 4, cw, ch⟩]

/-- Bytes of a sample in the output container. -/
def thrBytes (j : Job) : Nat := if thrWide j then 2 else 1

/-- The output plane spans of a job (check 2). -/
def thrSpans (j : Job) (v : SeqHeader) : List Span :=
  (List.range (thrCount j)).flatMap (fun i =>
    (thrPlanes j v).map (fun p => (leAt j.desc 0x20 8 + i * leAt j.desc 0x38 4 + p.off, p.rows * p.pitch)))

/-! ## The checks of R188 -/

/-- Check 1: the fields that both operations use. -/
def thrCommonOk (j : Job) (v : SeqHeader) : Bool :=
  let d := j.desc
  let n := leAt d 0x10 4
  leAt d 5 1 % 4 == 1 && j.jobId < 64 && (1 ≤ n && n ≤ 2 ^ 31) && leAt d 0x16 1 < 64 && zeroBytes d 0x17 1
    && (1 ≤ thrCount j && thrCount j ≤ 64) && (1 ≤ leAt d 0x1B 1 && leAt d 0x1B 1 ≤ 16) && leAt d 0x1C 2 < 1024
    && leAt d 0x20 8 % 64 == 0 && leAt d 0x28 4 % 64 == 0 && leAt d 0x2C 4 % 64 == 0 && leAt d 0x30 4 % 64 == 0
    && leAt d 0x34 4 % 64 == 0 && leAt d 0x38 4 % 64 == 0 && zeroBytes d 0x3C 4 && zeroBytes d 0x70 16
    && (thrPlanes j v).all (fun p => p.cols * thrBytes j ≤ p.pitch && p.off + p.rows * p.pitch ≤ leAt d 0x38 4)

/-- FILTER 0 only where every plane keeps its size (R203), as far as the headers are known. -/
def thrCopyOk (j : Job) (v : Option SeqHeader) : Bool :=
  let d := j.desc
  let w := leAt d 0x48 2
  let h := leAt d 0x4A 2
  let (ow, oh) := if thrRot j % 2 = 1 then (leAt d 0x4E 2, leAt d 0x4C 2) else (leAt d 0x4C 2, leAt d 0x4E 2)
  let c := leAt d 0x15 1 % 4
  w == ow && h == oh
    && v.all (fun v => c == 2 || v.chroma == 2 || (chromaX c == chromaX v.chroma && chromaY c == chromaY v.chroma))

/-- Check 1: the fields that DECODE uses. -/
def thrDecodeOk (j : Job) (v : Option SeqHeader) : Bool :=
  let d := j.desc
  let c := leAt d 0x15 1 % 4
  let g := leAt d 0x1E 2
  let even (o : Nat) : Bool := leAt d o 2 % 2 == 0
  let span (o lo hi : Nat) : Bool := lo ≤ leAt d o 2 && leAt d o 2 ≤ hi
  let fl := leAt d 0x51 1
  c != 3 && (16 ≤ g && g ≤ 1024 && g % 8 == 0) && even 0x40 && even 0x44 && span 0x42 1 4096 && span 0x46 1 4096
    && even 0x48 && span 0x48 16 8192 && even 0x4A && span 0x4A 16 4320 && span 0x4C 16 8192 && span 0x4E 16 8192
    && (c != 0 || (even 0x4C && even 0x4E)) && leAt d 0x50 1 ≤ 2 && (leAt d 0x50 1 != 0 || thrCopyOk j v)
    && fl % 4 ≤ 2 && fl / 4 % 4 ≤ 2 && thrRot j ≤ 3 && zeroBytes d 0x53 13

/-- Check 1 of R188. The output sizes of a PREVIEW are those of the sequence-level headers; where these do not parse, sizes of 0 stand
for them (DESIGN CHOICE, log entry 132). -/
def thrFieldsOk (j : Job) (v : Option SeqHeader) : Bool :=
  (j.op == 1 || j.op == 2) && thrCommonOk j (v.getD default) && (!thrDecode j || thrDecodeOk j v)

/-- A span in populated DRAM or in the thresher's own stook SRAM (check 2). -/
def thrSpanOk (s : State) (k : Nat) (p : Span) : Bool :=
  p.2 == 0 || inDram s p.1 p.2 || (regionOf s p.1 == .stook k && inOneMemory s p.1 p.2)

/-- The largest crop window lies in the display picture (check 12). -/
def thrCropOk (j : Job) (v : SeqHeader) : Bool :=
  let d := j.desc
  leAt d 0x40 2 + 2 * (leAt d 0x42 2 - 1) + leAt d 0x48 2 ≤ v.dispW
    && leAt d 0x44 2 + 2 * (leAt d 0x46 2 - 1) + leAt d 0x4A 2 ≤ v.dispH

/-- Limits of THR_CFG and THR_MAXPIX as they act (R210): width, height, pixels, sixteenths of a bit. -/
def thrLimits (s : State) (k : Nat) : Nat × Nat × Nat × Nat :=
  (max 16 (min 8192 (s.fld Fld.THR_CFG_MAX_WIDTH k)), max 16 (min 4320 (s.fld Fld.THR_CFG_MAX_HEIGHT k)),
    min 35389440 (s.fld Fld.THR_MAXPIX_MAX_PIXELS k), s.fld Fld.THR_CFG_MIN_CTU_BITS k)

/-- The size bound of R189 fails. -/
def sizeBoundFails (len pictures n bits : Nat) : Bool := len * 128 < pictures * n * bits

/-- The frame buffer size of R190. -/
def frameBuffer (j : Job) (v : SeqHeader) : Nat :=
  let w := if thrDecode j then v.width else ceilDiv v.width 8
  let h := if thrDecode j then v.height else ceilDiv v.height 8
  let pitch := roundUp (w * (if v.depth ≤ 8 then 1 else 2)) 64
  let k2 := match v.chroma with | 0 => 3 | 3 => 4 | 1 => 6 | _ => 2
  pitch * h * k2 / 2 + (if thrDecode j then ceilDiv v.width 16 * ceilDiv v.height 16 * 16 else 0)

/-- Checks 5 to 7: check and status, or (0, 0). -/
def thrSeqChecks (s : State) (k : Nat) (j : Job) (v : SeqHeader) : Nat × Nat :=
  let (mw, mh, mp, _) := thrLimits s k
  if !streamSupported (thrType j) v then (5, 0x0C)
  else if v.width > mw || v.height > mh then (6, 0x05)
  else if v.width * v.height > mp then (7, 0x05)
  else (0, 0)

/-- The closure of the output pictures that a job selects (R194). -/
def thrClosure (j : Job) (ps : List PassPic) : List Nat :=
  closureOf ps ((thrOutputs j).filterMap (fun o => (outputOrder ps)[o]?))

/-- Checks 8 to 13, with the headers of the picture scan: check and status, or (0, 0). -/
def thrScanChecks (s : State) (k : Nat) (j : Job) (v : SeqHeader) (hs : List PicHeader) : Nat × Nat :=
  let (_, _, _, mb) := thrLimits s k
  let (uw, uh) := codingUnit (thrType j) v
  let f := codedCount hs
  let ps := passOne hs
  if f = 0 then (8, 0x06)
  else if f > 1024 then (8, 0x05)
  else if sizeBoundFails (leAt j.desc 0x10 4) f (ceilDiv v.width uw * ceilDiv v.height uh) mb then (9, 0x05)
  else if picHeaderStatus v hs ≠ 0 then (10, picHeaderStatus v hs)
  else if (thrOutputs j).getLastD 0 ≥ (outputOrder ps).length then (11, 0x06)
  else if thrDecode j && !thrCropOk j v then (12, 0x82)
  else if !refsPresent ps (thrClosure j ps) then (13, 0x06)
  else (0, 0)

/-! ## Preview pictures (R199, R200) -/

/-- Samples of a plane of the preview: luma 0, chroma 1 and 2. -/
def previewDims (v : SeqHeader) (plane : Nat) : Nat × Nat :=
  if plane = 0 then (ceilDiv v.width 8, ceilDiv v.height 8)
  else (ceilDiv (ceilDiv v.width (chromaX v.chroma)) 8, ceilDiv (ceilDiv v.height (chromaY v.chroma)) 8)

/-- The mean of the residuals of transform blocks, weighted by area, halves toward +∞ (R200): areas, and area times
residual. -/
def residualMean (r : List (Nat × Int)) : Int :=
  let a : Int := r.foldl (fun (n : Int) e => n + (e.1 : Int)) 0
  if a = 0 then 0 else (2 * r.foldl (fun (n : Int) e => n + e.2) 0 + a) / (2 * a)

/-- What a transform block gives a preview sample (R200): its area, and its area times its DC-only residual, or the sum of its
residual samples. -/
def blockResidual (b : VideoBlock) : Nat × Int :=
  let n := b.area.w * b.area.h
  (n, match b.res with
    | none => 0
    | some (.inl dc) => n * dc
    | some (.inr rs) => rs.foldl (· + ·) 0)

/-- Does a transform block count for preview sample (x, y) (R200): its top-left sample lies in the covered area, or it is at least
8 × 8 and covers the sample? -/
def blockCounts (x y : Nat) (b : VideoBlock) : Bool :=
  let cell : VideoRect := ⟨8 * x, 8 * y, 8, 8⟩
  rectsMeet ⟨b.area.x, b.area.y, 1, 1⟩ cell || (8 ≤ b.area.w && 8 ≤ b.area.h && rectsMeet b.area cell)

/-- The displacement of a motion vector in preview samples (R199): `m` units per luma sample, factor `sf`. -/
def previewShift (m sf : Nat) (mv : Int) : Int := let d : Int := 8 * m * sf; (2 * mv + d) / (2 * d)

/-- Do the first samples of the areas of two preview samples lie in one decoding unit (R199)? -/
def sameUnit (us : List VideoUnit) (sx sy : Nat) (p q : Nat × Nat) : Bool :=
  unitAt us (8 * p.1 * sx) (8 * p.2 * sy) == unitAt us (8 * q.1 * sx) (8 * q.2 * sy)

/-- Preview sample (x, y) of a plane of a coded picture (R199, R200). References and neighbours are earlier samples, so the
recursion ends within the fuel. -/
def previewSample (ty : Nat) (st : Stream) (v : SeqHeader) (hs : List PicHeader) (ps : List PassPic) : Nat → Nat → Nat → Nat → Nat → Nat
  | 0, _, _, _, _ => 0
  | fuel + 1, pic, plane, x, y =>
    let m := vectorUnits ty
    let sx := if plane = 0 then 1 else chromaX v.chroma
    let sy := if plane = 0 then 1 else chromaY v.chroma
    let (w, h) := previewDims v plane
    let half := 2 ^ (v.depth - 1)
    let us := unitsOf ty st hs pic
    let at' (x y : Nat) : Nat := previewSample ty st v hs ps fuel pic plane x y
    let ref (r : Nat × Int × Int) : Nat :=
      match refPic ps pic r.1 with
      | some i => previewSample ty st v hs ps fuel i plane (clampTo w (x + previewShift m sx r.2.1)) (clampTo h (y + previewShift m sy r.2.2))
      | none => half
    let left := 0 < x && sameUnit us sx sy (x, y) (x - 1, y)
    let above := 0 < y && sameUnit us sx sy (x, y) (x, y - 1)
    let pred : Nat :=
      if ty = 4 then half
      else
        match Config.videoInter ty st pic plane (8 * x) (8 * y) with
        | [q] => ref q
        | q0 :: q1 :: _ => (ref q0 + ref q1 + 1) / 2
        | [] =>
          match left, above with
          | true, true => (at' (x - 1) y + at' x (y - 1) + 1) / 2
          | true, false => at' (x - 1) y
          | false, true => at' x (y - 1)
          | false, false => half
    let blocks := (Config.videoBlocks ty st pic plane).filter (blockCounts x y)
    clampTo (2 ^ v.depth) (pred + residualMean (blocks.map blockResidual))

/-- More samples than a record's previews hold: headers × samples of a plane. -/
def previewFuel (v : SeqHeader) (pictures : Nat) : Nat := (pictures + 1) * (v.width + 1) * (v.height + 1)

/-! ## Output bytes -/

/-- The bytes of one row of an output plane (0 luma) of a PREVIEW, for header `pic`. -/
def previewRow (j : Job) (v : SeqHeader) (st : Stream) (hs : List PicHeader) (ps : List PassPic) (pic plane cols y : Nat) :
    List Byte :=
  let sx := if plane = 0 then 1 else chromaX v.chroma
  let sy := if plane = 0 then 1 else chromaY v.chroma
  (List.range cols).flatMap (fun x =>
    depthBytes false v.depth (previewSample (thrType j) st v hs ps (previewFuel v ps.length) pic plane
      (ceilDiv (v.dispX / sx) 8 + x) (ceilDiv (v.dispY / sy) 8 + y)))

/-- The crop origin and the flips that a DECODE uses (R201). -/
def thrCrop (j : Job) : Nat × Nat × Bool × Bool :=
  let d := j.desc
  let u2 := leAt d 0x68 4
  let fl := leAt d 0x51 1
  (cropOrigin (leAt d 0x40 2) (leAt d 0x42 2) (leAt d 0x60 4), cropOrigin (leAt d 0x44 2) (leAt d 0x46 2) (leAt d 0x64 4),
    flipApplied (fl % 4) (u2.testBit 0), flipApplied (fl / 4 % 4) (u2.testBit 1))

/-- An output sample of a DECODE before its container (R201 to R206), for header `pic`: plane 0 luma, 1 and 2 chroma. -/
def shapedSample (j : Job) (v : SeqHeader) (st : Stream) (pic plane x y : Nat) : Nat :=
  let d := j.desc
  let (x0, y0, hf, vf) := thrCrop j
  if plane ≠ 0 ∧ v.chroma = 2 then 2 ^ (v.depth - 1)
  else
    let sx := if plane = 0 then 1 else chromaX v.chroma
    let sy := if plane = 0 then 1 else chromaY v.chroma
    let ox := if plane = 0 then 1 else chromaX (thrOutChroma j v)
    let oy := if plane = 0 then 1 else chromaY (thrOutChroma j v)
    let rot := thrRot j
    let wr := if rot % 2 = 1 then leAt d 0x4E 2 / oy else leAt d 0x4C 2 / ox
    let hr := if rot % 2 = 1 then leAt d 0x4C 2 / ox else leAt d 0x4E 2 / oy
    let f (x y : Nat) : Nat :=
      Config.videoSample (thrType j) st pic plane (v.dispX / sx + x0 / sx + x) (v.dispY / sy + y0 / sy + y)
    flipRotate wr hr hf vf rot
      (resizeSample (leAt d 0x50 1) v.depth (leAt d 0x48 2 / sx) (leAt d 0x4A 2 / sy) wr hr f) x y

/-- The bytes of one output row. -/
def thrRow (j : Job) (v : SeqHeader) (st : Stream) (hs : List PicHeader) (ps : List PassPic) (pic plane cols y : Nat) : List Byte :=
  if thrDecode j then (List.range cols).flatMap (fun x => depthBytes (thrWide j) v.depth (shapedSample j v st pic plane x y))
  else previewRow j v st hs ps pic plane cols y

/-- The writes of a job: every row of every plane of every output frame (R192) that shows one of `done`. The
bytes between a row's end and the pitch are left as they are, though the length counts them (DESIGN CHOICE, log entry 131). -/
def thrWrites (j : Job) (v : SeqHeader) (st : Stream) (hs : List PicHeader) (ps : List PassPic) (done : List Nat) :
    List (Nat × List Byte) :=
  (thrOutputs j).zipIdx.flatMap (fun e =>
    match (outputOrder ps)[e.1]? with
    | none => []
    | some o =>
      let pic := shownPic ps o
      if done.contains pic then
        (thrPlanes j v).zipIdx.flatMap (fun p =>
          (List.range p.1.rows).map (fun y =>
            (leAt j.desc 0x20 8 + e.2 * leAt j.desc 0x38 4 + p.1.off + y * p.1.pitch, thrRow j v st hs ps pic p.2 p.1.cols y)))
      else [])

/-! ## Running a job -/

/-- The record bytes of a thresher job (R208); without a header there is no size, depth and chroma. The size is 0 when check 6 was
not reached. -/
def thrEng (v : Option SeqHeader) (chk pics outs fl x0 y0 : Nat) : List Byte :=
  let h := v.getD default
  leBytes 2 (if chk = 5 then 0 else h.width) ++ leBytes 2 (if chk = 5 then 0 else h.height) ++ leBytes 2 pics ++ leBytes 1 outs
    ++ leBytes 1 chk ++ leBytes 1 fl ++ leBytes 1 h.depth ++ leBytes 2 x0 ++ leBytes 2 y0 ++ leBytes 1 h.chroma ++ [0]

/-- Frame buffers at check 14 (R190): their addresses, or the status. Buffers already held go back. -/
def takeFrames (s : State) (p : Nat) : Nat → List Nat → Except Nat (List Nat) × State
  | 0, got => (.ok got, s)
  | n + 1, got =>
    let (bad, s) := ringReads s p 1
    if bad then (.error 0x80, poolReturn s p (got.filterMap (bufferOf s p)))
    else match poolTake s p 1 with
    | (some as, s) => takeFrames s p n (got ++ as)
    | (none, s) => (.error 0x03, poolReturn s p (got.filterMap (bufferOf s p)))

/-- Check 14 of R188: the size class, then the buffers. A pool that is not ready has none (log entry 110). -/
def thrBuffers (s : State) (k : Nat) (j : Job) (v : SeqHeader) (n : Nat) : Except Nat (List Nat) × State :=
  let p := thrPool k j
  if poolSize s p < frameBuffer j v then (.error 0x83, s)
  else if pUnitFailed s (k / 16) 3 || poolInFailed s p then (.error 0x10, s)
  else if !s.flag Fld.POOL_CFG_READY p then (.error 0x03, s)
  else takeFrames s p n []

/-- Count a closure fallback and a region miss (R195, R198). -/
def countFallbacks (s : State) (k : Nat) (closure miss : Bool) : State :=
  let s := if closure then s.satAdd Fld.THR_FALLBACK_CLOSURE k 1 else s
  if miss then s.satAdd Fld.THR_FALLBACK_REGION k 1 else s

/-- Why decoding stops: a read outside a valid region, or an end of the job with a status. -/
inductive DecodeStop where
  | missed
  | failed (status : Nat)
  deriving DecidableEq, Repr

/-- How far one pass over the pictures to decode came: pictures begun, and why it stopped. -/
structure DecodePass where
  st : State
  pics : Nat
  stop : Option DecodeStop

/-- What a decoding run works on: the record's stream, its sequence headers, picture headers and pass 1. -/
structure Decoding where
  st : Stream
  v : SeqHeader
  hs : List PicHeader
  ps : List PassPic

/-- The decoding units of picture `i`. -/
def Decoding.units (d : Decoding) (j : Job) (i : Nat) : List VideoUnit := unitsOf (thrType j) d.st d.hs i

/-- The payload bytes of a unit: offset and length. None where its stream unit is not there or ends before it: a coded size that
overruns its unit, or an entry point beyond the payload (R191). -/
def unitBytes (st : Stream) (u : VideoUnit) : Option (Nat × Nat) :=
  match st[u.nal]? with
  | some n => if u.off + u.len ≤ n.data.length then some (n.off + u.off, u.len) else none
  | none => none

/-- Decode one unit of picture `i` (R191, R198): its bytes are read; its errors; what it reads of reference pictures, of which `sel`
units are reconstructed. A reference beyond the picture's is a syntax element out of its range. An error counts before a miss of
the same unit (log entry 110). -/
def decodeUnit (k : Nat) (j : Job) (d : Decoding) (sel : Nat → List Nat) (s : State) (i : Nat) (u : VideoUnit) :
    State × Option DecodeStop :=
  match unitBytes d.st u with
  | none => (s, some (.failed 0x06))
  | some (off, len) =>
    let r := memRead s (unitMaster (.thresher k)) 3 ((thrPayload j).1 + off) len
    if r.bad then (r.st, some (.failed 0x80))
    else if u.corrupt || u.preds.any (fun q => (refPic d.ps i q.ref).isNone) then (r.st, some (.failed 0x06))
    else if u.preds.any (fun q =>
        (refPic d.ps i q.ref).elim false (fun x => readMisses (thrType j) d.v (d.units j x) (sel x) q)) then
      (r.st, some .missed)
    else (r.st, none)

/-- One pass over pictures in decode order, the selected units of each. -/
def decodePics (k : Nat) (j : Job) (d : Decoding) (sel : Nat → List Nat) (s : State) (pics : List Nat) : DecodePass :=
  pics.foldl (fun p i =>
    if p.stop.isSome then p
    else
      let us := d.units j i
      let r := ((sel i).filterMap (fun n => us[n]?)).foldl (fun (a : State × Option DecodeStop) u =>
        if a.2.isSome then a else decodeUnit k j d sel a.1 i u) (p.st, none)
      ⟨r.1, p.pics + 1, r.2⟩) ⟨s, 0, none⟩

/-- The expanded window E of R196: the largest crop window, as check 12 tests it (R201), in coded luma coordinates, grown by GUARD
(DEDUCED, log entry 133). -/
def expandedWindow (j : Job) (v : SeqHeader) : VideoRect :=
  let d := j.desc
  growRect ⟨v.dispX + leAt d 0x40 2 + 2 * (leAt d 0x42 2 - 1 : Nat), v.dispY + leAt d 0x44 2 + 2 * (leAt d 0x46 2 - 1 : Nat),
    leAt d 0x48 2, leAt d 0x4A 2⟩ (leAt d 0x1E 2) v.width v.height

/-- Rows that each output frame of a job has. -/
def frameRows (j : Job) (v : SeqHeader) : Nat := (thrPlanes j v).foldl (fun n p => n + p.rows) 0

/-- What decoding after the checks comes to (R191, R195 to R198, R208): a pass over the selected units and, on a region miss,
another over every unit. An error ends the job with the output that either pass has made. -/
def thrDecodeRun (s : State) (k : Nat) (j : Job) (v : SeqHeader) (hs : List PicHeader) (st : Stream) (held : List Nat) :
    Started :=
  let ps := passOne hs
  let d : Decoding := ⟨st, v, hs, ps⟩
  let cl := thrClosure j ps
  let pics := (decodedSet ps cl).filter (fun i => (ps.getD i default).coded)
  let us (i : Nat) : List VideoUnit := d.units j i
  let every (i : Nat) : List Nat := List.range (us i).length
  let region (i : Nat) : Bool := thrDecode j && j.flags.testBit 0 && regionApplies (thrType j) (hs.getD i default) (us i)
  let sel (i : Nat) : List Nat := if region i then selectUnits (us i) (expandedWindow j v) else every i
  let one := decodePics k j d sel s pics
  let miss := one.stop == some .missed
  let last := if miss then decodePics k j d every one.st pics else one
  let n := if miss then one.pics + last.pics else last.pics
  let (x0, y0, hf, vf) := if thrDecode j then thrCrop j else (0, 0, false, false)
  let fb := closureFallback cl
  let fl := b2n (pics.any region) + 2 * b2n miss + 4 * b2n fb + 8 * b2n hf + 16 * b2n vf
  let s := countFallbacks last.st k fb miss
  match last.stop with
  | some (.failed e) =>
    let ws := thrWrites j v st hs ps (pics.take (max one.pics last.pics))
    { status := e, eng := thrEng (some v) 15 n (framesWhole j.desc (frameRows j v) ws 0) fl x0 y0, writes := ws, cut := true,
      aux := held, st := s }
  | _ =>
    { status := 0, xfer := (thrSpans j v).foldl (fun n p => n + p.2) 0, aux := held, st := s, writes := thrWrites j v st hs ps pics,
      eng := thrEng (some v) 0 n (thrCount j) fl x0 y0 }

/-- Checks 1 to 3, which read no payload. -/
def thrEarly (s : State) (k : Nat) (j : Job) (v : Option SeqHeader) : Nat × Nat :=
  if !thrFieldsOk j v then (1, 0x81)
  else if !(thrPayload j :: thrSpans j (v.getD default)).all (thrSpanOk s k) then (2, 0x07)
  else if !(1 ≤ thrType j && thrType j ≤ 4) then (3, 0x0C)
  else (0, 0)

/-- The payload of a job, as its reads give it. -/
def thrData (s : State) (k : Nat) (j : Job) : List Byte :=
  let p := thrPayload j
  if thrSpanOk s k p then (memRead s (unitMaster (.thresher k)) 3 p.1 p.2).data else []

/-- The stream of a job's record. -/
def thrStream (s : State) (k : Nat) (j : Job) : Stream := videoStream (thrType j) (thrData s k j)

/-- The sequence-level headers of a job's payload. -/
def thrInfo (s : State) (k : Nat) (j : Job) : Option SeqHeader := sequenceHeaders (thrType j) (thrStream s k j)

/-- Read parts of a job's payload: is a word of them bad? -/
def thrReadParts (s : State) (k : Nat) (j : Job) (parts : List (Nat × Nat)) : Bool × State :=
  let p := thrPayload j
  parts.foldl (fun (a : Bool × State) e =>
    let r := memRead a.2 (unitMaster (.thresher k)) 3 (p.1 + e.1) (min e.2 (p.2 - e.1))
    (a.1 || r.bad, r.st)) (false, s)

/-- A thresher job runs (R188 to R206): checks 1 to 3; the sequence-level headers and checks 4 to 7; the picture scan and checks 8
to 13; the buffers of check 14; decoding. A bad word ends it where it is read (R191). -/
def thrRun (k : Nat) (s : State) (j : Job) : Started :=
  let ty := thrType j
  let pay := thrData s k j
  let st := thrStream s k j
  let (chk, c) := thrEarly s k j (thrInfo s k j)
  if c ≠ 0 then failWith s c (thrEng none chk 0 0 0 0 0)
  else
    let (bad, s1) := thrReadParts s k j [(0, headersEnd ty st pay.length)]
    if bad then failWith s1 0x80 (thrEng none 15 0 0 0 0 0)
    else
      match thrInfo s k j with
      | none => failWith s1 0x06 (thrEng none 4 0 0 0 0 0)
      | some v =>
        let (chk, c) := thrSeqChecks s1 k j v
        if c ≠ 0 then failWith s1 c (thrEng (some v) chk 0 0 0 0 0)
        else
          let (bad, s2) := thrReadParts s1 k j (scanParts ty pay st)
          let hs := recordPics ty st v
          if bad then failWith s2 0x80 (thrEng (some v) 15 0 0 0 0 0)
          else
            let (chk, c) := thrScanChecks s2 k j v hs
            if c ≠ 0 then failWith s2 c (thrEng (some v) chk 0 0 0 0 0)
            else
              let ps := passOne hs
              match thrBuffers s2 k j v (bufferCount ps (thrClosure j ps)) with
              | (.error e, s3) => failWith s3 e (thrEng (some v) 14 0 0 0 0 0)
              | (.ok held, s3) => thrDecodeRun s3 k j v hs st held

/-- What a thresher job's start reads. -/
def thrReads (k : Nat) (s : State) (j : Job) : List Span :=
  if (thrEarly s k j (thrInfo s k j)).2 = 0 then [thrPayload j] else []

/-- What a thresher job's start writes: the bitmap bytes of the buffers that check 14 takes (R190, R410). -/
def thrPuts (s : State) (k : Nat) (j : Job) : List Span :=
  let p := thrPool k j
  ((thrRun k s j).aux.filterMap (bufferOf s p)).map (fun b => (poolBitmap s p + b / 8, 1))

/-- The record of a job that an internal bad word ends (R191, R208): CHECK 15, and the frames that its cut writes make. -/
def thrFix (j : Job) (r : Started) : List Byte :=
  let n := r.writes.length / max 1 (thrCount j)
  putAt (putAt r.eng 7 [15]) 6 (leBytes 1 (framesWhole j.desc n r.writes 0))

/-- Start the next thresher job of a stook (R185): at most 2 run. -/
def thrStart (s : State) (k op : Nat) : State :=
  let u : EngUnit := .thresher k
  startFirst s u (takesOp [1, 2] op) (fun _ => phaseCount (jobsOf s u) .running < 2) (thrReads k) (thrRun k)
    (fun j r => thrFix j r) (fun s j => thrPuts s k j)

/-- The frame buffers of a job go back to its pool (R186, R187, R191). -/
def returnFrames (s : State) (k : Nat) (j : Job) : State :=
  let p := thrPool k j
  poolReturn s p (j.aux.filterMap (bufferOf s p))

/-- Rejections counted at a job's end. -/
def countReject (s : State) (k status : Nat) : State :=
  if status = 0x05 then s.satAdd Fld.THR_REJECT_LIMIT k 1
  else if status = 0x06 then s.satAdd Fld.THR_REJECT_CORRUPT k 1 else s

/-- A thresher job ends: its buffers go back, its record, its increment (R185). -/
def thrEnd (s : State) (k i : Nat) : State :=
  let u : EngUnit := .thresher k
  match (endable s u)[i]? with
  | none => s
  | some j =>
    match prepare s (unitMaster u) (recordSpans s j.counter).1
        ((recordSpans s j.counter).2 ++ writeSpans j.writes ++ giveSpans s (thrPool k j) (j.aux.filterMap (bufferOf s (thrPool k j)))) with
    | .stall s => s
    | .go =>
      let f := finishWrites (returnFrames (busyCycles s u) k j) u j
      (countReject (endRecord f.st u f.job) k f.job.status).modAdd Fld.THR_STATUS_DONE k 1

/-- A write of THR_CFG (R210): LOCK freezes the limits. -/
def writeThrCfg (s : State) (k : Nat) (a : CsrAcc) : State := s.plainWrite .THR_CFG k (s.flag Fld.THR_CFG_LOCK k) a

/-- A write of THR_MAXPIX (R210). -/
def writeThrMaxpix (s : State) (k : Nat) (a : CsrAcc) : State := s.plainWrite .THR_MAXPIX k (s.flag Fld.THR_CFG_LOCK k) a

/-- PREVIEW (R199). -/
def execPreview (k : StookId) (s : State) : Host.Outcome State Fault Refusal := .next (thrStart s k 1)

/-- DECODE (R188). -/
def execDecode (k : StookId) (s : State) : Host.Outcome State Fault Refusal := .next (thrStart s k 2)

/-- THRESHER_JOB_END (R185). -/
def execThresherJobEnd (k : StookId) (i : Nat) (s : State) : Host.Outcome State Fault Refusal := .next (thrEnd s k i)

/-- THR_ABORT (R186). -/
def execThrAbort (k : StookId) (a : CsrAcc) (s : State) : Host.Outcome State Fault Refusal :=
  .next (onStook s k (fun s =>
    writeAbort s (.thresher k) Fld.THR_ABORT_TAG Fld.THR_ABORT_JOB Fld.THR_ABORT_RES_STATUS Fld.THR_ABORT_RES_COUNT k a))

/-- THR_CFG_LOCK: a write of THR_CFG, its LOCK bit among them (R210). -/
def execThrCfgLock (k : StookId) (a : CsrAcc) (s : State) : Host.Outcome State Fault Refusal :=
  .next (onStook s k (fun s => writeThrCfg s k a))

end Sys2Proof.Machine
end

