-- ==== Sys2Proof/Machine/CsrRead.lean ====
section
/-!
DEFINITION. Reading a CSR over the bus: fields that show the state of an engine, a context or a queue, registers that only
some masters may read, and registers whose read does something. Registers not named here read as they are stored.
-/
namespace Sys2Proof.Machine

/-- A word with one field set. -/
def putField (v : Word) (f : Fld) (n : Nat) : Word := withField v f.lo f.width n

/-- Jobs of a unit that run. -/
def runCount (s : State) (u : EngUnit) : Nat := phaseCount (jobsOf s u) .running

/-- Jobs of a unit that a gate holds. -/
def gatedCount (s : State) (u : EngUnit) : Nat := phaseCount (jobsOf s u) .held

/-- Jobs of a unit that wait to start, held ones included. -/
def waitCount (s : State) (u : EngUnit) : Nat := phaseCount (jobsOf s u) .waiting + gatedCount s u

/-! ## Load gauges (01_sample_path.md, Load gauges) -/

/-- The units of an engine class on a die: 0 to 3 the P-dies, 4 and 5 the X-dies. Flash and RoCE are not among them. -/
def gaugeUnits (die cls : Nat) : List EngUnit :=
  if die < 4 then
    match cls with
    | 0 => (List.range 16).map (fun k => .dma (16 * die + k))
    | 1 => (List.range 16).map (fun k => .thresher (16 * die + k))
    | 2 => [.baler die]
    | 3 => [.perm die]
    | 4 => [.token die]
    | 5 => (List.range 4).map (fun e => .stream (4 * die + e))
    | 8 => [.pool die]
    | _ => []
  else if cls = 7 then [.furrow (die - 4)] else []

/-- GAUGE.CUR: entries that wait now. Of flash, the tasks not yet started; of RoCE, the requests not yet acknowledged. -/
def gaugeCur (s : State) (die cls : Nat) : Nat :=
  (gaugeUnits die cls).foldl (fun n u => n + waitCount s u) 0
    + (if 4 ≤ die ∧ cls = 6 then ((tasksOf s (die - 4)).filter (fun t => t.phase == .waiting)).length else 0)
    + (if 4 ≤ die ∧ cls = 7 then
        ((s.qps.filter (fun e => e.1 / 2048 == die - 4)).map (fun e => e.2.reqs.length)).foldl (· + ·) 0 else 0)

/-- Is a queue of the class full? -/
def gaugeFull (s : State) (die cls : Nat) : Bool :=
  if 4 ≤ die ∧ cls = 6 then decide (4096 ≤ (tasksOf s (die - 4)).length)
  else (gaugeUnits die cls).any (fun u =>
    match u with
    | .furrow x => (List.range 64).any (fun q => decide (64 ≤ ((sqJobs s x q).filter (fun j => j.phase == .waiting)).length))
    | _ => decide (unitDepth u ≤ waitCount s u))

/-- Does a context hold a runnable program? -/
def ctxBusy (s : State) (c : Nat) : Bool := (ctxAt s c).st == .running || (ctxAt s c).st == .replaying

/-- GAUGE_TILES of a P-die. -/
def gaugeTiles (s : State) (d : Nat) : Word :=
  let busy := (s.ctx.map Prod.fst).filter (fun c => c / 512 == d && ctxBusy s c)
  putField (putField 0 Fld.GAUGE_TILES_BUSY_CTX busy.length) Fld.GAUGE_TILES_BUSY_TILES
    ((busy.map (· / 4)).eraseDups).length

/-- One sample of a gauge (AVG, SAT). -/
def sampleGauge (s : State) (die cls : Nat) : State :=
  let i := die * 9 + cls
  let avg : Int := s.fld Fld.GAUGE_AVG i
  let cur : Int := min (gaugeCur s die cls) 4095 * 16
  let s1 := s.setFld Fld.GAUGE_AVG i (avg + (cur - avg) / 16).toNat
  if gaugeFull s die cls then s1.satAdd Fld.GAUGE_SAT i 1 else s1

/-- Does the die publish the class? -/
def gaugeShown (die cls : Nat) : Bool := if die < 4 then cls != 6 && cls != 7 else cls == 6 || cls == 7

/-- GAUGE_SAMPLING_PERIOD: a die's sampling period ends once its SCLK cycles have passed. -/
def execGaugeSamplingPeriod (die : Fin 6) (cycles : BitVec 32) (s : State) : Host.Outcome State Fault Refusal :=
  .next (if cycles.toNat < max 100 (s.fld Fld.GAUGE_CFG_PERIOD die) then s
    else ((List.range 9).filter (gaugeShown die)).foldl (fun s cls => sampleGauge s die cls) s)

/-! ## Status registers -/

/-- The four status fields of an engine over the stored word. -/
def engStatus (v : Word) (fl q : Fld) (running waiting : Nat) : Word := putField (putField v fl running) q waiting

/-- CTX_CTL, CTX_PC, CTX_CAUSE, CTX_BADADDR and CTX_STEP show the context (R93, R98, R113). -/
def readCtx (s : State) (r : Reg) (c : Nat) : Word :=
  let x := ctxAt s c
  match r with
  | .CTX_CTL =>
    putField (s.rd .CTX_CTL c) Fld.CTX_CTL_STATE
      (match x.st with | .idle => 0 | .running => 1 | .waiting => 2 | .stopped => 3 | .replaying => 4)
  | .CTX_PC => x.pc
  | .CTX_CAUSE => BitVec.ofNat 64 x.cause
  | .CTX_BADADDR => x.badaddr
  | _ =>
    let v := putField 0 Fld.CTX_STEP_ATTEMPT x.attempt
    match x.mark with
    | some m => (putField v Fld.CTX_STEP_MARKED 1) ||| (m.pc &&& ~~~3#64)
    | none => v

/-- Registers that show engines, queues and volumes. -/
def readStatus (s : State) (r : Reg) (i : Nat) : Word :=
  let v := s.rd r i
  match r with
  | .TILE_CTL => putField v Fld.TILE_CTL_FAILED (b2n (tileFailed s i))
  | .GAUGE => if gaugeShown (i / 9) (i % 9) then putField v Fld.GAUGE_CUR (min 65535 (gaugeCur s (i / 9) (i % 9))) else 0
  | .GAUGE_TILES => gaugeTiles s i
  | .DMA_STATUS => engStatus v Fld.DMA_STATUS_IN_FLIGHT Fld.DMA_STATUS_QUEUED (runCount s (.dma i)) (waitCount s (.dma i))
  | .THR_STATUS =>
    putField (engStatus v Fld.THR_STATUS_IN_FLIGHT Fld.THR_STATUS_QUEUED (runCount s (.thresher i)) (waitCount s (.thresher i)))
      Fld.THR_STATUS_FAILED (b2n (thrFailed s i))
  | .PERM_STATUS =>
    let u : EngUnit := .perm i
    putField (putField (engStatus v Fld.PERM_STATUS_IN_FLIGHT Fld.PERM_STATUS_QUEUED (runCount s u) (waitCount s u))
      Fld.PERM_STATUS_HELD (gatedCount s u)) Fld.PERM_STATUS_FAILED (b2n (unitFailed s u))
  | .BALER_STATUS =>
    let u : EngUnit := .baler i
    putField (putField (engStatus v Fld.BALER_STATUS_IN_FLIGHT Fld.BALER_STATUS_QUEUED (runCount s u) (waitCount s u))
      Fld.BALER_STATUS_HELD (gatedCount s u)) Fld.BALER_STATUS_FAILED (b2n (unitFailed s u))
  | .TOK_STATUS =>
    let u : EngUnit := .token i
    let opened := ((tokOf s i).sess.filter (fun e => e.2.isSome)).length
    putField (putField (engStatus v Fld.TOK_STATUS_IN_FLIGHT Fld.TOK_STATUS_QUEUED (runCount s u) (waitCount s u))
      Fld.TOK_STATUS_OPEN opened) Fld.TOK_STATUS_FAILED (b2n (unitFailed s u))
  | .TOK_VOCAB =>
    let t := tokOf s (i / 8)
    match slotOf t (i % 8) with
    | none => 0
    | some w =>
      let named := (t.sess.filter (fun e => e.2.elim false (fun x => x.slot == i % 8))).length
      putField (putField (putField 0 Fld.TOK_VOCAB_VALID 1) Fld.TOK_VOCAB_TOKENS w.tokens) Fld.TOK_VOCAB_SESSIONS named
  | .STREAM_STATUS =>
    let u : EngUnit := .stream i
    putField (engStatus v Fld.STREAM_STATUS_IN_FLIGHT Fld.STREAM_STATUS_QUEUED (runCount s u) (waitCount s u))
      Fld.STREAM_STATUS_FAILED (b2n (unitFailed s u))
  | .FL_STATUS =>
    let ts := tasksOf s i
    engStatus v Fld.FL_STATUS_IN_FLIGHT Fld.FL_STATUS_HELD ts.length
      (ts.filter (fun t => t.phase == .waiting && !mayStart s i t)).length
  | .FL_VOL_STATE =>
    let (x, w) := (i / 16, i % 16)
    let e := eraseRange s x w
    putField (putField (putField v Fld.FL_VOL_STATE_FREE_SB (min 65535 (freeCount s x w))) Fld.FL_VOL_STATE_MIN_ERASE e.1)
      Fld.FL_VOL_STATE_MAX_ERASE e.2
  | .FL_VOL_CAP => putField v Fld.FL_VOL_CAP_GOOD (goodGranules s (i / 16) (i % 16))
  | .FUR_KEY_CMD =>
    let k := keyAt s (s.fld Fld.FUR_KEY_CMD_INDEX 0)
    putField (putField v Fld.FUR_KEY_CMD_STATE k.st) Fld.FUR_KEY_CMD_GEN k.gen
  | .FUR_STATUS =>
    putField (engStatus v Fld.FUR_STATUS_IN_FLIGHT Fld.FUR_STATUS_QUEUED (furAt s i).msgs.length (waitCount s (.furrow i)))
      Fld.FUR_STATUS_FAILED (b2n (xUnitFailed s i 1))
  | .FUR_SQ_CFG =>
    putField v Fld.FUR_SQ_CFG_PENDING ((sqJobs s (i / 64) (i % 64)).filter (fun j => j.phase == .waiting)).length
  | .ROCE_QP_CMD =>
    let q := qpAt s i (s.fld Fld.ROCE_QP_CMD_INDEX i)
    putField (putField v Fld.ROCE_QP_CMD_STATE q.st) Fld.ROCE_QP_CMD_ERR_STATUS q.err
  | .SCHED_Q_STAT => putField v Fld.SCHED_Q_STAT_DEPTH (schedQAt s i).frames.length
  | .HL_STATUS => putField v Fld.HL_STATUS_FAILED (b2n (linkFailed s i))
  | .PWR_STATUS => putField v Fld.PWR_STATUS_SERVICE (b2n (inService s))
  | _ => v

/-! ## Registers with conditions -/

/-- The mailbox registers of a channel (R416): a violation for any master that is not bound as the register asks. -/
def readMbox (s : State) (m : Nat) (r : Reg) (n : Nat) : Word × State :=
  let ok : Bool := match r with
    | .MBOX_TX_ADDR | .MBOX_TX_SEND => isSender s m n
    | .MBOX_CH_STAT => isSender s m n || isReceiver s m n
    | _ => isReceiver s m n
  if ok then (s.rd r n, s) else (0, violation s 1 m (regAddr r n) false)

/-- A value that changes with time: while it runs the spec leaves open what a read finds; it is below the bound. -/
def readRunning (s : State) (v : Word) (f : Fld) (bound : Nat) : Word × State :=
  let (w, s) := s.fresh 64
  (putField v f (w.toNat % bound), s)

/-- A read of one register. `low` says whether the access reaches the low word, for reads that do something. -/
def regLoad (s : State) (m : Nat) (r : Reg) (i : Nat) (low : Bool) : Word × State :=
  match r with
  | .CTX_CTL | .CTX_PC | .CTX_CAUSE | .CTX_BADADDR | .CTX_STEP => (readCtx s r i, s)
  | .MBOX_TX_ADDR | .MBOX_TX_SEND | .MBOX_RX_ADDR | .MBOX_RX_LEN | .MBOX_RX_POP | .MBOX_CH_STAT => readMbox s m r i
  | .INTC_CLAIM => if low then claimRead s m i else (0, s)
  | .INTC_GCTL =>
    let t := s.fld Fld.INTC_GCTL_TIMER i
    if t = 0 then (s.rd r i, s)
    else
      let (v, s) := readRunning s (s.rd r i) Fld.INTC_GCTL_TIMER t
      (putField v Fld.INTC_GCTL_TIMER (field v Fld.INTC_GCTL_TIMER.lo Fld.INTC_GCTL_TIMER.width + 1), s)
  | .THR_BUSY => let s := busyCycles s (.thresher i); (s.rd r i, s)
  | .BRINGUP_STEP =>
    if running s = 0 then (s.rd r i, s) else readRunning s (s.rd r i) Fld.BRINGUP_STEP_ELAPSED (2 ^ 32)
  | .ANCHOR_RNG =>
    if isCoreMaster m then let (w, s) := s.fresh 64; (w, s) else (0, violation s 1 m (regAddr r i) false)
  | .DBG_LEVEL | .DBG_UNLOCK | .DBG_SEL | .DBG_CTL | .DBG_REG_SEL | .DBG_BP_CTL | .DBG_MEM_CMD | .DBG_CHAL | .DBG_TOKEN
  | .DBG_REG_DATA | .DBG_BP_ADDR | .DBG_MEM_ADDR | .DBG_MEM_DATA => readDebug s m r i
  | .FUR_KEY_CMD | .FUR_KEY_BASE | .FUR_KEY_LEN => if i = 0 then (readStatus s r i, s) else (0, s)
  | _ => (readStatus s r i, s)

end Sys2Proof.Machine
end

