-- ==== Sys2Proof/Machine/CsrWrite.lean ====
section
/-!
DEFINITION. Writing a CSR over the bus: every register's own rule, or the plain write of R10 and R13.
-/
namespace Sys2Proof.Machine

/-! ## Registers without a row of their own -/

/-- A write of GAUGE_CFG: CLEAR clears AVG and SAT of the die's gauges. -/
def writeGaugeCfg (s : State) (die : Nat) (a : CsrAcc) : State :=
  let s := s.plainWrite .GAUGE_CFG die false a
  if Fld.GAUGE_CFG_CLEAR.presented a = 1 then (List.range 9).foldl (fun s cls => s.wr .GAUGE (die * 9 + cls) 0) s else s

/-- A write of DRAM_MARK (R322): a rank whose mark is cleared counts its corrections from zero. -/
def writeDramMark (s : State) (ch : Nat) (a : CsrAcc) : State :=
  let old := s.rd .DRAM_MARK ch
  let s := s.plainWrite .DRAM_MARK ch false a
  let cleared (k : Nat) : Bool :=
    let v := 5 * (k / 16 % 4) + 4
    k / 64 == ch && old.getLsbD v && !(s.rd .DRAM_MARK ch).getLsbD v
  { s with markCnt := s.markCnt.filter (fun e => !cleared e.1) }

/-- A write of ROCE_QP_CMD (R387): OP 1 ACTIVATE, OP 2 RESET, of the queue pair that INDEX then names. -/
def writeQpCmd (s : State) (x : Nat) (a : CsrAcc) : State :=
  let s := s.plainWrite .ROCE_QP_CMD x false a
  let i := s.fld Fld.ROCE_QP_CMD_INDEX x
  match Fld.ROCE_QP_CMD_OP.presented a with
  | 1 => qpActivate s x i
  | 2 => qpReset s x i
  | _ => s

/-- A write of a mailbox register that a row does not name (R416). -/
def writeMbox (s : State) (m : Nat) (r : Reg) (n : Nat) (a : CsrAcc) : State :=
  let ok : Bool := match r with
    | .MBOX_TX_ADDR => isSender s m n
    | .MBOX_CH_STAT => isSender s m n || isReceiver s m n
    | _ => isReceiver s m n
  if ok then s.plainWrite r n false a else violation s 1 m (regAddr r n) true

/-- A write of a ROPE register that a row does not name: the rope's masters only (R512). -/
def writeRope (s : State) (m : Nat) (r : Reg) (i : Nat) (a : CsrAcc) : State :=
  if ropeMaster m then s.plainWrite r i false a else violation s 1 m (regAddr r i) true

/-- A write of the recovery window (R496): by the host links, during recovery boot only. -/
def writeRcv (s : State) (m k : Nat) (a : CsrAcc) : State :=
  if m ≠ 1 ∧ m ≠ 2 then violation s 1 m (regAddr .ANCHOR_RCV k) true
  else if !s.anchor.recovery then violation s 7 m (regAddr .ANCHOR_RCV k) true
  else
    let v := accValue a
    let put (c : Cells Byte) (b : Nat) : Cells Byte :=
      if (accMask a).getLsbD (8 * b) then Cells.put (fun _ => 0) c (8 * k + b) (BitVec.ofNat 8 (v.toNat / 2 ^ (8 * b))) else c
    { s with anchor := { s.anchor with rcv := (List.range 8).foldl put s.anchor.rcv } }

/-- A software write of a counter (R50), then the increments of the same cycle; a job's DELIVERED that has advanced is told
to the lead (R445), and ends a job that has delivered its last step (R213). -/
def writeCounter (s : State) (name : Nat) (a : CsrAcc) (inc : Nat) : State :=
  let old := counterVal s name
  let (r, i) := counterReg name
  let s := counterAdd (s.wr r i (mergeAcc (s.rd r i) a)) name inc
  if old < counterVal s name then
    match s.jobs.find? (fun j => deliveredName j.id == name) with
    | some j => endSpentJobs (cairnsDue s j.id)
    | none => s
  else s

/-! ## By chapter -/

/-- Registers of the host link, the interrupt controller, the rope, bring-up, power, the anchor and the debug module. -/
def storeManage (s : State) (m : Nat) (r : Reg) (i : Nat) (a : CsrAcc) : State :=
  match r with
  | .MBOX_BIND => writeMboxBind s m i a
  | .MBOX_LOCK => writeMboxLock s m a
  | .MBOX_TX_SEND => mboxSend s m i a
  | .MBOX_RX_POP => mboxPop s m i a
  | .MBOX_TX_ADDR | .MBOX_RX_ADDR | .MBOX_RX_LEN | .MBOX_CH_STAT => writeMbox s m r i a
  | .MBOX_DB => clearDoorbells s a 0
  | .MBOX_DB_MASK => relevelDoorbells (s.plainWrite .MBOX_DB_MASK 0 false a)
  | .INTC_PEND => writePend s i a
  | .INTC_MASK | .INTC_ROUTE => refreshIntc (s.plainWrite r i false a)
  | .INTC_GCTL => writeGctl s i a
  | .INTC_COMPLETE => completeWrite s m i a
  | .ROPE_BYPASS => writeBypass s m a
  | .ROPE_FW_CMD => writeFwCmd s m a
  | .ROPE_CFG | .ROPE_STATUS | .ROPE_TIMER | .ROPE_TIMER2 | .ROPE_MARGIN | .ROPE_MARGIN_THR | .ROPE_ROUTE | .ROPE_COUNT
  | .ROPE_FW_STATUS | .ROPE_FW_CHILD | .ROPE_MEMBER => writeRope s m r i a
  | .BRINGUP_STEP => writeStep s m a
  | .BRINGUP_CFG => writeBringupCfg s m a
  | .RESET_CTL => writeResetCtl s m a
  | .FLOOR => writeFloor s m i a
  | .PWR_REQ => writePwrReq s m a
  | .ANCHOR_CMD => writeAnchorCmd s m a
  | .ANCHOR_RCV => writeRcv s m i a
  | .ERR_SUMMARY => writeErrSummary s a 0
  | .ERR_INJ => writeErrInj s m a
  | .DBG_LEVEL | .DBG_UNLOCK | .DBG_SEL | .DBG_CTL | .DBG_REG_SEL | .DBG_BP_CTL | .DBG_MEM_CMD | .DBG_CHAL | .DBG_TOKEN
  | .DBG_REG_DATA | .DBG_BP_ADDR | .DBG_MEM_ADDR | .DBG_MEM_DATA => writeDebug s m r i a
  | _ => s.plainWrite r i false a

/-- Registers of the network. -/
def storeNet (s : State) (m : Nat) (r : Reg) (i : Nat) (a : CsrAcc) : State :=
  match r with
  | .PORT_CFG => writePort s (i / 8) (i % 8) .cfg a
  | .PORT_MAC => writePort s (i / 8) (i % 8) .mac a
  | .FUR_SUBMIT => furSubmit s m i a
  | .FUR_KEY_CMD => if i = 0 then writeKeyCmd s a else s
  | .FUR_KEY_BASE | .FUR_KEY_LEN => if i = 0 then s.plainWrite r 0 false a else s
  | .FUR_EVQ => relevel (s.plainWrite .FUR_EVQ i false a) (384 + 64 * i)
  | .FUR_EVQ_PTR => consumeEvents s m i a
  | .FUR_ABORT => furAbort s i a
  | .FUR_SQ_CFG => writeSqCfg s m (i / 64) (i % 64) a
  | .FUR_RQ_BASE => writeRqBase s i a
  | .FUR_RQ_PTR => writeCons s m Fld.FUR_RQ_PTR_PROD Fld.FUR_RQ_PTR_CONS i a
  | .ROCE_QP_CMD => writeQpCmd s i a
  | .SCHED_PORT_SHAPE => writePortShape s (i / 9) (i % 9) a
  | .SCHED_Q_CFG => writeSchedQ s m (i / 576) (i / 64 % 9) (i % 64) a
  | .POL_CFG => writePolicer s (i / 72) (i / 8 % 9) (i % 8) a
  | .POL_MAP | .POL_DROP => if i / 8 % 9 = 8 then s else s.plainWrite r i false a
  | _ => storeManage s m r i a

/-- A write of one register: those of tiles, stooks, engines and memory first. -/
def regStore (s : State) (m : Nat) (r : Reg) (i : Nat) (a : CsrAcc) : State :=
  match r with
  | .GAUGE_CFG => writeGaugeCfg s i a
  | .HQ_CFG => writeHqCfg s i a
  | .HQ_POST => writeHqPost s m i a
  | .HQ_DONE => writeHqDone s m i a
  | .TILE_CTL => writeAccOwn s i a
  | .CTX_CTL => writeCtxCtl s m i a
  | .CTX_PC => writeCtxPc s i a
  | .CTX_WIN => writeCtxWin s i a
  | .CTX_SLICE => writeCtxSlice s m i a
  | .STOOK_IRQ_PEND => clearStookPend s i a 0
  | .STOOK_IRQ_MASK => relevel (s.plainWrite .STOOK_IRQ_MASK i false a) (512 + i)
  | .DMA_ABORT => writeAbort s (.dma i) Fld.DMA_ABORT_TAG Fld.DMA_ABORT_JOB Fld.DMA_ABORT_RES_STATUS Fld.DMA_ABORT_RES_COUNT i a
  | .THR_CFG => writeThrCfg s i a
  | .THR_MAXPIX => writeThrMaxpix s i a
  | .THR_ABORT => writeAbort s (.thresher i) Fld.THR_ABORT_TAG Fld.THR_ABORT_JOB Fld.THR_ABORT_RES_STATUS Fld.THR_ABORT_RES_COUNT i a
  | .PERM_ABORT => writeAbort s (.perm i) Fld.PERM_ABORT_TAG Fld.PERM_ABORT_JOB Fld.PERM_ABORT_RES_STATUS Fld.PERM_ABORT_RES_COUNT i a
  | .BALER_ABORT => writeBalerAbort s i a
  | .TOK_ABORT => writeAbort s (.token i) Fld.TOK_ABORT_TAG Fld.TOK_ABORT_JOB Fld.TOK_ABORT_RES_STATUS Fld.TOK_ABORT_RES_COUNT i a
  | .POOL_CFG => writePoolCfg s m i a
  | .POOL_BASE | .POOL_META => writePoolAddr s r i a
  | .POOL_ABORT =>
    deliverEnded (writeAbort s (.pool i) Fld.POOL_ABORT_TAG Fld.POOL_ABORT_JOB Fld.POOL_ABORT_RES_STATUS Fld.POOL_ABORT_RES_COUNT i a)
      (.pool i)
  | .STREAM_CFG => writeStreamCfg s i a
  | .STREAM_ABORT =>
    writeAbort s (.stream i) Fld.STREAM_ABORT_TAG Fld.STREAM_ABORT_JOB Fld.STREAM_ABORT_RES_STATUS Fld.STREAM_ABORT_RES_COUNT i a
  | .FL_SUBMIT => writeFlSubmit s m (i / 64) (i % 64) a
  | .FL_ABORT => writeFlAbort s i a
  | .FL_MAPCACHE | .FL_AUX => if flashAreasLocked s i then s else s.plainWrite r i false a
  | .FL_KEY_DATA => writeFlKeyData s m (i / 8) (i % 8) a
  | .FL_KEY_CMD => writeFlKeyCmd s m i a
  | .FL_VOL_CFG => writeVolCfg s (i / 16) (i % 16) a
  | .FL_VOL_CAP => writeVolCap s (i / 16) (i % 16) a
  | .MEM_IL => writeMemIl s a
  | .DRAM_MARK => writeDramMark s i a
  | .P_COUNTER => writeCounter s i a 0
  | .X_COUNTER => writeCounter s (0x4000 + i / 1024 * 0x1000 + i % 1024) a 0
  | _ => storeNet s m r i a

end Sys2Proof.Machine
end

