-- ==== Sys2Proof/Machine/CsrBus.lean ====
section
/-!
DEFINITION. CSR space on the bus (R7, R9, R10, R474, R476, R511, R512).
-/
namespace Sys2Proof.Machine

/-- Does nothing answer at a CSR offset now: a P-die's while the P-dies are down (R474, R511), an X-die's in M3, where only the
management blocks have power, and any in M4 and in full reset (R503, R526)? -/
def csrSilent (s : State) (off : Nat) : Bool :=
  if 0x1000000 ≤ off ∧ off < 0x5000000 then pdiesDown s
  else if 0x8000000 ≤ off then !xdiesUp s else !awake s

/-- An access to a block of a stook ungates it (R476). -/
def csrUngate (s : State) (off : Nat) : State :=
  let o := (off - 0x1000000) % 0x1000000
  if 0x1000000 ≤ off ∧ off < 0x5000000 ∧ 0x100000 ≤ o ∧ o < 0x200000 then
    ungate s ((off - 0x1000000) / 0x1000000 * 16 + (o - 0x100000) / 0x10000)
  else s

/-- Is the access of a size and alignment that CSRs take (R9)? -/
def csrSized (off size : Nat) : Bool := (size == 4 || size == 8) && off % size == 0

/-- A read at a CSR offset: the value and the state. Offsets without a register read zero (R14). -/
def csrLoad (s : State) (m off size : Nat) : Nat × State :=
  if csrSilent s off then (0, s)
  else if !csrSized off size then (0, violation s 0 m (csrBase + off) false)
  else
    let s := csrUngate s off
    match Reg.at? (off / 8 * 8) with
    | none => (0, s)
    | some (r, i) =>
      let (v, s) := regLoad s m r i (off % 8 == 0)
      (bits (v &&& ~~~(r.maskOf .wo)).toNat (8 * (off % 8)) (8 * size), s)

/-- The access that a write of 4 or 8 bytes makes. -/
def csrAcc (off size v : Nat) : CsrAcc :=
  if size = 8 then .full (BitVec.ofNat 64 v)
  else if off % 8 = 0 then .low (BitVec.ofNat 32 v) else .high (BitVec.ofNat 32 v)

/-- A write at a CSR offset. Offsets without a register ignore it (R14). -/
def csrStore (s : State) (m off size v : Nat) : State :=
  if csrSilent s off then s
  else if !csrSized off size then violation s 0 m (csrBase + off) true
  else
    let s := csrUngate s off
    match Reg.at? (off / 8 * 8) with
    | none => s
    | some (r, i) => regStore s m r i (csrAcc off size v)

/-- COUNTER_WRITE (R50): the write, then the `inc` increments that arrive in the same cycle. -/
def execCounterWrite (name : BitVec 16) (a : CsrAcc) (inc : BitVec 8) (s : State) : Host.Outcome State Fault Refusal :=
  .next (onCounter s name.toNat (fun s => if counterValid name.toNat then writeCounter s name.toNat a inc.toNat else s))

/-- UNMAPPED_ACCESS (R533, R512): an access to an address of no region is a violation of class 2. -/
def execUnmappedAccess (m : Master) (addr : BitVec 52) (write : Bool) (s : State) : Host.Outcome State Fault Refusal :=
  .next (onModule s (fun s =>
    match regionOf s addr.toNat with
      | .unmapped => violation s 2 m.toNat addr.toNat write
      | _ => s))

end Sys2Proof.Machine
end

