-- ==== Sys2Proof/Machine/Vorvar.lean ====
section
/-!
DEFINITION. Executing Vorvar instructions (chapter 04): the forms, their checks and effects on a context or a management
core, and the issue of one instruction with its fetch, breakpoint and exception rules (R117, R119, R123, R509).
-/
namespace Sys2Proof.Machine

/-! ## Instruction forms -/

/-- Operations of major 0x00 (R124). -/
inductive AluR where
  | add | sub | and | or | xor | sll | srl | sra | slt | sltu | min | max | minu | maxu
  | mul | mulh | mulhu | div | divu | rem | remu | clz | ctz | popc
  deriving DecidableEq, Repr

/-- Immediate operations (R125). -/
inductive AluI where
  | addi | andi | ori | xori | slli | srli | srai | slti | sltiu | lui | apc
  deriving DecidableEq, Repr

/-- Loads (R126): size in bytes, sign or zero extension. -/
structure LoadKind where
  size : Nat
  signed : Bool
  deriving DecidableEq, Repr

/-- Branch conditions (R128). -/
inductive BrOp where
  | eq | ne | lt | ge | ltu | geu
  deriving DecidableEq, Repr

/-- Predicate operations (R133). -/
inductive PredOp where
  | and | or | xor | andn | not | set | get
  deriving DecidableEq, Repr

/-- An instruction, decoded into its form and fields. -/
inductive VOp where
  | alu (o : AluR) (f : FmtR)
  | aluI (o : AluI) (f : FmtI)
  | load (k : LoadKind) (f : FmtI)
  | store (n : Nat) (f : FmtS)
  | liL (f : FmtL)
  | lih (f : FmtL)
  | addiL (f : FmtL)
  | jalL (f : FmtL)
  | loadL (k : LoadKind) (f : FmtL)
  | storeL (n : Nat) (f : FmtL)
  | branch (o : BrOp) (f : FmtB)
  | jal (f : FmtJ)
  | jalr (f : FmtI)
  | varith (o : VArith) (f : FmtV)
  | vcmp (cond : Nat) (f : FmtV)
  | pred (o : PredOp) (f : FmtV)
  | vmov (f : FmtV)
  | vsel (f : FmtV)
  | vbcast (f : FmtV)
  | vext (f : FmtV)
  | vins (f : FmtV)
  | vperm (f : FmtV)
  | vcvt (f : FmtV)
  | vred (f : FmtV)
  | vidx (f : FmtV)
  | vld (f : FmtVM)
  | vst (f : FmtVM)
  | vlds (f : FmtV)
  | vgather (f : FmtV)
  | vscatter (f : FmtV)
  | troute (f : FmtV)
  | vlut (f : FmtV)
  | scree (f : FmtV)
  | perm (f : FmtR)
  | tzero (f : FmtT)
  | tload (f : FmtT)
  | tmac (f : FmtT)
  | tstore (f : FmtT)
  | enq (f : FmtI)
  | waitc (f : FmtR)
  | csrr (f : FmtI)
  | csrw (f : FmtI)
  | fence (rd rs1 : RegNum)
  | fenceI (rd rs1 : RegNum)
  | bar (f : FmtI)
  | yield (rd rs1 : RegNum)
  | halt (rd rs1 : RegNum)
  | eret (rd rs1 : RegNum)
  | undefined
  deriving DecidableEq, Repr

/-- A long form takes two words (R117). -/
def VOp.isLong : VOp → Bool
  | .liL _ | .lih _ | .addiL _ | .jalL _ | .loadL .. | .storeL .. => true
  | _ => false

/-- Length in bytes. -/
def VOp.len (o : VOp) : Nat := if o.isLong then 8 else 4

/-! ## Scalar arithmetic (R124, R125) -/

/-- Leading zeros of a 64-bit word. -/
def clz64 (x : Word) : Nat := if x = 0 then 64 else 63 - Nat.log2 x.toNat

/-- Trailing zeros of a 64-bit word. -/
def ctz64 (x : Word) : Nat := ((List.range 64).find? (fun i => x.getLsbD i)).getD 64

/-- The number of 1 bits of a 64-bit word. -/
def popc64 (x : Word) : Nat := ((List.range 64).filter (fun i => x.getLsbD i)).length

/-- A one-bit result. -/
def flagWord (b : Bool) : Word := if b then 1 else 0

/-- The operations of R124. -/
def AluR.eval (o : AluR) (a b : Word) : Word :=
  match o with
  | .add => a + b
  | .sub => a - b
  | .and => a &&& b
  | .or => a ||| b
  | .xor => a ^^^ b
  | .sll => a <<< (b.toNat % 64)
  | .srl => a >>> (b.toNat % 64)
  | .sra => a.sshiftRight (b.toNat % 64)
  | .slt => flagWord (a.slt b)
  | .sltu => flagWord (a.ult b)
  | .min => if a.slt b then a else b
  | .max => if a.slt b then b else a
  | .minu => if a.ult b then a else b
  | .maxu => if a.ult b then b else a
  | .mul => a * b
  | .mulh => BitVec.ofInt 64 (a.toInt * b.toInt / 2 ^ 64)
  | .mulhu => BitVec.ofNat 64 (a.toNat * b.toNat / 2 ^ 64)
  | .div => if b = 0 then BitVec.allOnes 64 else a.sdiv b
  | .divu => if b = 0 then BitVec.allOnes 64 else a / b
  | .rem => if b = 0 then a else a.srem b
  | .remu => if b = 0 then a else a % b
  | .clz => BitVec.ofNat 64 (clz64 a)
  | .ctz => BitVec.ofNat 64 (ctz64 a)
  | .popc => BitVec.ofNat 64 (popc64 a)

/-- clz, ctz and popc have the rs2 field zero (R124). -/
def AluR.oneOperand : AluR → Bool
  | .clz | .ctz | .popc => true
  | _ => false

/-- A sign-extended 16-bit immediate. -/
def sext16 (i : BitVec 16) : Word := i.signExtend 64

/-- A sign-extended 32-bit immediate. -/
def sext32 (i : BitVec 32) : Word := i.signExtend 64

/-- The immediate operations of R125. -/
def AluI.eval (o : AluI) (a pc : Word) (imm : BitVec 16) : Word :=
  match o with
  | .addi => a + sext16 imm
  | .andi => a &&& imm.setWidth 64
  | .ori => a ||| imm.setWidth 64
  | .xori => a ^^^ imm.setWidth 64
  | .slli => a <<< (imm.toNat % 64)
  | .srli => a >>> (imm.toNat % 64)
  | .srai => a.sshiftRight (imm.toNat % 64)
  | .slti => flagWord (a.slt (sext16 imm))
  | .sltiu => flagWord (a.ult (sext16 imm))
  | .lui => sext16 imm <<< 16
  | .apc => pc + (sext16 imm <<< 2)

/-- Are the fields that R125 shows as zero zero? -/
def AluI.legal (o : AluI) (f : FmtI) : Bool :=
  match o with
  | .slli | .srli | .srai => f.imm.toNat < 64
  | .lui | .apc => f.rs1 == 0
  | _ => true

/-- Branch conditions (R128). -/
def BrOp.eval (o : BrOp) (a b : Word) : Bool :=
  match o with
  | .eq => a == b
  | .ne => a != b
  | .lt => a.slt b
  | .ge => !a.slt b
  | .ltu => a.ult b
  | .geu => !a.ult b

/-- A loaded value, extended (R126). -/
def LoadKind.extend (k : LoadKind) (bs : List Byte) : Word :=
  if k.signed then BitVec.ofInt 64 (sval (8 * k.size) (leNat bs)) else BitVec.ofNat 64 (leNat bs)

/-- What a scalar instruction without memory access does: write a register and go on at an address, or an exception. -/
inductive Eff where
  | set (rd : RegNum) (v : Word) (npc : Word)
  | jump (npc : Word)
  | exc (cause : Nat) (a : Word)
  deriving DecidableEq, Repr

/-- The scalar instructions of R124, R125, R127 and R128. -/
def scalarEff (get : RegNum → Word) (pc : Word) : VOp → Option Eff
  | .alu o f =>
    if f.z ≠ 0 ∨ (o.oneOperand ∧ f.rs2 ≠ 0) then some (.exc causeIllegal 0)
    else some (.set f.rd (o.eval (get f.rs1) (get f.rs2)) (pc + 4))
  | .aluI o f =>
    if !o.legal f then some (.exc causeIllegal 0)
    else some (.set f.rd (o.eval (get f.rs1) pc f.imm) (pc + 4))
  | .liL f =>
    if f.z ≠ 0 ∨ f.rs1 ≠ 0 then some (.exc causeIllegal 0)
    else some (.set f.rd (sext32 f.imm) (pc + 8))
  | .lih f =>
    if f.z ≠ 0 ∨ f.rs1 ≠ 0 then some (.exc causeIllegal 0)
    else some (.set f.rd ((get f.rd &&& 0xFFFFFFFF#64) ||| (f.imm.setWidth 64 <<< 32)) (pc + 8))
  | .addiL f =>
    if f.z ≠ 0 then some (.exc causeIllegal 0) else some (.set f.rd (get f.rs1 + sext32 f.imm) (pc + 8))
  | .jalL f =>
    if f.z ≠ 0 ∨ f.rs1 ≠ 0 ∨ f.imm.toNat % 4 ≠ 0 then some (.exc causeIllegal 0)
    else some (.set f.rd (pc + 8) (pc + sext32 f.imm))
  | .branch o f =>
    some (.jump (if o.eval (get f.rs1) (get f.rs2) then pc + (sext16 f.off <<< 2) else pc + 4))
  | .jal f => some (.set f.rd (pc + 4) (pc + (f.off.signExtend 64 <<< 2)))
  | .jalr f =>
    let t := get f.rs1 + sext16 f.imm
    if t.toNat % 4 ≠ 0 then some (.exc causeMisaligned t) else some (.set f.rd (pc + 4) t)
  | _ => none

/-- A scalar load or store: kind and destination, or the data; and the address. -/
inductive MemOp where
  | load (k : LoadKind) (rd : RegNum) (a : Word)
  | store (n : Nat) (v : Word) (a : Word)
  | illegal

/-- The scalar memory instructions (R126, R127). -/
def memOp (get : RegNum → Word) : VOp → Option MemOp
  | .load k f => some (.load k f.rd (get f.rs1 + sext16 f.imm))
  | .store n f => some (.store n (get f.rs2) (get f.rs1 + sext16 f.imm))
  | .loadL k f => if f.z ≠ 0 then some .illegal else some (.load k f.rd (get f.rs1 + sext32 f.imm))
  | .storeL n f => if f.z ≠ 0 then some .illegal else some (.store n (get f.rd) (get f.rs1 + sext32 f.imm))
  | _ => none

/-! ## Bus accesses by device physical address -/

/-- A read by a master anywhere in the device physical map. -/
def busRead (s : State) (master src a n : Nat) : ReadRes :=
  match regionOf s a with
  | .csr => let (v, s) := csrLoad s master (a - csrBase) n; ⟨leBytes n v, false, s⟩
  | _ => memRead s master src a n

/-- A write by a master anywhere in the device physical map. -/
def busWrite (s : State) (master src a : Nat) (bs : List Byte) : WriteRes :=
  match regionOf s a with
  | .csr => ⟨false, csrStore s master (a - csrBase) bs.length (leNat bs)⟩
  | _ => memWrite s master src a bs false

/-! ## Tile-local addresses (R82 to R84) -/

/-- Does a span of the tile's own SRAM lie in the context's window? -/
def inTileWin (s : State) (c a n : Nat) : Bool :=
  s.fld Fld.CTX_WIN_TILE_LO c ≤ a / 4096 && (a + n - 1) / 4096 ≤ s.fld Fld.CTX_WIN_TILE_HI c

/-- Does a span of stook SRAM, by offset, lie in the context's window? -/
def inStookWin (s : State) (c o n : Nat) : Bool :=
  s.fld Fld.CTX_WIN_STOOK_LO c ≤ o / 65536 && (o + n - 1) / 65536 ≤ s.fld Fld.CTX_WIN_STOOK_HI c

/-- The device address of the tile's own SRAM. -/
def ownTile (c : Nat) : Nat := tileBase + tileOf c * 0x100000

/-- Decode a tile-local address: the device physical address, or the cause of the stop. -/
def ctxPhys (s : State) (c a n : Nat) : Except Nat Nat :=
  if a + n ≤ 0x100000 then
    if inTileWin s c a n then .ok (ownTile c + a) else .error causeWindow
  else if 0x1000000 ≤ a ∧ a + n ≤ 0x1800000 then
    if inStookWin s c (a - 0x1000000) n then .ok (stookBase + stookOf c * 0x800000 + (a - 0x1000000)) else .error causeWindow
  else if 2 ^ 52 ≤ a ∧ a < 2 ^ 53 then
    if !s.flag Fld.CTX_CTL_GLOBAL_EN c then .error causeAddress
    else
      match regionOf s (a - 2 ^ 52) with
      | .csr => if s.flag Fld.CTX_CTL_GCSR_EN c then .ok (a - 2 ^ 52) else .error causeCsrAccess
      | _ => .ok (a - 2 ^ 52)
  else .error causeAddress

/-- What an access of a context comes to. -/
inductive AccRes where
  | ok (data : List Byte) (s : State)
  | exc (cause : Nat) (a : Word)
  | parity (s : State) (a : Word)
  | stall (s : State)

/-- SOURCE of `TILE_PERR` for a context's access: the own SRAM by its own path, or external through an alias. -/
def srcOf (a own : Nat) : Nat := if a < 2 ^ 52 then own else 3

/-- A load of a context (R82 to R84, R88, R324, R410). -/
def ctxRead (s : State) (c a n : Nat) : AccRes :=
  match ctxPhys s c a n with
  | .error cause => .exc cause (BitVec.ofNat 64 a)
  | .ok p =>
    match prepare s (tileMaster c) [(p, n)] [] with
    | .stall s => .stall s
    | .go =>
      let r := busRead s (tileMaster c) (srcOf a 1) p n
      if r.bad then .parity r.st (BitVec.ofNat 64 a) else .ok r.data (dropHost r.st (tileMaster c))

/-- A store of a context (R82 to R84, R86, R410). -/
def ctxWrite (s : State) (c a : Nat) (bs : List Byte) : AccRes :=
  match ctxPhys s c a bs.length with
  | .error cause => .exc cause (BitVec.ofNat 64 a)
  | .ok p =>
    match prepare s (tileMaster c) [] [(p, bs.length)] with
    | .stall s => .stall s
    | .go =>
      let r := busWrite s (tileMaster c) (srcOf a 2) p bs
      if r.bad then .parity r.st (BitVec.ofNat 64 a) else .ok [] (dropHost r.st (tileMaster c))

/-- What an instruction comes to on a context. -/
inductive VRes where
  | done (s : State)
  | exc (cause : Nat) (a : Word)
  | parity (s : State) (a : Word)
  | stall (s : State)

/-- An undefined encoding (R119). -/
def illegal : VRes := .exc causeIllegal 0

/-- Go on after a successful access. -/
def AccRes.andThen (r : AccRes) (k : List Byte → State → VRes) : VRes :=
  match r with
  | .ok d s => k d s
  | .exc c a => .exc c a
  | .parity s a => .parity s a
  | .stall s => .stall s

/-! ## Vector memory (R135) -/

/-- The runs of consecutive active lanes: first lane and count. -/
def laneRuns (pg : BitVec 32) : List (Nat × Nat) :=
  (List.range 32).foldl (fun (acc : List (Nat × Nat)) i =>
    if pg.getLsbD i then
      match acc.reverse with
      | (l, n) :: r => if l + n = i then (((l, n + 1) :: r).reverse) else acc ++ [(i, 1)]
      | [] => [(i, 1)]
    else acc) []

/-- Load 128 bytes under a predicate: only active lanes are read (R116). Of several bad words none is named: a failed read
of `vld` gives the instruction's address in CTX_BADADDR (the model's choice, log entry 99). -/
def loadLanes (s : State) (c p src : Nat) (pg : BitVec 32) (old : BitVec 1024) : Bool × BitVec 1024 × State :=
  match regionOf s p with
  | .csr => let r := busRead s (tileMaster c) src p 128; (r.bad, mapElems 32 pg old (fun i => leAt r.data (4 * i) 4), r.st)
  | _ =>
    (laneRuns pg).foldl (fun (acc : Bool × BitVec 1024 × State) run =>
      let (bad, v, s) := acc
      let r := memRead s (tileMaster c) src (p + 4 * run.1) (4 * run.2)
      let m := predOf (fun i => decide (run.1 ≤ i ∧ i < run.1 + run.2))
      (bad || r.bad, mapElems 32 m v (fun i => leAt r.data (4 * (i - run.1)) 4), r.st)) (false, old, s)

/-- Store the active lanes of a vector. -/
def storeLanes (s : State) (c p src : Nat) (pg : BitVec 32) (v : BitVec 1024) : State :=
  match regionOf s p with
  | .csr => (busWrite s (tileMaster c) src p (leBytes 128 v.toNat)).st
  | _ =>
    (laneRuns pg).foldl (fun s run =>
      (memWrite s (tileMaster c) src (p + 4 * run.1) ((leBytes 128 v.toNat |>.drop (4 * run.1)).take (4 * run.2)) false).st) s

/-- The spans of the active lanes. -/
def laneSpans (p : Nat) (pg : BitVec 32) : List Span := (laneRuns pg).map (fun r => (p + 4 * r.1, 4 * r.2))

/-- The address of a vld or vst. -/
def vmAddr (s : State) (c : Nat) (f : FmtVM) : Nat := (ctxS s c f.rs1 + (f.imm.signExtend 64 <<< 7)).toNat

/-- vld and vst (R135): the one address is checked whether or not a lane is active. -/
def vecMem (s : State) (c : Nat) (f : FmtVM) (store : Bool) : VRes :=
  let a := vmAddr s c f
  let pg := ctxP s c f.pg
  if a % 128 ≠ 0 then .exc causeMisaligned (BitVec.ofNat 64 a)
  else
    match ctxPhys s c a 128 with
    | .error cause => .exc cause (BitVec.ofNat 64 a)
    | .ok p =>
      if pg = 0 then .done (ctxNext s c)
      else
        let sp := laneSpans p pg
        match prepare s (tileMaster c) (if store then [] else sp) (if store then sp else []) with
        | .stall s => .stall s
        | .go =>
          if store then .done (ctxNext (dropHost (storeLanes s c p (srcOf a 2) pg (ctxV s c f.v)) (tileMaster c)) c)
          else
            let (bad, v, s1) := loadLanes s c p (srcOf a 1) pg (ctxV s c f.v)
            if bad then .parity s1 (BitVec.ofNat 64 a)
            else .done (ctxNext (setCtxV (dropHost s1 (tileMaster c)) c f.v v) c)

/-- The lane addresses of vlds, vgather and vscatter. -/
def laneAddr (base : Word) (stride : Option Word) (idx : BitVec 1024) (i : Nat) : Nat :=
  match stride with
  | some st => (base + BitVec.ofNat 64 i * st).toNat
  | none => (base + BitVec.ofNat 64 (laneOf idx i)).toNat

/-- The fault of one lane of vlds, vgather or vscatter (R135). -/
def laneFault (s : State) (c a : Nat) : Option Nat :=
  if a % 4 ≠ 0 then some causeMisaligned
  else if a + 4 > 0x100000 then some causeAddress
  else if !inTileWin s c a 4 then some causeWindow else none

/-- vlds, vgather and vscatter (R135): the lowest faulting active lane is reported and no lane is accessed. -/
def gatherMem (s : State) (c : Nat) (f : FmtV) (stride : Option Word) (store : Bool) : VRes :=
  if f.ty ≠ 0 then illegal
  else
    let pg := ctxP s c f.pg
    let act := (List.range 32).filter (fun i => pg.getLsbD i)
    let addr := laneAddr (ctxS s c f.vs1) stride (ctxV s c f.vs2)
    match act.findSome? (fun i => (laneFault s c (addr i)).map (fun k => (k, addr i))) with
    | some (cause, a) => .exc cause (BitVec.ofNat 64 a)
    | none =>
      if store then
        let v := ctxV s c f.vd
        .done (ctxNext (act.foldl (fun s i =>
          (memWrite s (tileMaster c) 2 (ownTile c + addr i) (leBytes 4 (laneOf v i)) false).st) s) c)
      else
        let bad := act.filter (fun i => Cells.get (fun _ => false) s.badPar ((ownTile c + addr i) / 4))
        match bad with
        | i :: _ =>
          .parity (bad.foldl (fun s j => recordBadWord s (tileMaster c) 1 ((ownTile c + addr j) / 4)) s) (BitVec.ofNat 64 (addr i))
        | [] =>
          .done (ctxNext (setCtxV s c f.vd
            (mapElems 32 pg (ctxV s c f.vd) (fun i => leNat (peek s (ownTile c + addr i) 4)))) c)

/-! ## Vector and predicate instructions -/

/-- A type of 32-bit elements: .i32, .u32 or .f32. -/
def laneType (t : VType) : Bool := t == .i32 || t == .u32 || t == .f32

/-- Write a vector register and go on. -/
def vDone (s : State) (c : Nat) (vd : RegNum) (v : BitVec 1024) : VRes := .done (ctxNext (setCtxV s c vd v) c)

/-- Predicate operations (R133): unnamed field bits are zero. -/
def predExec (s : State) (c : Nat) (o : PredOp) (f : FmtV) : VRes :=
  if f.pg ≠ 0 ∨ f.ty ≠ 0 then illegal
  else
    let two (g : BitVec 32 → BitVec 32 → BitVec 32) : VRes :=
      if f.vd.val ≥ 8 ∨ f.vs1.val ≥ 8 ∨ f.vs2.val ≥ 8 then illegal
      else .done (ctxNext (setCtxP s c f.vd (g (ctxP s c f.vs1) (ctxP s c f.vs2))) c)
    match o with
    | .and => two (· &&& ·)
    | .or => two (· ||| ·)
    | .xor => two (· ^^^ ·)
    | .andn => two (fun a b => a &&& ~~~b)
    | .not => if f.vs2 ≠ 0 then illegal else two (fun a _ => ~~~a)
    | .set =>
      if f.vd.val ≥ 8 ∨ f.vs2 ≠ 0 then illegal
      else .done (ctxNext (setCtxP s c f.vd ((ctxS s c f.vs1).setWidth 32)) c)
    | .get =>
      if f.vs1.val ≥ 8 ∨ f.vs2 ≠ 0 then illegal
      else .done (ctxNext (setCtxS s c f.vd ((ctxP s c f.vs1).setWidth 64)) c)

/-- The vector instructions of majors 0x28, 0x29, 0x2B and 0x2D and troute, with a defined type. -/
def vecExec (s : State) (c : Nat) (t : VType) (f : FmtV) : VOp → VRes
  | .varith o _ =>
    if !o.allows t ∨ (o.unary ∧ f.vs2 ≠ 0) then illegal
    else vDone s c f.vd (vArith o t (ctxP s c f.pg) (ctxV s c f.vs1) (ctxV s c f.vs2) (ctxV s c f.vd))
  | .vcmp cond _ =>
    if !laneType t ∨ cond > 3 ∨ f.vd.val ≥ 8 then illegal
    else
      let pg := ctxP s c f.pg
      .done (ctxNext (setCtxP s c f.vd
        (predOf (fun i => pg.getLsbD i && cmpLane t cond (laneOf (ctxV s c f.vs1) i) (laneOf (ctxV s c f.vs2) i)))) c)
  | .vmov _ => vDone s c f.vd (mapElems 32 (ctxP s c f.pg) (ctxV s c f.vd) (laneOf (ctxV s c f.vs1)))
  | .vsel _ =>
    let pg := ctxP s c f.pg
    vDone s c f.vd (mapElems 32 (BitVec.allOnes 32) 0
      (fun i => laneOf (if pg.getLsbD i then ctxV s c f.vs1 else ctxV s c f.vs2) i))
  | .vbcast _ => vDone s c f.vd (mapElems t.width (ctxP s c f.pg) (ctxV s c f.vd) (fun _ => (ctxS s c f.vs1).toNat))
  | .vext _ =>
    if !laneType t then illegal
    else
      let x := laneOf (ctxV s c f.vs1) f.vs2
      .done (ctxNext (setCtxS s c f.vd (if t = .i32 then BitVec.ofInt 64 (sval 32 x) else BitVec.ofNat 64 x)) c)
  | .vins _ =>
    if !laneType t ∨ f.pg ≠ 0 then illegal
    else vDone s c f.vd (mapElems 32 (predOf (fun i => i == f.vs2.val)) (ctxV s c f.vd) (fun _ => (ctxS s c f.vs1).toNat))
  | .vperm _ =>
    if !laneType t then illegal
    else vDone s c f.vd (mapElems 32 (ctxP s c f.pg) (ctxV s c f.vd)
      (fun i => laneOf (ctxV s c f.vs1) (laneOf (ctxV s c f.vs2) i % 32)))
  | .vcvt _ =>
    match vtypeOf (f.vs2.val % 16) with
    | none => illegal
    | some src =>
      if f.vs2.val ≥ 16 ∨ (src.width ≠ t.width ∧ f.pg ≠ 0) then illegal
      else vDone s c f.vd (vCvt src t (ctxP s c f.pg) (ctxV s c f.vs1) (ctxV s c f.vd))
  | .vred _ =>
    if !laneType t ∨ f.vs2.val > 2 then illegal
    else vDone s c f.vd (packElems 32 [vRed t f.vs2 (ctxP s c f.pg) (ctxV s c f.vs1)])
  | .vidx _ =>
    if f.vs1 ≠ 0 ∨ f.vs2 ≠ 0 then illegal
    else vDone s c f.vd (mapElems 32 (ctxP s c f.pg) (ctxV s c f.vd) id)
  | .troute _ =>
    if t ≠ .f32 then illegal
    else vDone s c f.vd (vRoute (ctxV s c f.vs1) (ctxV s c f.vs2) (f.pg.val + 1))
  | .scree _ =>
    if f.ty ≠ 0 ∨ f.pg ≠ 0 then illegal
    else
      let x := ctxV s c f.vs1
      let k : Quad := let l i := BitVec.ofNat 32 (laneOf (ctxV s c f.vs2) i); ⟨l 0, l 1, l 2, l 3⟩
      vDone s c f.vd (packElems 128 ((List.range 8).map (fun j =>
        let l i := BitVec.ofNat 32 (laneOf x (4 * j + i))
        (scree k ⟨l 0, l 1, l 2, l 3⟩).toNat)))
  | _ => illegal

/-- The words of a table, by offset, that vlut reads (R116, R139, R179, R180): the word of NSEG and EXTRAPOLATE always,
since the checks need it, X0 and INV_H when a lane is active, and the breakpoints that the active lanes interpolate
between. -/
def lutReads (t : LutTable) (pg : BitVec 32) (x : BitVec 1024) : List Nat :=
  8 :: (if pg = 0 then [] else 0 :: 4 ::
    ((List.range 32).filter (fun i => pg.getLsbD i)).flatMap (fun i => (lutPoints t (laneOf x i)).map (fun k => 64 + 4 * k)))

/-- vlut (R139, R179, R180): a table address that is not 64-byte aligned stops with MISALIGNED before the other checks (R139 and
R179 require the alignment and name no cause; log entry 25). NSEG is read at issue; the table lies in the tile's SRAM and window. A bad word among those
read is a failed read at the table's address (log entries 99, 100). -/
def vlutExec (s : State) (c : Nat) (f : FmtV) : VRes :=
  if f.ty ≠ 6 then illegal
  else
    let a := (ctxS s c f.vs2).toNat
    let bad (k : Nat) : VRes := .exc k (BitVec.ofNat 64 a)
    if a % 64 ≠ 0 then bad causeMisaligned
    else if a + 64 > 0x100000 then bad causeAddress
    else if !inTileWin s c a 64 then bad causeWindow
    else
      let h := memRead s (tileMaster c) 1 (ownTile c + a + 8) 4
      if h.bad then .parity h.st (BitVec.ofNat 64 a)
      else
        let n := 64 + 4 * (lutSegs (leAt h.data 0 2) + 1)
        if a + n > 0x100000 then bad causeAddress
        else if !inTileWin s c a n then bad causeWindow
        else
          let s := h.st
          let t := lutOf (peek s (ownTile c + a) n)
          let pg := ctxP s c f.pg
          let bads := ((lutReads t pg (ctxV s c f.vs1)).eraseDups.map (fun o => (ownTile c + a + o) / 4)).filter (fun w =>
            Cells.get (fun _ => false) s.badPar w)
          if !bads.isEmpty then .parity (bads.foldl (fun s w => recordBadWord s (tileMaster c) 1 w) s) (BitVec.ofNat 64 a)
          else vDone s c f.vd (mapElems 32 pg (ctxV s c f.vd) (fun i => lutLane t (laneOf (ctxV s c f.vs1) i)))

/-- perm (R217; The shuffle, 04): all ones when N is 0 or above 2^48, or the offset is not below N. -/
def permExec (s : State) (c : Nat) (f : FmtR) : VRes :=
  if f.z ≠ 0 then illegal
  else
    let v := ctxV s c f.rs2
    let l (i : Nat) : BitVec 32 := BitVec.ofNat 32 (laneOf v i)
    let n := laneOf v 5 + laneOf v 6 * 2 ^ 32
    let i := (ctxS s c f.rs1).toNat
    let r : Word := if n = 0 ∨ n > 2 ^ 48 ∨ i ≥ n then BitVec.allOnes 64
      else BitVec.ofNat 64 (permIndex ⟨l 0, l 1, l 2, l 3⟩ (laneOf v 4) n i)
    .done (ctxNext (setCtxS s c f.rd r) c)

/-! ## Tensor instructions (R136, R137, R160 to R176) -/

/-- The first check a tensor span fails: in the tile's own SRAM, then in the window (R137). -/
def tensorFault (s : State) (c : Nat) (spans : List Span) : Option (Nat × Nat) :=
  spans.findSome? (fun p =>
    if p.1 + p.2 > 0x100000 then some (causeAddress, p.1)
    else if !inTileWin s c p.1 p.2 then some (causeWindow, p.1) else none)

/-- Read spans of the tile's own SRAM as tensor operands: the bytes, the first span with a bad word if any, by its first
byte (the model's choice, log entry 99), the state. -/
def tensorRead (s : State) (c : Nat) (spans : List Span) : List (List Byte) × Option Nat × State :=
  spans.foldl (fun (acc : List (List Byte) × Option Nat × State) p =>
    let (ds, bad, s) := acc
    let r := memRead s (tileMaster c) 1 (ownTile c + p.1) p.2
    (ds ++ [r.data], if bad.isNone && r.bad then some p.1 else bad, r.st)) ([], none, s)

/-- The weight buffer of an accumulator. -/
def wbufAt (s : State) (t i b : Nat) : WBuf := Cells.get (fun _ => {}) s.wbuf ((t * 4 + i) * 2 + b)

/-- The state with a weight buffer replaced. -/
def setWbuf (s : State) (t i b : Nat) (w : WBuf) : State :=
  { s with wbuf := Cells.put (fun _ => {}) s.wbuf ((t * 4 + i) * 2 + b) w }

/-- The row stride of the geometry operand (R137). -/
def strideOf (g : Word) : Nat := field g 16 16

/-- Rows of the geometry operand (R137). -/
def rowsOf (g : Word) : Nat := field g 0 5 + 1

/-- tzero (R137). -/
def tzeroExec (s : State) (c : Nat) (f : FmtT) : VRes :=
  if f.fmt.toNat > 11 ∨ f.mode ≠ 0 ∨ f.flags ≠ 0 ∨ f.rs1 ≠ 0 ∨ f.rs2 ≠ 0 then illegal
  else if !ownsAcc s c f.acc then .exc causeAccNotOwned 0
  else
    let lo := accKey (tileOf c) f.acc 0 0
    .done (ctxNext { s with acc := Cells.drop (fun k => lo ≤ k && k < lo + 1024) s.acc } c)

/-- The spans of a dense or 2:4 tload: element rows, index rows, scale rows (R160, R161). -/
def tloadSpans (fmt mode a stride : Nat) : List Span × List Span × List Span :=
  let row (n w : Nat) : Span := (a + n * stride, w)
  let el := (List.range 32).map (fun r => row r (rowBytes fmt mode))
  if mode = 1 then
    (el, (List.range 8).map (fun j => row (32 + j) 32), (List.range (scaleRows fmt 1)).map (fun j => row (40 + j) 32))
  else (el, [], (List.range (scaleRows fmt 0)).map (fun j => row (32 + j) 32))

/-- The stored rows of a block-sparse record that are present, in order (R162). -/
def presentRows (sub : Nat) : List Nat := (List.range 32).filter (fun r => sub.testBit (r / 8))

/-- tload (R137, R160 to R162). Flags bit 1, of which its entry says nothing, is ignored (log entry 101); the exceptions come
in the order of the tests below (log entry 25). -/
def tloadExec (s : State) (c : Nat) (f : FmtT) : VRes :=
  let fmt := f.fmt.toNat
  let mode := f.mode.toNat
  let g := ctxS s c f.rs2
  let a := (ctxS s c f.rs1).toNat
  let stride := strideOf g
  let b := f.flags.toNat % 2
  let t := tileOf c
  if fmt > 11 ∨ mode > 2 ∨ (mode = 1 ∧ !(fmt ≤ 3 || fmt == 8)) ∨ f.flags.toNat ≥ 4 then illegal
  else if !ownsAcc s c f.acc then .exc causeAccNotOwned 0
  else if a % 32 ≠ 0 ∨ stride % 32 ≠ 0 then .exc causeMisaligned (BitVec.ofNat 64 a)
  else if mode < 2 then
    let (el, ix, sc) := tloadSpans fmt mode a stride
    match tensorFault s c (el ++ ix ++ sc) with
    | some (k, x) => .exc k (BitVec.ofNat 64 x)
    | none =>
      let (ds, bad, s) := tensorRead s c (el ++ ix ++ sc)
      match bad with
      | some x => .parity s (BitVec.ofNat 64 x)
      | none =>
        let w : WBuf :=
          { fmt := fmt, mode := mode, zero := false, sub := 15, rows := ds.take 32, meta24 := (ds.drop 32).take ix.length,
            scales := ds.drop (32 + ix.length) }
        .done (ctxNext (setWbuf s t f.acc b w) c)
  else
    match tensorFault s c [(a, 32)] with
    | some (k, x) => .exc k (BitVec.ofNat 64 x)
    | none =>
      let (hd, bad, s) := tensorRead s c [(a, 32)]
      match bad with
      | some x => .parity s (BitVec.ofNat 64 x)
      | none =>
        let h := hd.headD []
        let sub := leAt h 1 1 % 16
        if leAt h 0 1 % 2 = 0 ∨ sub = 0 then
          .done (ctxNext (setWbuf s t f.acc b { fmt := fmt, mode := 2, zero := true, sub := 0, rows := [] }) c)
        else
          let pr := presentRows sub
          let el := (List.range pr.length).map (fun n => ((a + (1 + n) * stride, rowBytes fmt 2) : Span))
          let sc := (List.range (scaleRows fmt 2)).map (fun j => ((a + (1 + pr.length + j) * stride, 32) : Span))
          match tensorFault s c (el ++ sc) with
          | some (k, x) => .exc k (BitVec.ofNat 64 x)
          | none =>
            let (ds, bad, s) := tensorRead s c (el ++ sc)
            match bad with
            | some x => .parity s (BitVec.ofNat 64 x)
            | none =>
              let rows := (List.range 32).map (fun r =>
                if sub.testBit (r / 8) then ds.getD ((pr.filter (· < r)).length) [] else [])
              .done (ctxNext (setWbuf s t f.acc b
                { fmt := fmt, mode := 2, zero := false, sub := sub, rows := rows, scales := ds.drop pr.length }) c)

/-- tmac (R137, R163, R165 to R169). The exceptions come in the order of the tests below (log entry 25). -/
def tmacExec (s : State) (c : Nat) (f : FmtT) : VRes :=
  let fmt := f.fmt.toNat
  let g := ctxS s c f.rs2
  let a := (ctxS s c f.rs1).toNat
  let stride := strideOf g
  let t := tileOf c
  let w := wbufAt s t f.acc (f.flags.toNat % 2)
  if fmt > 11 ∨ f.mode ≠ 0 ∨ f.flags.toNat ≥ 4 then illegal
  else if !ownsAcc s c f.acc then .exc causeAccNotOwned 0
  else if tIsInt fmt ≠ tIsInt w.fmt then illegal
  else if a % 32 ≠ 0 ∨ stride % 32 ≠ 0 then .exc causeMisaligned (BitVec.ofNat 64 a)
  else
    let k := wbufK w
    let m := rowsOf g
    let rows := (List.range m).map (fun i => ((a + i * stride, k * tWidth fmt / 8) : Span))
    let sc : List Span := if tIsMx fmt then [(a + 32 * stride, k / 32 * m)] else []
    match tensorFault s c (rows ++ sc) with
    | some (e, x) => .exc e (BitVec.ofNat 64 x)
    | none =>
      if w.zero then .done (ctxNext s c)
      else
        let (ds, bad, s) := tensorRead s c (rows ++ sc)
        match bad with
        | some x => .parity s (BitVec.ofNat 64 x)
        | none =>
          let scv := (ds.getD m []).map (·.toNat)
          let acc := (List.range m).foldl (fun acc i =>
            let row : ActRow := { fmt := fmt, codes := (List.range k).map (strElem (ds.getD i []) (tWidth fmt)),
                                  scales := (scv.drop (k / 32 * i)).take (k / 32) }
            (List.range 32).foldl (fun acc n =>
              let key := accKey t f.acc i n
              Cells.put (fun _ => 0) acc key
                (BitVec.ofNat 32 (macElem row w n (Cells.get (fun _ => (0 : BitVec 32)) acc key).toNat))) acc) s.acc
          .done (ctxNext { s with acc := acc } c)

/-- tstore (R137, R164, R172 to R176). Flags bit 1 is ignored as for tload (log entry 101); the exceptions come in the order of
the tests below (log entry 25); where the scale bytes and rows of an MX store overlap, the scale bytes are written last
(log entry 102), and CTX_BADADDR names the bad word that their merge meets (log entry 99). -/
def tstoreExec (s : State) (c : Nat) (f : FmtT) : VRes :=
  let fmt := f.fmt.toNat
  let mode := f.mode.toNat
  let g := ctxS s c f.rs2
  let a := (ctxS s c f.rs1).toNat
  let stride := strideOf g
  let t := tileOf c
  if fmt > 13 ∨ mode > 2 ∨ (mode = 2 ∧ tIsInt fmt) ∨ f.flags.toNat % 2 = 1 ∨ f.flags.toNat ≥ 8 then illegal
  else if !ownsAcc s c f.acc then .exc causeAccNotOwned 0
  else if a % 32 ≠ 0 ∨ stride % 32 ≠ 0 then .exc causeMisaligned (BitVec.ofNat 64 a)
  else
    let m := rowsOf g
    let sat := f.flags.toNat / 4 % 2 = 1
    let conv := (List.range m).map (fun i =>
      convertRow fmt mode sat (storeDraw (ctxV s c 31) (field g 32 32) i)
        ((List.range 32).map (fun n => (accAt s t f.acc i n).toNat)))
    let rows := conv.zipIdx.map (fun p => (a + p.2 * stride, strOf (tWidth fmt) p.1.1))
    let scs : List (Nat × List Byte) :=
      if tIsMx fmt then [(a + 32 * stride, conv.map (fun p => BitVec.ofNat 8 (p.2.getD 0)))] else []
    match tensorFault s c ((rows ++ scs).map (fun p => (p.1, p.2.length))) with
    | some (e, x) => .exc e (BitVec.ofNat 64 x)
    | none =>
      match scs.findSome? (fun p => ((partWords (ownTile c + p.1) p.2.length).filter
          (fun w => Cells.get (fun _ => false) s.badPar w)).head?) with
      | some w => .parity (recordBadWord s (tileMaster c) 2 w) (BitVec.ofNat 64 (w * 4 - ownTile c))
      | none =>
        .done (ctxNext ((rows ++ scs).foldl (fun s p =>
          (memWrite s (tileMaster c) 2 (ownTile c + p.1) p.2 false).st) s) c)

/-! ## Engines, counters, control -/

/-- The unit an enq names (R142). -/
def enqUnit (c cls inst : Nat) : Option EngUnit :=
  let d := tileOf c / 128
  match cls with
  | 0 => if inst = 0 then some (.dma (stookOf c)) else none
  | 1 => if inst = 0 then some (.thresher (stookOf c)) else none
  | 2 => if inst = 0 then some (.baler d) else none
  | 3 => if inst = 0 then some (.perm d) else none
  | 4 => if inst = 0 then some (.token d) else none
  | 5 => if inst < 4 then some (.stream (4 * d + inst)) else none
  | 7 => if inst < 2 then some (.furrow inst) else none
  | 8 => if inst = 0 then some (.pool d) else none
  | _ => none

/-- enq (R142, R143). -/
def enqExec (s : State) (c : Nat) (f : FmtI) : VRes :=
  if f.imm.toNat ≥ 256 then illegal
  else
    match enqUnit c (f.imm.toNat % 16) (f.imm.toNat / 16) with
    | none => .exc causeEngineClass 0
    | some u =>
      let a := (ctxS s c f.rs1).toNat
      if a % 64 ≠ 0 then .exc causeMisaligned (BitVec.ofNat 64 a)
      else if a ≥ 2 ^ 52 then .exc causeAddress (BitVec.ofNat 64 a)
      else
        (ctxRead s c a 64).andThen fun d s1 =>
          let n := 64 * (leAt d 5 1 % 4 + 1)
          (if n = 64 then AccRes.ok d s1 else ctxRead s c a n).andThen fun d s =>
            let d := putAt d 4 (leBytes 1 (s.fld Fld.CTX_CTL_JOB c))
            if !counterValid (leAt d 6 2) then .exc causeCounterInvalid 0
            else if queueFull s u d then .done (ctxNext (setCtxS s c f.rd 0x03) c)
            else .done (ctxNext (setCtxS (enqueueJob s u d (some c)) c f.rd 0) c)

/-- The counter name and target of a waitc, if the name is valid. -/
def waitName (a : Word) : Option Nat := if a.toNat < 65536 ∧ counterValid a.toNat then some a.toNat else none

/-- waitc on a context (R144). -/
def waitcExec (s : State) (c : Nat) (f : FmtR) : VRes :=
  if f.rd ≠ 0 ∨ f.z ≠ 0 then illegal
  else
    match waitName (ctxS s c f.rs1) with
    | none => .exc causeCounterInvalid 0
    | some n =>
      let t := (ctxS s c f.rs2).toNat
      if t ≤ counterVal s n then .done (ctxNext s c)
      else .done (setCtx s c { ctxAt s c with st := .waiting, wait := some (.counter n t) })

/-- The contexts of a stook that wait at a barrier. -/
def barWaiters (s : State) (k id : Nat) : List Nat :=
  ((List.range 32).map (· + 32 * k)).filter (fun c =>
    (ctxAt s c).st == .waiting && (ctxAt s c).wait == some (.barrier id))

/-- bar (R151). -/
def barExec (s : State) (c : Nat) (f : FmtI) : VRes :=
  if f.rd ≠ 0 ∨ f.imm.toNat ≥ 8 then illegal
  else
    let mask := (ctxS s c f.rs1).toNat % 2 ^ 32
    if !mask.testBit (c % 32) then .done (ctxNext s c)
    else
      let k := stookOf c
      let key := k * 8 + f.imm.toNat
      let b := Cells.get (fun _ => ({} : Barrier)) s.bar key
      let fixed := if b.mask = 0 then mask else b.mask
      let arr := b.arrived ||| 2 ^ (c % 32)
      if fixed &&& arr = fixed then
        let s1 := (barWaiters s k f.imm.toNat).foldl (fun s w =>
          setCtx s w { ctxAt s w with st := .running, wait := none, pc := (ctxAt s w).pc + 4 }) s
        .done (ctxNext { s1 with bar := Cells.put (fun _ => {}) s1.bar key {} } c)
      else
        let s1 := { s with bar := Cells.put (fun _ => {}) s.bar key ⟨fixed, arr⟩ }
        .done (setCtx s1 c { ctxAt s1 c with st := .waiting, wait := some (.barrier f.imm.toNat) })

/-- csrr on a context (R112, R152). -/
def csrrExec (s : State) (c : Nat) (f : FmtI) : VRes :=
  let ret (v : Word) : VRes := .done (ctxNext (setCtxS s c f.rd v) c)
  if f.rs1 ≠ 0 then illegal
  else
    match f.imm.toNat with
    | 0x000 => let (v, s) := s.fresh 64; .done (ctxNext (setCtxS s c f.rd v) c)
    | 0x001 => ret (BitVec.ofNat 64 c)
    | 0x002 => ret (BitVec.ofNat 64 (s.fld Fld.CTX_CTL_JOB c))
    | 0x003 => ret (if hwSlicing s c then BitVec.ofNat 64 (s.fld Fld.CTX_SLICE_CUR c) else 0)
    | 0x010 => ret 0
    | 0x011 => ret 0
    | 0x012 => ret (BitVec.ofNat 64 (ctxAt s c).attempt)
    | 0x020 => ret 0
    | _ => illegal

/-- STEPMARK (R87): the mark, the attempt count and the outstanding jobs of the step. -/
def stepMark (s : State) (c : Nat) : State :=
  let x := ctxAt s c
  setCtx s c { x with mark := some ⟨x.pc + 4, (List.range 15).map (fun i => Cells.get (fun _ => 0) x.s (i + 1))⟩,
                      attempt := 0, out := [] }

/-- csrw on a context (R112, R152). Of a value written to STEPREPLAY or SWIRQ bit 0 decides: R112 gives 1, and 0 for
STEPREPLAY (the model's choice for other values, log entry 103). -/
def csrwExec (s : State) (c : Nat) (f : FmtI) : VRes :=
  let v := ctxS s c f.rs1
  if f.rd ≠ 0 then illegal
  else
    match f.imm.toNat with
    | 0x000 | 0x001 | 0x002 | 0x003 | 0x012 => .done (ctxNext s c)
    | 0x010 => .done (ctxNext (stepMark s c) c)
    | 0x011 => if v.getLsbD 0 then (let (a, s) := s.fresh 64; .parity s a) else .done (ctxNext s c)
    | 0x020 => .done (ctxNext (if v.getLsbD 0 then setStookPend s c else s) c)
    | _ => illegal

/-- halt (R98, R102, R152): the PC is at the next instruction; under hardware slicing the quantum ends. -/
def haltExec (s : State) (c : Nat) : State :=
  let s := stopCtx (ctxNext s c) c causeHalt 0
  if hwSlicing s c then setCtx s c { ctxAt s c with quantumEnd := true } else s

/-- A scalar memory instruction on a context. -/
def ctxMem (s : State) (c len : Nat) : MemOp → VRes
  | .illegal => illegal
  | .load k rd a =>
    if a.toNat % k.size ≠ 0 then .exc causeMisaligned a
    else (ctxRead s c a.toNat k.size).andThen fun d s =>
      .done (setCtxPc (setCtxS s c rd (k.extend d)) c ((ctxAt s c).pc + BitVec.ofNat 64 len))
  | .store n v a =>
    if a.toNat % n ≠ 0 then .exc causeMisaligned a
    else (ctxWrite s c a.toNat (leBytes n v.toNat)).andThen fun _ s =>
      .done (setCtxPc s c ((ctxAt s c).pc + BitVec.ofNat 64 len))

/-- The effect of an instruction on a context. -/
def ctxExec (s : State) (c : Nat) (op : VOp) : VRes :=
  match scalarEff (ctxS s c) (ctxAt s c).pc op with
  | some (.set rd v npc) => .done (setCtxPc (setCtxS s c rd v) c npc)
  | some (.jump npc) => .done (setCtxPc s c npc)
  | some (.exc k a) => .exc k a
  | none =>
    match memOp (ctxS s c) op with
    | some m => ctxMem s c op.len m
    | none =>
      match op with
      | .varith _ f | .vcmp _ f | .vmov f | .vsel f | .vbcast f | .vext f | .vins f | .vperm f | .vcvt f | .vred f
      | .vidx f | .troute f | .scree f =>
        match vtypeOf f.ty.toNat with
        | some t => vecExec s c t f op
        | none => illegal
      | .pred o f => predExec s c o f
      | .vld f => vecMem s c f false
      | .vst f => vecMem s c f true
      | .vlds f => gatherMem s c f (some (ctxS s c f.vs2)) false
      | .vgather f => gatherMem s c f none false
      | .vscatter f => gatherMem s c f none true
      | .vlut f => vlutExec s c f
      | .perm f => permExec s c f
      | .tzero f => tzeroExec s c f
      | .tload f => tloadExec s c f
      | .tmac f => tmacExec s c f
      | .tstore f => tstoreExec s c f
      | .enq f => enqExec s c f
      | .waitc f => waitcExec s c f
      | .csrr f => csrrExec s c f
      | .csrw f => csrwExec s c f
      | .fence rd rs1 => if rd ≠ 0 ∨ rs1 ≠ 0 then illegal else .done (ctxNext s c)
      | .fenceI rd rs1 => if rd ≠ 0 ∨ rs1 ≠ 0 then illegal else .done (ctxNext (dropFetched s c) c)
      | .bar f => barExec s c f
      | .yield rd rs1 =>
        if rd ≠ 0 ∨ rs1 ≠ 0 then illegal
        else
          let s := ctxNext s c
          .done (if hwSlicing s c then setCtx s c { ctxAt s c with quantumEnd := true } else s)
      | .halt rd rs1 => if rd ≠ 0 ∨ rs1 ≠ 0 then illegal else .done (haltExec s c)
      | _ => illegal

/-! ## Breakpoints (R509) -/

/-- Does a comparator match an access: enabled, its KIND covers the access (0 issue, 1 loads, 2 stores, 3 both), the
context is watched, and the address lies in its block? -/
def bpMatch (b : Bp) (kinds : List Nat) (ctxBit : Option Nat) (a : Nat) : Bool :=
  let r := field b.ctl 8 6
  let r := if 2 ≤ r ∧ r ≤ 20 then r else 2
  b.ctl.getLsbD 0 && kinds.contains (field b.ctl 1 2) && ctxBit.elim true (fun i => b.ctl.getLsbD (4 + i))
    && b.addr.toNat / 2 ^ r == a / 2 ^ r

/-- Does any comparator of a target match one of the addresses? -/
def bpHit (s : State) (target : Nat) (kinds : List Nat) (ctxBit : Option Nat) (as : List Nat) : Bool :=
  [0, 1, 2, 3].any (fun k => as.any (bpMatch (bpAt s target k) kinds ctxBit))

/-- The addresses that a scalar or vector memory instruction of a context accesses, by active lane, and whether it
stores; an undefined form accesses none. -/
def watched (s : State) (c : Nat) (op : VOp) : Bool × List Nat :=
  let lanes (f : FmtV) (stride : Option Word) : List Nat :=
    ((List.range 32).filter (fun i => f.ty == 0 && (ctxP s c f.pg).getLsbD i)).map
      (laneAddr (ctxS s c f.vs1) stride (ctxV s c f.vs2))
  let vm (f : FmtVM) : List Nat :=
    ((List.range 32).filter (fun i => (ctxP s c f.pg).getLsbD i)).map (fun i => vmAddr s c f + 4 * i)
  match memOp (ctxS s c) op with
  | some (.load _ _ a) => (false, [a.toNat])
  | some (.store _ _ a) => (true, [a.toNat])
  | _ =>
    match op with
    | .vld f => (false, vm f)
    | .vst f => (true, vm f)
    | .vlds f => (false, lanes f (some (ctxS s c f.vs2)))
    | .vgather f => (false, lanes f none)
    | .vscatter f => (true, lanes f none)
    | _ => (false, [])

/-- Do the load and store comparators match the instruction? -/
def watchHit (s : State) (c : Nat) (op : VOp) : Bool :=
  let (st, as) := watched s c op
  !as.isEmpty && bpHit s (tileOf c) (if st then [2, 3] else [1, 3]) (some (c % 4)) as

/-! ## Issue -/

/-- The outcome of the fetch of an instruction (R84, R90, R117). -/
inductive FetchRes where
  | ok
  | exc (cause a : Nat)
  | bad (s : State) (a : Nat)
  deriving DecidableEq

/-- Fetch `n` bytes at the PC: in the tile's own SRAM, in the window, with good parity, as the context fetches them (R150). -/
def fetchCheck (s : State) (c pc n : Nat) : FetchRes :=
  if pc + 4 > 0x100000 then .exc causeAddress pc
  else if !inTileWin s c pc 4 then .exc causeWindow pc
  else if pc + n > 0x100000 then .exc causeAddress (pc + 4)
  else if !inTileWin s c pc n then .exc causeWindow (pc + 4)
  else
    match ((List.range (n / 4)).map (· + pc / 4)).find? (fetchBad s c) with
    | none => .ok
    | some w => .bad (recordBadWord s (tileMaster c) 0 (ownTile c / 4 + w)) (4 * w)

/-- Execute an instruction of a context whose fetch has succeeded. -/
def ctxRun (s : State) (c : Nat) (op : VOp) : State :=
  let x := ctxAt s c
  let s1 := setCtx s c { x with skipBp := false, reread := 0 }
  match ctxExec s1 c op with
  | .done s' => s'
  | .exc k a => stopCtx s1 c k a
  | .parity s' a => failedRead s' c a
  | .stall s' => setCtx s' c { ctxAt s' c with skipBp := x.skipBp }

/-- May the context issue (R80, R94, R102)? -/
def canIssue (s : State) (c : Nat) : Bool :=
  let x := ctxAt s c
  x.st == .running && !x.stopReq && x.reread != 1 && !(x.quantumEnd && hwSlicing s c)

/-- Issue one instruction of a context (R117, R123, R509). -/
def ctxIssue (s : State) (c : Nat) (op : VOp) : State :=
  let x := ctxAt s c
  if !canIssue s c then s
  else
    match fetchCheck s c x.pc.toNat op.len with
    | .exc k a => stopCtx s c k (BitVec.ofNat 64 a)
    | .bad s a =>
      if x.reread = 2 ∧ x.failAddr.toNat / 128 = a / 128 then stopCtx s c causeParity (BitVec.ofNat 64 a)
      else setCtx s c { ctxAt s c with reread := 1, failAddr := BitVec.ofNat 64 a }
    | .ok =>
      if (!x.skipBp && bpHit s (tileOf c) [0] (some (c % 4)) [x.pc.toNat]) || watchHit s c op then matchCtx s c
      else ctxRun s c op

/-! ## Management cores (R153 to R155) -/

/-- The master ID of a core. -/
def mcMaster (k : Nat) : Nat := 0x10 + k

/-- A trap (R155): EPC, ECAUSE and EBADADDR, PREV takes ENABLE, ENABLE is cleared, the PC goes to TVEC. -/
def mcTrap (s : State) (k cause : Nat) (epc bad : Word) : State :=
  let y := mcAt s k
  setMc s k { y with epc := epc, ecause := cause, ebadaddr := bad, ie := 2 * (y.ie % 2), pc := y.tvec, waiting := none }

/-- Instructions of the scalar-only profile (R153). -/
def inProfile : VOp → Bool
  | .alu .. | .aluI .. | .load .. | .store .. | .liL _ | .lih _ | .addiL _ | .jalL _ | .loadL .. | .storeL ..
  | .branch .. | .jal _ | .jalr _ | .waitc _ | .csrr _ | .csrw _ | .fence .. | .fenceI .. | .yield .. | .halt .. | .eret .. => true
  | _ => false

/-- The result of an instruction on a core. -/
inductive McRes where
  | done (s : State)
  | exc (cause : Nat) (a : Word)
  | stall (s : State)

/-- Where a core's data address leads (R154): private SRAM, the global window, or a fault. -/
inductive McPlace where
  | sram
  | global (p : Nat)
  | fault

/-- Decode a core-local address. -/
def mcPlace (a n : Nat) : McPlace :=
  if a + n ≤ 0x40000 then .sram else if 2 ^ 52 ≤ a ∧ a < 2 ^ 53 then .global (a - 2 ^ 52) else .fault

/-- A scalar memory instruction on a core. A poisoned read returns a free value (no rule gives it; log entry 9), and a store
of fewer than 32 bits into an SRAM word of bad parity writes nothing and goes on (log entry 104). -/
def mcMemOp (s : State) (k len : Nat) (m : MemOp) : McRes :=
  let next (s : State) : State := let y := mcAt s k; setMc s k { y with pc := y.pc + BitVec.ofNat 64 len }
  match m with
  | .illegal => .exc causeIllegal 0
  | .load kd rd a =>
    if a.toNat % kd.size ≠ 0 then .exc causeMisaligned a
    else
      match mcPlace a.toNat kd.size with
      | .fault => .exc causeAddress a
      | .sram =>
        let bs := (List.range kd.size).map (fun i => Cells.get (fun _ => 0) s.mcMem (k * 0x40000 + a.toNat + i))
        .done (next (setMcS s k rd (kd.extend bs)))
      | .global p =>
        match prepare s (mcMaster k) [(p, kd.size)] [] with
        | .stall s => .stall s
        | .go =>
          let r := busRead s (mcMaster k) 3 p kd.size
          let (f, s1) := r.st.fresh 64
          let (v, s) := if r.bad then (f, s1) else (kd.extend r.data, r.st)
          .done (next (setMcS (dropHost s (mcMaster k)) k rd v))
  | .store n v a =>
    if a.toNat % n ≠ 0 then .exc causeMisaligned a
    else
      match mcPlace a.toNat n with
      | .fault => .exc causeAddress a
      | .sram =>
        let mm := (leBytes n v.toNat).zipIdx.foldl (fun m e =>
          Cells.put (fun _ => 0) m (k * 0x40000 + a.toNat + e.2) e.1) s.mcMem
        .done (next { s with mcMem := mm })
      | .global p =>
        match prepare s (mcMaster k) [] [(p, n)] with
        | .stall s => .stall s
        | .go => .done (next (dropHost (busWrite s (mcMaster k) 3 p (leBytes n v.toNat)).st (mcMaster k)))

/-- The effect of an instruction on a core. EPC keeps bits [1:0] as csrw wrote them, and eret clears them in the PC
(log entry 105). -/
def mcExec (s : State) (k : Nat) (op : VOp) : McRes :=
  let y := mcAt s k
  let next (s : State) : State := let y := mcAt s k; setMc s k { y with pc := y.pc + 4 }
  if !inProfile op then .exc causeIllegal 0
  else
    match scalarEff (mcS s k) y.pc op with
    | some (.set rd v npc) => let s := setMcS s k rd v; .done (setMc s k { mcAt s k with pc := npc })
    | some (.jump npc) => .done (setMc s k { y with pc := npc })
    | some (.exc c a) => .exc c a
    | none =>
      match memOp (mcS s k) op with
      | some m => mcMemOp s k op.len m
      | none =>
        match op with
        | .waitc f =>
          if f.rd ≠ 0 ∨ f.z ≠ 0 then .exc causeIllegal 0
          else
            match waitName (mcS s k f.rs1) with
            | none => .exc causeCounterInvalid 0
            | some n =>
              let t := (mcS s k f.rs2).toNat
              if t ≤ counterVal s n then .done (next s) else .done (setMc s k { y with waiting := some (n, t) })
        | .csrr f =>
          if f.rs1 ≠ 0 then .exc causeIllegal 0
          else
            match mcCsr s k f.imm.toNat with
            | some (v, s) => .done (next (setMcS s k f.rd v))
            | none => .exc causeIllegal 0
        | .csrw f =>
          if f.rd ≠ 0 then .exc causeIllegal 0
          else
            match setMcCsr s k f.imm.toNat (mcS s k f.rs1) with
            | some s => .done (next s)
            | none => .exc causeIllegal 0
        | .fence rd rs1 | .fenceI rd rs1 | .yield rd rs1 => if rd ≠ 0 ∨ rs1 ≠ 0 then .exc causeIllegal 0 else .done (next s)
        | .halt rd rs1 => if rd ≠ 0 ∨ rs1 ≠ 0 then .exc causeIllegal 0 else .exc causeHalt 0
        | .eret rd rs1 =>
          if rd ≠ 0 ∨ rs1 ≠ 0 then .exc causeIllegal 0
          else .done (setMc s k { y with pc := y.epc &&& ~~~3#64, ie := y.ie / 2 % 2 + 2 * (y.ie / 2 % 2) })
        | _ => .exc causeIllegal 0

/-- The addresses a core's instruction watches. -/
def mcWatchHit (s : State) (k : Nat) (op : VOp) : Bool :=
  match memOp (mcS s k) op with
  | some (.load _ _ a) => bpHit s (512 + k) [1, 3] none [a.toNat]
  | some (.store _ _ a) => bpHit s (512 + k) [2, 3] none [a.toNat]
  | _ => false

/-- EBADADDR follows the rule of `CTX_BADADDR` (R98, R154). -/
def mcBad (cause : Nat) (a : Word) : Word :=
  if cause = 2 ∨ cause = 3 ∨ cause = 4 ∨ cause = 6 ∨ cause = 8 then a else 0

/-- Execute an instruction of a core that may issue. It fetches from its private SRAM alone; a PC elsewhere, the global
window included, faults (log entry 106). -/
def mcRun (s : State) (k : Nat) (op : VOp) : State :=
  let y := mcAt s k
  let s1 := setMc s k { y with skipBp := false }
  if y.pc.toNat + op.len > 0x40000 then mcTrap s1 k causeAddress y.pc (if y.pc.toNat + 4 > 0x40000 then y.pc else y.pc + 4)
  else
    match mcExec s1 k op with
    | .done s' => s'
    | .exc c a => mcTrap s1 k c y.pc (mcBad c a)
    | .stall s' => setMc s' k { mcAt s' k with skipBp := y.skipBp }

/-- Issue one instruction of a management core. -/
def mcIssue (s : State) (k : Nat) (op : VOp) : State :=
  let y := mcAt s k
  if y.inReset ∨ y.held ∨ y.waiting.isSome then s
  else if (!y.skipBp && bpHit s (512 + k) [0] none [y.pc.toNat]) || mcWatchHit s k op then matchMc s k
  else mcRun s k op

/-- MC_TRAP: the controller's output for core `k` (target `k` + 2, R422) traps the core while `IE.ENABLE` is 1; EPC is
the next instruction, a waiting waitc itself (R144, R155). ECAUSE is 0x80. -/
def execMcTrap (k : Fin 4) (s : State) : Host.Outcome State Fault Refusal :=
  let y := mcAt s k
  if y.inReset ∨ y.held ∨ y.ie % 2 = 0 ∨ !outputOf s (k.val + 2) then .next s
  else .next (mcTrap s k 0x80 y.pc 0)

end Sys2Proof.Machine
end

