-- ==== Sys2Proof/Machine/Encoding.lean ====
section
/-!
DEFINITION. The instruction encodings of R117 to R119: from an instruction word, and the second word of a long form, to
the instruction's form, and back. A debug step decodes what it executes with it (R508).
-/
namespace Sys2Proof.Machine

/-- A five-bit field. -/
def reg5 (w lo : Nat) : RegNum := Fin.ofNat 32 (bits w lo 5)

/-- R format (R118). -/
def fmtR (w : Nat) : FmtR := ⟨reg5 w 21, reg5 w 16, reg5 w 11, BitVec.ofNat 5 (bits w 6 5)⟩

/-- I format (R118). -/
def fmtI (w : Nat) : FmtI := ⟨reg5 w 21, reg5 w 16, BitVec.ofNat 16 w⟩

/-- S format (R118). -/
def fmtS (w : Nat) : FmtS := ⟨reg5 w 21, reg5 w 16, BitVec.ofNat 16 w⟩

/-- B format (R118). -/
def fmtB (w : Nat) : FmtB := ⟨reg5 w 21, reg5 w 16, BitVec.ofNat 16 w⟩

/-- J format (R118). -/
def fmtJ (w : Nat) : FmtJ := ⟨reg5 w 21, BitVec.ofNat 21 w⟩

/-- VM format (R118). -/
def fmtVM (w : Nat) : FmtVM := ⟨reg5 w 21, reg5 w 16, Fin.ofNat 8 (bits w 13 3), BitVec.ofNat 13 w⟩

/-- V format (R118). -/
def fmtV (w : Nat) : FmtV :=
  ⟨reg5 w 21, reg5 w 16, reg5 w 11, Fin.ofNat 8 (bits w 8 3), BitVec.ofNat 4 (bits w 4 4)⟩

/-- T format (R118); bits [25:21] hold acc and op. -/
def fmtT (w : Nat) : FmtT :=
  ⟨Fin.ofNat 4 (bits w 24 2), reg5 w 16, reg5 w 11, BitVec.ofNat 4 (bits w 7 4), BitVec.ofNat 3 (bits w 4 3),
    BitVec.ofNat 4 w⟩

/-- L format (R118): word 0 and the immediate of word 1. -/
def fmtL (w imm : Nat) : FmtL := ⟨reg5 w 21, reg5 w 16, BitVec.ofNat 8 w, BitVec.ofNat 32 imm⟩

/-- The loads in major and lop order from 0x10 (R126, R127). -/
def loadKind (n : Nat) : Option LoadKind :=
  match n with
  | 0 => some ⟨1, true⟩
  | 1 => some ⟨1, false⟩
  | 2 => some ⟨2, true⟩
  | 3 => some ⟨2, false⟩
  | 4 => some ⟨4, true⟩
  | 5 => some ⟨4, false⟩
  | 6 => some ⟨8, true⟩
  | _ => none

/-- Major 0x00 (R124). -/
def aluOf (n : Nat) : Option AluR :=
  match n with
  | 0x00 => some .add
  | 0x01 => some .sub
  | 0x02 => some .and
  | 0x03 => some .or
  | 0x04 => some .xor
  | 0x05 => some .sll
  | 0x06 => some .srl
  | 0x07 => some .sra
  | 0x08 => some .slt
  | 0x09 => some .sltu
  | 0x0A => some .min
  | 0x0B => some .max
  | 0x0C => some .minu
  | 0x0D => some .maxu
  | 0x10 => some .mul
  | 0x11 => some .mulh
  | 0x12 => some .mulhu
  | 0x13 => some .div
  | 0x14 => some .divu
  | 0x15 => some .rem
  | 0x16 => some .remu
  | 0x18 => some .clz
  | 0x19 => some .ctz
  | 0x1A => some .popc
  | _ => none

/-- Majors 0x01 to 0x0B (R125). -/
def aluIOf (n : Nat) : Option AluI :=
  match n with
  | 0x01 => some .addi
  | 0x02 => some .andi
  | 0x03 => some .ori
  | 0x04 => some .xori
  | 0x05 => some .slli
  | 0x06 => some .srli
  | 0x07 => some .srai
  | 0x08 => some .slti
  | 0x09 => some .sltiu
  | 0x0A => some .lui
  | 0x0B => some .apc
  | _ => none

/-- Majors 0x20 to 0x25 (R128). -/
def branchOf (n : Nat) : BrOp :=
  match n with
  | 0x20 => .eq
  | 0x21 => .ne
  | 0x22 => .lt
  | 0x23 => .ge
  | 0x24 => .ltu
  | _ => .geu

/-- Major 0x28 (R130). -/
def varithOf (n : Nat) : VArith :=
  match n with
  | 0x0 => .add
  | 0x1 => .sub
  | 0x2 => .mul
  | 0x3 => .fma
  | 0x4 => .min
  | 0x5 => .max
  | 0x6 => .and
  | 0x7 => .or
  | 0x8 => .xor
  | 0x9 => .sll
  | 0xA => .srl
  | 0xB => .sra
  | 0xC => .abs
  | 0xD => .neg
  | 0xE => .div
  | _ => .sqrt

/-- Major 0x2A (R133). -/
def predOpOf (n : Nat) : Option PredOp :=
  match n with
  | 0x0 => some .and
  | 0x1 => some .or
  | 0x2 => some .xor
  | 0x3 => some .andn
  | 0x4 => some .not
  | 0x5 => some .set
  | 0x6 => some .get
  | _ => none

/-- Major 0x2B (R134); vcvt has its source type in bits [14:11] and bit 15 zero. -/
def moveOf (n : Nat) (f : FmtV) : VOp :=
  match n with
  | 0x0 => .vmov f
  | 0x1 => .vsel f
  | 0x2 => .vbcast f
  | 0x3 => .vext f
  | 0x4 => .vins f
  | 0x5 => .vperm f
  | 0x6 => .vcvt f
  | 0x7 => .vred f
  | 0x8 => .vidx f
  | _ => .undefined

/-- The long forms (R127). Major 0x3F with a lop that R127 does not list is taken as one word, so that it stops with
ILLEGAL_INSTRUCTION wherever a second word would lie (R117 and R119 both apply; the model's choice, log entry 127). -/
def longOf (lop : Nat) (f : FmtL) : VOp :=
  match lop with
  | 0x01 => .liL f
  | 0x02 => .lih f
  | 0x03 => .addiL f
  | 0x04 => .jalL f
  | 0x18 => .storeL 1 f
  | 0x19 => .storeL 2 f
  | 0x1A => .storeL 4 f
  | 0x1B => .storeL 8 f
  | n => if 0x10 ≤ n then (loadKind (n - 0x10)).elim .undefined (.loadL · f) else .undefined

/-- The instruction that an instruction word and the word after it encode (R118, R119). -/
def decodeV (w imm : Nat) : VOp :=
  let m := bits w 26 6
  let fn := bits w 0 4
  match m with
  | 0x00 => (aluOf (bits w 0 6)).elim .undefined (.alu · (fmtR w))
  | 0x18 => .store 1 (fmtS w)
  | 0x19 => .store 2 (fmtS w)
  | 0x1A => .store 4 (fmtS w)
  | 0x1B => .store 8 (fmtS w)
  | 0x1C => .vld (fmtVM w)
  | 0x1D => .vst (fmtVM w)
  | 0x1E => match fn with
    | 0 => .vlds (fmtV w)
    | 1 => .vgather (fmtV w)
    | 2 => .vscatter (fmtV w)
    | _ => .undefined
  | 0x20 | 0x21 | 0x22 | 0x23 | 0x24 | 0x25 => .branch (branchOf m) (fmtB w)
  | 0x26 => .jal (fmtJ w)
  | 0x27 => .jalr (fmtI w)
  | 0x28 => .varith (varithOf fn) (fmtV w)
  | 0x29 => .vcmp fn (fmtV w)
  | 0x2A => (predOpOf fn).elim .undefined (.pred · (fmtV w))
  | 0x2B => moveOf fn (fmtV w)
  | 0x2C => match fn with
    | 0 => .troute (fmtV w)
    | 1 => .vlut (fmtV w)
    | _ => .undefined
  | 0x2D => if fn = 0 then .scree (fmtV w) else .undefined
  | 0x2E => if bits w 0 6 = 0 then .perm (fmtR w) else .undefined
  | 0x30 => match bits w 21 3 with
    | 0 => .tzero (fmtT w)
    | 1 => .tload (fmtT w)
    | 2 => .tmac (fmtT w)
    | 3 => .tstore (fmtT w)
    | _ => .undefined
  | 0x32 => .enq (fmtI w)
  | 0x33 => if bits w 0 6 = 0 then .waitc (fmtR w) else .undefined
  | 0x34 => .csrr (fmtI w)
  | 0x35 => .csrw (fmtI w)
  | 0x36 => match bits w 0 16 with
    | 0 => .fence (reg5 w 21) (reg5 w 16)
    | 1 => .fenceI (reg5 w 21) (reg5 w 16)
    | _ => .undefined
  | 0x37 => .bar (fmtI w)
  | 0x38 => match bits w 0 16 with
    | 0 => .yield (reg5 w 21) (reg5 w 16)
    | 1 => .halt (reg5 w 21) (reg5 w 16)
    | 2 => .eret (reg5 w 21) (reg5 w 16)
    | _ => .undefined
  | 0x3F => longOf (bits w 8 8) (fmtL w imm)
  | n =>
    match aluIOf n with
    | some o => .aluI o (fmtI w)
    | none => if 0x10 ≤ n then (loadKind (n - 0x10)).elim .undefined (.load · (fmtI w)) else .undefined

/-! ## The words of an instruction -/

/-- R format: major, function code in the low six bits. -/
def joinR (m fn : Nat) (f : FmtR) : Nat :=
  m * 2 ^ 26 + f.rd.val * 2 ^ 21 + f.rs1.val * 2 ^ 16 + f.rs2.val * 2 ^ 11 + f.z.toNat * 2 ^ 6 + fn

/-- I format. -/
def joinI (m : Nat) (f : FmtI) : Nat := m * 2 ^ 26 + f.rd.val * 2 ^ 21 + f.rs1.val * 2 ^ 16 + f.imm.toNat

/-- S format. -/
def joinS (m : Nat) (f : FmtS) : Nat := m * 2 ^ 26 + f.rs2.val * 2 ^ 21 + f.rs1.val * 2 ^ 16 + f.imm.toNat

/-- B format. -/
def joinB (m : Nat) (f : FmtB) : Nat := m * 2 ^ 26 + f.rs1.val * 2 ^ 21 + f.rs2.val * 2 ^ 16 + f.off.toNat

/-- VM format. -/
def joinVM (m : Nat) (f : FmtVM) : Nat :=
  m * 2 ^ 26 + f.v.val * 2 ^ 21 + f.rs1.val * 2 ^ 16 + f.pg.val * 2 ^ 13 + f.imm.toNat

/-- V format: function code in the low four bits. -/
def joinV (m fn : Nat) (f : FmtV) : Nat :=
  m * 2 ^ 26 + f.vd.val * 2 ^ 21 + f.vs1.val * 2 ^ 16 + f.vs2.val * 2 ^ 11 + f.pg.val * 2 ^ 8 + f.ty.toNat * 2 ^ 4 + fn

/-- T format: accumulator and operation in bits [25:21]. -/
def joinT (op : Nat) (f : FmtT) : Nat :=
  0x30 * 2 ^ 26 + f.acc.val * 2 ^ 24 + op * 2 ^ 21 + f.rs1.val * 2 ^ 16 + f.rs2.val * 2 ^ 11 + f.fmt.toNat * 2 ^ 7
    + f.mode.toNat * 2 ^ 4 + f.flags.toNat

/-- L format: word 0 with the long operation in bits [15:8], and word 1. -/
def joinL (lop : Nat) (f : FmtL) : Nat × Nat :=
  (0x3F * 2 ^ 26 + f.rd.val * 2 ^ 21 + f.rs1.val * 2 ^ 16 + lop * 2 ^ 8 + f.z.toNat, f.imm.toNat)

/-- Two registers and a code of 16 bits. -/
def joinSys (m fn : Nat) (rd rs1 : RegNum) : Nat := m * 2 ^ 26 + rd.val * 2 ^ 21 + rs1.val * 2 ^ 16 + fn

/-- A load's place after 0x10 (R126, R127). -/
def loadCode (k : LoadKind) : Nat :=
  (match k.size with
   | 1 => 0
   | 2 => 2
   | 4 => 4
   | _ => 6) + (if k.signed then 0 else 1)

/-- A store's place after 0x18 (R126, R127). -/
def storeCode (n : Nat) : Nat :=
  match n with
  | 1 => 0
  | 2 => 1
  | 4 => 2
  | _ => 3

/-- The code of an operation of major 0x00 (R124). -/
def aluCode : AluR → Nat
  | .add => 0x00
  | .sub => 0x01
  | .and => 0x02
  | .or => 0x03
  | .xor => 0x04
  | .sll => 0x05
  | .srl => 0x06
  | .sra => 0x07
  | .slt => 0x08
  | .sltu => 0x09
  | .min => 0x0A
  | .max => 0x0B
  | .minu => 0x0C
  | .maxu => 0x0D
  | .mul => 0x10
  | .mulh => 0x11
  | .mulhu => 0x12
  | .div => 0x13
  | .divu => 0x14
  | .rem => 0x15
  | .remu => 0x16
  | .clz => 0x18
  | .ctz => 0x19
  | .popc => 0x1A

/-- The major of an immediate operation (R125). -/
def aluIMajor : AluI → Nat
  | .addi => 0x01
  | .andi => 0x02
  | .ori => 0x03
  | .xori => 0x04
  | .slli => 0x05
  | .srli => 0x06
  | .srai => 0x07
  | .slti => 0x08
  | .sltiu => 0x09
  | .lui => 0x0A
  | .apc => 0x0B

/-- The major of a branch (R128). -/
def branchMajor : BrOp → Nat
  | .eq => 0x20
  | .ne => 0x21
  | .lt => 0x22
  | .ge => 0x23
  | .ltu => 0x24
  | .geu => 0x25

/-- The function code of a vector operation (R130). -/
def varithCode : VArith → Nat
  | .add => 0x0
  | .sub => 0x1
  | .mul => 0x2
  | .fma => 0x3
  | .min => 0x4
  | .max => 0x5
  | .and => 0x6
  | .or => 0x7
  | .xor => 0x8
  | .sll => 0x9
  | .srl => 0xA
  | .sra => 0xB
  | .abs => 0xC
  | .neg => 0xD
  | .div => 0xE
  | .sqrt => 0xF

/-- The function code of a predicate operation (R133). -/
def predCode : PredOp → Nat
  | .and => 0x0
  | .or => 0x1
  | .xor => 0x2
  | .andn => 0x3
  | .not => 0x4
  | .set => 0x5
  | .get => 0x6

/-- The instruction word of an instruction, and the word after it, 0 for a short one (R118, R119). -/
def encodeV (o : VOp) : Nat × Nat :=
  match o with
  | .alu o f => (joinR 0x00 (aluCode o) f, 0)
  | .aluI o f => (joinI (aluIMajor o) f, 0)
  | .load k f => (joinI (0x10 + loadCode k) f, 0)
  | .store n f => (joinS (0x18 + storeCode n) f, 0)
  | .liL f => joinL 0x01 f
  | .lih f => joinL 0x02 f
  | .addiL f => joinL 0x03 f
  | .jalL f => joinL 0x04 f
  | .loadL k f => joinL (0x10 + loadCode k) f
  | .storeL n f => joinL (0x18 + storeCode n) f
  | .branch o f => (joinB (branchMajor o) f, 0)
  | .jal f => (0x26 * 2 ^ 26 + f.rd.val * 2 ^ 21 + f.off.toNat, 0)
  | .jalr f => (joinI 0x27 f, 0)
  | .varith o f => (joinV 0x28 (varithCode o) f, 0)
  | .vcmp c f => (joinV 0x29 c f, 0)
  | .pred o f => (joinV 0x2A (predCode o) f, 0)
  | .vmov f => (joinV 0x2B 0 f, 0)
  | .vsel f => (joinV 0x2B 1 f, 0)
  | .vbcast f => (joinV 0x2B 2 f, 0)
  | .vext f => (joinV 0x2B 3 f, 0)
  | .vins f => (joinV 0x2B 4 f, 0)
  | .vperm f => (joinV 0x2B 5 f, 0)
  | .vcvt f => (joinV 0x2B 6 f, 0)
  | .vred f => (joinV 0x2B 7 f, 0)
  | .vidx f => (joinV 0x2B 8 f, 0)
  | .vld f => (joinVM 0x1C f, 0)
  | .vst f => (joinVM 0x1D f, 0)
  | .vlds f => (joinV 0x1E 0 f, 0)
  | .vgather f => (joinV 0x1E 1 f, 0)
  | .vscatter f => (joinV 0x1E 2 f, 0)
  | .troute f => (joinV 0x2C 0 f, 0)
  | .vlut f => (joinV 0x2C 1 f, 0)
  | .scree f => (joinV 0x2D 0 f, 0)
  | .perm f => (joinR 0x2E 0 f, 0)
  | .tzero f => (joinT 0 f, 0)
  | .tload f => (joinT 1 f, 0)
  | .tmac f => (joinT 2 f, 0)
  | .tstore f => (joinT 3 f, 0)
  | .enq f => (joinI 0x32 f, 0)
  | .waitc f => (joinR 0x33 0 f, 0)
  | .csrr f => (joinI 0x34 f, 0)
  | .csrw f => (joinI 0x35 f, 0)
  | .fence rd rs1 => (joinSys 0x36 0 rd rs1, 0)
  | .fenceI rd rs1 => (joinSys 0x36 1 rd rs1, 0)
  | .bar f => (joinI 0x37 f, 0)
  | .yield rd rs1 => (joinSys 0x38 0 rd rs1, 0)
  | .halt rd rs1 => (joinSys 0x38 1 rd rs1, 0)
  | .eret rd rs1 => (joinSys 0x38 2 rd rs1, 0)
  | .undefined => (0, 0)

/-- Is this an instruction that the tables of chapter 04 encode: loads and stores of their sizes, a condition of four bits,
and not an encoding without an instruction? -/
def VOp.encodable (o : VOp) : Bool :=
  match o with
  | .load k _ | .loadL k _ => k.size == 1 || k.size == 2 || k.size == 4 || (k.size == 8 && k.signed)
  | .store n _ | .storeL n _ => n == 1 || n == 2 || n == 4 || n == 8
  | .vcmp c _ => c < 16
  | .undefined => false
  | _ => true

end Sys2Proof.Machine
end

