-- ==== Sys2Proof/Machine/DebugRun.lean ====
section
/-!
DEFINITION. What the debug module does itself (R508, R510): single steps of held targets and memory accesses; the issue of
instructions; the TAP (R502, R503, R507); CSR writes as commands.
-/
namespace Sys2Proof.Machine

/-! ## Single steps (R508) -/

/-- The instruction at an address, from a function that reads bytes. -/
def fetchOp (word : Nat → Nat) (pc : Nat) : VOp := decodeV (word pc) (word (pc + 4))

/-- The instruction at a context's PC, as its fetch reads it (R150). -/
def ctxOpAt (s : State) (c : Nat) : VOp :=
  fetchOp (fun a => leNat ((List.range 4).map (fun i => fetchByte s c (a + i)))) (ctxAt s c).pc.toNat

/-- The instruction at a core's PC. -/
def mcOpAt (s : State) (k : Nat) : VOp :=
  fetchOp (fun a => leNat ((List.range 4).map (fun i => Cells.get (fun _ => 0) s.mcMem (k * 0x40000 + a + i)))) (mcAt s k).pc.toNat

/-- Hold a context again after its step: one that stopped by itself keeps its cause, one that drains holds afterwards, any
other holds with BREAKPOINT. -/
def reholdCtx (s : State) (c : Nat) : State :=
  let x := ctxAt s c
  match x.st with
  | .stopped => if x.held then s else raiseSource (setCtx s c { x with held := true, byMatch := false }) 4
  | .replaying => setCtx s c { x with stopReq := true, haltReq := true }
  | _ => holdCtx s c

/-- STEP of a context: whether it is over. From a hold that no match made the KIND 0 comparators are tested first (R509). It goes on
while a code line must be read again (R90), and while the instruction waits for the host. -/
def stepCtx (s : State) (c : Nat) : Bool × State :=
  let x := ctxAt s c
  if x.held && !x.byMatch && bpHit s (tileOf c) [0] (some (c % 4)) [x.pc.toNat] then (true, matchCtx s c)
  else if x.held || (x.st == .running && x.reread != 0) then
    let go := setCtx s c { x with st := .running, cause := 0, badaddr := 0, held := false, skipBp := true, quantumEnd := false }
    let s1 := ctxIssue go c (ctxOpAt s c)
    let y := ctxAt s1 c
    if y.st = .running ∧ y.reread = 1 then (false, s1)
    else if y.st = .running ∧ y.skipBp then (false, setCtx s1 c x)
    else
      let s2 := reholdCtx s1 c
      let z := ctxAt s2 c
      (true, setCtx s2 c { z with quantumEnd := x.quantumEnd || z.quantumEnd })
  else (true, s)

/-- STEP of a core; after a trap it holds at TVEC. -/
def stepMc (s : State) (k : Nat) : Bool × State :=
  let y := mcAt s k
  if !y.held then (true, s)
  else if !y.byMatch && bpHit s (512 + k) [0] none [y.pc.toNat] then (true, matchMc s k)
  else
    let s1 := mcIssue (setMc s k { y with held := false, skipBp := true, waiting := none }) k (mcOpAt s k)
    let z := mcAt s1 k
    if z.held then (true, s1)
    else if z.skipBp then (false, setMc s1 k y)
    else (true, holdMc (setMc s1 k { z with waiting := none }) k)

/-! ## Memory accesses (R510, R511) -/

/-- The master ID of the debug port. -/
def dbgMaster : Nat := 0x1F

/-- Does the address lie in a domain without power or in self-refresh (R511), the host links' in M3? CSR offsets answer for
themselves. -/
def dbgAsleep (s : State) (a : Nat) : Bool :=
  2 ≤ pwrState s && (match regionOf s a with | .csr | .unmapped => false | .host => 3 ≤ pwrState s | _ => true)

/-- The access is over: the data of a read, INC, STATUS, BUSY. -/
def memDone (s : State) (n : Nat) (v : Option Word) : State :=
  let s := match v with
    | some v => s.wr .DBG_MEM_DATA 0 v
    | none => s
  let s := if s.flag Fld.DBG_MEM_CMD_INC 0 then s.setFld Fld.DBG_MEM_ADDR_ADDR 0 (s.fld Fld.DBG_MEM_ADDR_ADDR 0 + n) else s
  (s.setFld Fld.DBG_MEM_CMD_STATUS 0 0).setFld Fld.DBG_MEM_CMD_BUSY 0 0

/-- One access at DBG_MEM_ADDR: whether it is over. What a poisoned read returns no rule says (log entry 9). -/
def dbgMem (s : State) (write : Bool) : Bool × State :=
  let a := s.fld Fld.DBG_MEM_ADDR_ADDR 0
  let n := if s.flag Fld.DBG_MEM_CMD_SIZE 0 then 8 else 4
  if dbgAsleep s a then (true, memDone s n (if write then none else some 0))
  else if write then
    match prepare s dbgMaster [] [(a, n)] with
    | .stall s => (false, s)
    | .go =>
      (true, memDone (dropHost (busWrite s dbgMaster 3 a (leBytes n (s.rd .DBG_MEM_DATA 0).toNat)).st dbgMaster) n none)
  else
    match prepare s dbgMaster [(a, n)] [] with
    | .stall s => (false, s)
    | .go =>
      let r := busRead s dbgMaster 3 a n
      let (f, s1) := r.st.fresh (8 * n)
      let v := if r.bad then f.toNat else leNat r.data
      (true, memDone (dropHost (if r.bad then s1 else r.st) dbgMaster) n (some (BitVec.ofNat 64 v)))

/-! ## Requests in progress -/

/-- One request: the state, in which it stands again if it is not over. -/
def doRequest (s : State) (r : DbgReq) : State :=
  let p := match r with
    | .step true k => stepMc s k
    | .step false c => stepCtx s c
    | .mem w => dbgMem s w
  if p.1 then p.2 else { p.2 with dbg := p.2.dbg ++ [r] }

/-- Every request noted, then those that these have noted; requests that wait for the host stand. -/
def settleDebug (s : State) : State := pass (pass s)
where
  /-- One pass over the requests. -/
  pass (s : State) : State := s.dbg.foldl doRequest { s with dbg := [] }

/-! ## Issue -/

/-- Issue an instruction of a context or a core (R117). A request of the debug module in progress comes first, and what
the instruction asks of the debug module last. -/
def issue (s : State) (a : Agent) (op : VOp) : State :=
  let s := settleDebug s
  settleDebug (match a with
    | .ctx c => ctxIssue s c op
    | .core k => mcIssue s k op)

/-! ## Commands of the debug registers -/

/-- DBG_STEP (R508); given again while the step waits, it goes on. -/
def execDbgStep (m : Master) (a : CsrAcc) (s : State) : Host.Outcome State Fault Refusal :=
  .next (onModule s (fun s =>
    if Fld.DBG_CTL_STEP.presented a = 1 then settleDebug (writeDebug s m.toNat .DBG_CTL 0 a) else s))

/-- DBG_REG_DATA (R510): a write, or a read, whose value is kept in DBG_REG_DATA. -/
def execDbgRegData (m : Master) (a : Option CsrAcc) (s : State) : Host.Outcome State Fault Refusal :=
  .next (onModule s (fun s =>
    match a with
      | some a => writeDebug s m.toNat .DBG_REG_DATA 0 a
      | none => let (v, s) := readDebug s m.toNat .DBG_REG_DATA 0; s.wr .DBG_REG_DATA 0 v))

/-- A memory command of the debug module; given again while BUSY, it goes on. -/
def memCmd (s : State) (m op : Nat) (a : CsrAcc) : State :=
  if Fld.DBG_MEM_CMD_OP.presented a = op then settleDebug (writeDebug s m .DBG_MEM_CMD 0 a) else s

/-- DBG_MEM_READ (R510). -/
def execDbgMemRead (m : Master) (a : CsrAcc) (s : State) : Host.Outcome State Fault Refusal :=
  .next (onModule s (fun s => memCmd s m.toNat 1 a))

/-- DBG_MEM_WRITE (R510). -/
def execDbgMemWrite (m : Master) (a : CsrAcc) (s : State) : Host.Outcome State Fault Refusal :=
  .next (onModule s (fun s => memCmd s m.toNat 2 a))

/-! ## The TAP (R502, R503, R507, R511) -/

/-- Does the TAP answer: with supply, and not in M4? -/
def tapOn (s : State) : Bool := s.pins.pwrGood && pwrState s != 4

/-- Load an instruction that holds no reset: a hold ends (R503). -/
def loadTap (s : State) (ir : Nat) (dr : Nat) : State :=
  if tapOn s then { s with tap := { s.tap with ir := ir, dr := dr, holds := false } } else s

/-- Load an instruction that holds the module in full reset (R503). CLAMP and HIGHZ select the BYPASS register, which captures 0; the
others select the boundary register. -/
def holdTap (s : State) (ir : Nat) : State :=
  if tapOn s then
    let s := fullReset s
    { s with tap := { s.tap with ir := ir, dr := 0, holds := true } }
  else s

/-- EXTEST (R503). -/
def execTapExtest (s : State) : Host.Outcome State Fault Refusal := .next (holdTap s 0x00)

/-- IDCODE (R502). -/
def execTapIdcode (s : State) : Host.Outcome State Fault Refusal :=
  .next (loadTap s 0x01 (Config.siliconRevision.toNat * 2 ^ 28 + 0x7240 * 2 ^ 12 + Config.jep106.toNat * 2 + 1))

/-- Does SAMPLE capture 0 in the restricted cells (R503)? During a full reset the level is the one that reset gives. -/
def sampleRestricted (s : State) : Bool :=
  let lc := lifecycleNow s
  let level := if s.pins.inReset then resetLevel lc else dbgLevel s
  level == 0 && (lc == 2 || lc == 3)

/-- SAMPLE_PRELOAD (R502, R503): each cell captures the level at its contact and takes the value shifted in. -/
def execTapSamplePreload (cells : List ScanCell) (s : State) : Host.Outcome State Fault Refusal :=
  .next (if tapOn s then
      let s1 := loadTap s 0x02 s.tap.dr
      { s1 with tap := { s1.tap with cells := cells.map (fun e => e.level && !(e.dataPin && sampleRestricted s)),
                                     latch := cells.map ScanCell.load } }
    else s)

/-- EXTEST_PULSE (R503). -/
def execTapExtestPulse (s : State) : Host.Outcome State Fault Refusal := .next (holdTap s 0x03)

/-- EXTEST_TRAIN (R503). -/
def execTapExtestTrain (s : State) : Host.Outcome State Fault Refusal := .next (holdTap s 0x04)

/-- CLAMP (R503). -/
def execTapClamp (s : State) : Host.Outcome State Fault Refusal := .next (holdTap s 0x05)

/-- HIGHZ (R503). -/
def execTapHighz (s : State) : Host.Outcome State Fault Refusal := .next (holdTap s 0x06)

/-- BYPASS, and every code without an instruction (R502). -/
def execTapBypass (s : State) : Host.Outcome State Fault Refusal := .next (loadTap s 0xFF 0)

/-- DBG_ACCESS (R502): one access to the DEBUG register `i`. What is shifted out is the result of the read before. -/
def execDbgAccess (i : BitVec 9) (write : Bool) (data : Word) (s : State) : Host.Outcome State Fault Refusal :=
  .next (if !tapOn s then s
    else
      let s := loadTap s 0x10 s.tap.prev.toNat
      if s.pins.inReset then s
      else
        let off := 0x50000 + 8 * i.toNat
        if write then settleDebug (csrStore s dbgMaster off 8 data.toNat)
        else
          let (v, s) := csrLoad s dbgMaster off 8
          { s with tap := { s.tap with prev := BitVec.ofNat 64 v } })

/-- The debug module after TRST (R471, R507): its registers, comparators and holds at their reset values, but for the counts since the
full reset. -/
def debugCleared (s : State) : State :=
  let keep := s.rd .DBG_LEVEL 0
  let clear : List Reg := [.DBG_UNLOCK, .DBG_SEL, .DBG_REG_SEL, .DBG_MEM_CMD, .DBG_MEM_ADDR, .DBG_MEM_DATA, .DBG_REG_DATA]
  let s := clear.foldl (fun s r => s.wr r 0 0) (setChallenge s [])
  debugReset { endDebug (s.wr .DBG_LEVEL 0 keep) with dbg := [] }

/-- TRST (R503, R507). -/
def execTapTrst (s : State) : Host.Outcome State Fault Refusal :=
  .next (if tapOn s then { debugCleared s with tap := {} } else s)

/-! ## CSR writes as commands (R10 to R14) -/

/-- CSR_WRITE: a write of `size` bytes at a CSR offset by a master. -/
def execCsrWrite (m : Master) (off : BitVec 28) (size : BitVec 8) (v : Word) (s : State) : Host.Outcome State Fault Refusal :=
  .next (settleDebug (csrStore s m.toNat off.toNat size.toNat v.toNat))

end Sys2Proof.Machine
end

