-- ==== Sys2Proof/Machine/HostReq.lean ====
section
/-!
DEFINITION. The messages of the host links (R406 to R413), the flits that bring them (R403 to R405), and the end of a partial
reset, after which requests that waited go on.
-/
namespace Sys2Proof.Machine

/-! ## Answers -/

/-- Answer a host request. -/
def answer (s : State) (x opcode tag line status : Nat) : State :=
  sendMsg s { link := x, opcode := opcode, tag := tag, addr := line * 64, status := status }

/-- DATA with a line and the state it grants. -/
def answerData (s : State) (x tag line granted : Nat) (poison : Bool) (data : List Byte) : State :=
  sendMsg s { link := x, opcode := 0x31, tag := tag, addr := line * 64, granted := granted, poison := poison, data := data }

/-- ERR with a status (R412, R478). -/
def answerErr (s : State) (x tag line status : Nat) : State := answer s x 0x37 tag line status

/-- The master that a link's requests are (00_scope.md). -/
def linkMaster (x : Nat) : Nat := 1 + x

/-- Is the module in M2 or M3 (R478)? -/
def asleep (s : State) : Bool := 2 ≤ s.fld Fld.PWR_STATUS_STATE 0

/-- Is a CSR offset in a P-die's range? -/
def pdieCsr (off : Nat) : Bool := 0x1000000 ≤ off && off < 0x5000000

/-! ## The snoop filter (R409) -/

/-- The filter's set of a line: its P-die and the line address mod 16,384. -/
def snoopSet (s : State) (line : Nat) : Nat × Nat := ((dramMap s (line * 64)).1 / 6, line % 16384)

/-- The entries of a line's set, longest allocated first. -/
def sameSet (s : State) (line : Nat) : List SnoopEntry := s.snoop.filter (fun e => snoopSet s e.line == snoopSet s line)

/-- Is a line tracked? -/
def tracked (s : State) (line : Nat) : Bool := s.snoop.any (fun e => e.line == line)

/-- A line's entry, new or changed. -/
def track (s : State) (line : Nat) (excl : Bool) : State :=
  if tracked s line then { s with snoop := s.snoop.map (fun e => if e.line = line then { e with excl := excl } else e) }
  else { s with snoop := s.snoop ++ [⟨line, excl, s.snoopSeq⟩], snoopSeq := s.snoopSeq + 1 }

/-- A line's entry is freed. -/
def untrack (s : State) (line : Nat) : State := { s with snoop := s.snoop.filter (fun e => e.line != line) }

/-- The home reads a line and grants it (R408). -/
def grantLine (s : State) (x opcode tag line : Nat) : State :=
  let r := dramRead s (line * 64) 64
  let own := opcode = 0x02
  answerData (track r.st line own) x tag line (if own then 2 else 1) r.bad r.data

/-- A request is performed, or waits; the state holds what it has sent. -/
inductive HostTry where
  | done (s : State)
  | wait (s : State)
  deriving DecidableEq

/-- RD_SHARED and RD_OWN (R408, R409, R411, R412): in a full set the way allocated longest ago is snooped first. A line
with a snoop outstanding waits, and so does DRAM during a partial reset. -/
def hostRead' (s : State) (x opcode tag line : Nat) : HostTry :=
  if !inDram s (line * 64) 64 then .done (answerErr s x tag line 0x07)
  else if asleep s then .done (answerErr s x tag line 0x0D)
  else if partialReset s || snooping s line || homeAhead s line (linkMaster x) then .wait s
  else if tracked s line || (sameSet s line).length < 16 then .done (grantLine s x opcode tag line)
  else
    match (sameSet s line).head? with
    | none => .wait s
    | some e => .wait (sendSnoop s 0x21 e.line (some x))

/-! ## Writes that arrive -/

/-- Make a line uncorrectable: every check symbol is stored inverted (R413). -/
def poisonLine (s : State) (line : Nat) : State := setErrs s line ((List.range 16).map (fun i => (i, (0xFF : Byte))))

/-- A whole line arrives for DRAM, poisoned or not. -/
def storeLine (s : State) (master line : Nat) (poison : Bool) (data : List Byte) : State :=
  let s := memPut s master (line * 64) (sliceB data 0 64)
  if poison then poisonLine s line else s

/-- WB_LINE (R408, R411, R412, R413): the writeback of a line whose snoop is outstanding is stored at once. -/
def hostWriteback (s : State) (x tag line : Nat) (poison : Bool) (data : List Byte) : HostTry :=
  if !inDram s (line * 64) 64 then .done (answerErr s x tag line 0x07)
  else if asleep s then .done (answerErr s x tag line 0x0D)
  else if partialReset s && !snooping s line then .wait s
  else .done (answer (untrack (storeLine s (linkMaster x) line poison data) line) x 0x32 tag line 0)

/-- EVICT_CLEAN (R408, R412). -/
def hostEvict (s : State) (x tag line : Nat) : HostTry :=
  if !inDram s (line * 64) 64 then .done (answerErr s x tag line 0x07)
  else if asleep s then .done (answerErr s x tag line 0x0D)
  else .done (answer (untrack s line) x 0x32 tag line 0)

/-! ## Uncached requests (R412) -/

/-- The qword that a mask names, if exactly one. -/
def oneQword (mask : Nat) : Option Nat :=
  match (List.range 8).filter (fun q => mask.testBit q) with
  | [q] => some q
  | _ => none

/-- RD_UC from the host. -/
def hostReadUc (s : State) (x tag line mask : Nat) : HostTry :=
  let a := line * 64
  match regionOf s a with
  | .dram =>
    if asleep s then .done (answerErr s x tag line 0x0D)
    else if partialReset s || snooping s line || homeAhead s line (linkMaster x) then .wait s
    else
      let r := dramRead s a 64
      .done (answerData r.st x tag line 0 r.bad r.data)
  | .stook _ | .tile _ =>
    if asleep s then .done (answerErr s x tag line 0x0D)
    else
      let r := memRead s (linkMaster x) 3 a 64
      .done (answerData r.st x tag line 0 r.bad r.data)
  | .csr =>
    match oneQword mask with
    | none => .done (answerErr s x tag line 0x07)
    | some q =>
      let off := a - csrBase + 8 * q
      if asleep s && pdieCsr off then .done (answerErr s x tag line 0x0D)
      else
        let (v, s) := csrLoad s (linkMaster x) off 8
        .done (answerData s x tag line 0 false (List.replicate (8 * q) 0 ++ leBytes 8 v ++ List.replicate (56 - 8 * q) 0))
  | _ => .done (answerErr s x tag line 0x07)

/-- The qwords of a line that a mask names are written, in SRAM with inverted parity where the line is poisoned (R324, R406). -/
def putQwords (s : State) (m a mask : Nat) (poison : Bool) (data : List Byte) : State :=
  let put (s : State) (o n : Nat) : State :=
    if poison then (memWrite s m 3 (a + o) (sliceB data o n) true).st else memPut s m (a + o) (sliceB data o n)
  if mask % 256 = 255 then put s 0 64
  else ((List.range 8).filter (fun q => mask.testBit q)).foldl (fun s q => put s (8 * q) 8) s

/-- WR_UC from the host; with POISON the line then reads as uncorrectable (R413). -/
def hostWriteUc (s : State) (x tag line mask : Nat) (poison : Bool) (data : List Byte) : HostTry :=
  let a := line * 64
  let m := linkMaster x
  let put (s : State) : State := putQwords s m a mask (poison && a ≥ dramEnd) (sliceB data 0 64)
  match regionOf s a with
  | .dram =>
    if asleep s then .done (answerErr s x tag line 0x0D)
    else if partialReset s || snooping s line || homeAhead s line (linkMaster x) then .wait s
    else
      let s := put s
      .done (answer (if poison then poisonLine s line else s) x 0x32 tag line 0)
  | .stook _ | .tile _ =>
    if asleep s then .done (answerErr s x tag line 0x0D)
    else
      .done (answer (put s) x 0x32 tag line 0)
  | .csr =>
    match oneQword mask with
    | none => .done (answerErr s x tag line 0x07)
    | some q =>
      let off := a - csrBase + 8 * q
      if asleep s && pdieCsr off then .done (answerErr s x tag line 0x0D)
      else .done (answer (settleDebug (csrStore s m off 8 (leAt data (8 * q) 8))) x 0x32 tag line 0)
  | _ => .done (answerErr s x tag line 0x07)

/-! ## Requests in order (R407, R411) -/

/-- Try to perform a request. -/
def performReq (s : State) (m : HostMsg) : HostTry :=
  let line := m.addr / 64
  match m.opcode with
  | 0x01 | 0x02 => hostRead' s m.link m.opcode m.tag line
  | 0x03 => hostReadUc s m.link m.tag line m.mask
  | 0x04 => hostWriteback s m.link m.tag line m.poison m.data
  | 0x05 => hostWriteUc s m.link m.tag line m.mask m.poison m.data
  | _ => hostEvict s m.link m.tag line

/-- The REQ credit of a request that is performed goes back (R406). -/
def creditBack (s : State) (x : Nat) : State := setLink s x { linkAt s x with reqOwed := (linkAt s x).reqOwed + 1 }

/-- The request waits behind those received before it on its link. -/
def enqueueReq (s : State) (m : HostMsg) : State :=
  setLink s m.link { linkAt s m.link with rxQueue := (linkAt s m.link).rxQueue ++ [m] }

/-- The first request of a link waits at the home of its line (R411). -/
def waitAtHome (s : State) (m : HostMsg) : State :=
  if m.opcode = 0x04 ∨ m.opcode = 0x06 ∨ regionOf s m.addr ≠ .dram then s else enterHome s [m.addr / 64] (linkMaster m.link)

/-- Perform the requests of a link that wait, in order, until one waits on; `n` bounds their number (R407). -/
def pumpRequests (x : Nat) : Nat → State → State
  | 0, s => s
  | n + 1, s =>
    match (linkAt s x).rxQueue with
    | [] => s
    | m :: r =>
      match performReq (setLink s x { linkAt s x with rxQueue := r }) m with
      | .done t => pumpRequests x n (creditBack (leaveHome t (linkMaster x) m.addr 64) x)
      | .wait t => waitAtHome (setLink t x { linkAt t x with rxQueue := m :: r }) m

/-- The requests of both links that may be performed are: `x`'s first, and once more those that have waited for the other's. -/
def pumpBoth (s : State) (x : Nat) : State :=
  let pump (s : State) (y : Nat) : State := pumpRequests y (linkAt s y).rxQueue.length s
  let s := pump (pump s x) (1 - x)
  if s.homeQ.isEmpty then s else pump s x

/-- What the host has been waited for goes on (R407, R411): messages without a tag, what the device held, then the requests of
the links, of each line in the order in which they came to its home. What the device held behind those goes on after them. -/
def hostSettle (s : State) (x : Nat) : State :=
  let s := pumpBoth (releaseHeld (pumpTags s)) x
  if s.homeQ.isEmpty then s else pumpBoth (releaseHeld s) x

/-- The snoop of a line is answered: it ends, and what waits for it goes on (R409, R411). -/
def snoopDone (s : State) (p : Snoop) : State :=
  hostSettle { s with snps := s.snps.filter (fun q => !(q.link == p.link && q.tag == p.tag)) } (p.waiter.getD 0)

/-- A writeback that a snoop has waited for ends the snoop too (R411). -/
def endWbWait (s : State) (m : HostMsg) : State :=
  if m.opcode ≠ 0x04 then s
  else
    match s.snps.find? (fun p => p.line == m.addr / 64 && p.wbWait) with
    | some p => snoopDone s p
    | none => s

/-- Is the request the writeback of a line whose snoop is outstanding? The home then waits for it (R411). -/
def returnsSnooped (s : State) (m : HostMsg) : Bool := m.opcode == 0x04 && snooping s (m.addr / 64)

/-- A request arrives (R407, R411): it is performed once those received before it on its link have been; the return of a
line whose snoop is outstanding does not wait for them. -/
def receiveReq (s : State) (m : HostMsg) : State :=
  if !linkUp s m.link then s
  else if (linkAt s m.link).rxQueue.isEmpty || returnsSnooped s m then
    match performReq s m with
    | .done t => endWbWait (creditBack t m.link) m
    | .wait t => waitAtHome (enqueueReq t m) m
  else enqueueReq s m

/-! ## Snoop responses (R410, R411) -/

/-- The outstanding snoop that a response answers. -/
def snoopOf (s : State) (x tag : Nat) : Option Snoop := s.snps.find? (fun p => p.link == x && p.tag == tag)

/-- RSP_I: the host holds nothing. -/
def rspI (s : State) (x tag : Nat) : State :=
  match snoopOf s x tag with
  | none => s
  | some p => snoopDone (untrack s p.line) p

/-- RSP_S: the host holds the line in S. -/
def rspS (s : State) (x tag : Nat) : State :=
  match snoopOf s x tag with
  | none => s
  | some p => snoopDone (if tracked s p.line then track s p.line false else s) p

/-- RSP_DATA_M: the modified line comes; after SNP_INV the host holds nothing, after SNP_DATA the line in S. -/
def rspDataM (s : State) (x tag : Nat) (poison : Bool) (data : List Byte) : State :=
  match snoopOf s x tag with
  | none => s
  | some p =>
    let s := storeLine s (linkMaster x) p.line poison data
    snoopDone (if p.opcode = 0x21 then untrack s p.line else track s p.line false) p

/-- A return of a line that waits among the requests of a link, and the state without it. -/
def queuedReturn (s : State) (line x : Nat) : Option (HostMsg × State) :=
  let l := linkAt s x
  let mine (m : HostMsg) : Bool := m.opcode == 0x04 && m.addr / 64 == line
  (l.rxQueue.find? mine).map (fun m => (m, setLink s x { l with rxQueue := l.rxQueue.erase m }))

/-- RSP_I_WB: the writeback has come, or is waited for; one that waits behind other requests is taken now (R411). -/
def rspIWb (s : State) (x tag : Nat) : State :=
  match snoopOf s x tag with
  | none => s
  | some p =>
    if tracked s p.line then
      let s := { s with snps := s.snps.map (fun q => if q.link = p.link ∧ q.tag = p.tag then { q with wbWait := true } else q) }
      match (queuedReturn s p.line 0).or (queuedReturn s p.line 1) with
      | none => s
      | some (m, s) =>
        match performReq s m with
        | .done t => endWbWait (creditBack t m.link) m
        | .wait t => enqueueReq t m
    else snoopDone s p

/-! ## Responses to device requests (R408) -/

/-- A device request is answered. -/
def takeReq (s : State) (x tag : Nat) : Option DevReq × State :=
  match s.devReq.find? (fun r => r.link == x && r.tag == tag) with
  | none => (none, s)
  | some r => (some r, { s with devReq := s.devReq.filter (fun q => !(q.link == x && q.tag == tag)) })

/-- A line comes for a device read; a response to a write carries none. What waited for it, or for its tag, goes on. -/
def lineArrives (s : State) (x tag : Nat) (poison : Bool) (data : List Byte) : State :=
  match takeReq s x tag with
  | (some r, s) =>
    hostSettle (if r.opcode = 0x03 then
      { s with hostBuf := s.hostBuf ++ [{ master := r.master, line := r.line, poison := poison, data := data }] } else s) x
  | (none, s) => s

/-- COMP: a device write has been made. -/
def compArrives (s : State) (x tag : Nat) : State :=
  match takeReq s x tag with
  | (some _, s) => hostSettle s x
  | (none, s) => s

/-! ## Received flits (R403 to R406) -/

/-- A message arrives (R406). SNP messages go to the host only. -/
def receiveMsg (s : State) (m : HostMsg) : State :=
  match m.opcode with
  | 0x31 => lineArrives s m.link m.tag m.poison m.data
  | 0x32 => compArrives s m.link m.tag
  | 0x33 => rspI s m.link m.tag
  | 0x34 => rspS s m.link m.tag
  | 0x35 => rspDataM s m.link m.tag m.poison m.data
  | 0x36 => rspIWb s m.link m.tag
  | 0x37 => lineArrives s m.link m.tag true []
  | 0x21 | 0x22 => s
  | _ => receiveReq s m

/-- The slots of a payload flit in order: the messages that are now whole arrive, in order. -/
def takeSlots (s : State) (x : Nat) (slots : List Byte) : State :=
  let l := linkAt s x
  let bs := l.rxPart ++ slots
  let r := parseSlots x (bs.length / 16) bs
  r.1.foldl receiveMsg (setLink s x { l with rxPart := r.2 })

/-- A good payload flit in order (R405): the next is expected, its header counts, its slots arrive. -/
def payloadFlitIn (s : State) (x : Nat) (f : List Byte) : State :=
  let h := leAt f 0 4
  let s := setLink s x { linkAt s x with rxExpect := (bits h 0 10 + 1) % 1024, rxAny := true, discarding := false, ackDue := true }
  takeSlots (pumpLink (flitCredits (flitAck s x h) x h) x) x (sliceB f 4 240)

/-- A received flit (R403 to R405). An injected failure hits a payload flit (R514). A payload flit that has been received
before only acknowledges. -/
def rxFlit (s : State) (x : Nat) (flit : List Byte) : State :=
  if !linkUp s x then s
  else
    let (f, n) := flitFec flit
    let s := s.satAdd Fld.HL_CNT_FEC_CORR x n
    let h := leAt f 0 4
    let type := bits h 10 2
    let (bad, s) := if type = 0 then
        (match injFire s 9 x with
         | some (_, s) => (true, s)
         | none => (false, s))
      else (false, s)
    let l := linkAt s x
    if bad || flit.length ≠ 256 || crc64 (f.take 244) ≠ leAt f 244 8 then flitFailed s x
    else if type = 0 && bits h 0 10 = l.rxExpect then payloadFlitIn s x f
    else if l.discarding then s
    else if type = 0 then pumpLink (flitAck s x h) x
    else if type = 1 then pumpLink (flitCredits (flitAck s x h) x h) x
    else if type = 2 then pumpLink (replayFrom (flitCredits s x h) x (bits h 12 10)) x
    else s

/-! ## Commands -/

/-- FLIT (R405). -/
def execHostFlit (x : XDie) (flit : List Byte) (s : State) : Host.Outcome State Fault Refusal := .next (rxFlit s x flit)

/-- RD_SHARED (R408). -/
def execRdShared (x : XDie) (tag : BitVec 12) (line : BitVec 46) (s : State) : Host.Outcome State Fault Refusal :=
  .next (receiveReq s { link := x, opcode := 0x01, tag := tag.toNat, addr := line.toNat * 64 })

/-- RD_OWN (R408). -/
def execRdOwn (x : XDie) (tag : BitVec 12) (line : BitVec 46) (s : State) : Host.Outcome State Fault Refusal :=
  .next (receiveReq s { link := x, opcode := 0x02, tag := tag.toNat, addr := line.toNat * 64 })

/-- RD_UC (R412). -/
def execRdUc (x : XDie) (tag : BitVec 12) (line : BitVec 46) (mask : BitVec 8) (s : State) : Host.Outcome State Fault Refusal :=
  .next (receiveReq s { link := x, opcode := 0x03, tag := tag.toNat, addr := line.toNat * 64, mask := mask.toNat })

/-- WB_LINE (R408). -/
def execWbLine (x : XDie) (tag : BitVec 12) (line : BitVec 46) (poison : Bool) (data : List Byte) (s : State) :
    Host.Outcome State Fault Refusal :=
  .next (receiveReq s { link := x, opcode := 0x04, tag := tag.toNat, addr := line.toNat * 64, poison := poison, data := data })

/-- WR_UC (R412). -/
def execWrUc (x : XDie) (tag : BitVec 12) (line : BitVec 46) (mask : BitVec 8) (poison : Bool) (data : List Byte) (s : State) :
    Host.Outcome State Fault Refusal :=
  .next (receiveReq s { link := x, opcode := 0x05, tag := tag.toNat, addr := line.toNat * 64, mask := mask.toNat, poison := poison,
                        data := data })

/-- EVICT_CLEAN (R408). -/
def execEvictClean (x : XDie) (tag : BitVec 12) (line : BitVec 46) (s : State) : Host.Outcome State Fault Refusal :=
  .next (receiveReq s { link := x, opcode := 0x06, tag := tag.toNat, addr := line.toNat * 64 })

/-- RSP_I (R410). -/
def execRspI (x : XDie) (tag : BitVec 12) (s : State) : Host.Outcome State Fault Refusal := .next (rspI s x tag.toNat)

/-- RSP_S (R410). -/
def execRspS (x : XDie) (tag : BitVec 12) (s : State) : Host.Outcome State Fault Refusal := .next (rspS s x tag.toNat)

/-- RSP_DATA_M (R410). -/
def execRspDataM (x : XDie) (tag : BitVec 12) (poison : Bool) (data : List Byte) (s : State) : Host.Outcome State Fault Refusal :=
  .next (rspDataM s x tag.toNat poison data)

/-- RSP_I_WB (R411). -/
def execRspIWb (x : XDie) (tag : BitVec 12) (s : State) : Host.Outcome State Fault Refusal := .next (rspIWb s x tag.toNat)

/-- DATA (R408). -/
def execHostData (x : XDie) (tag : BitVec 12) (poison : Bool) (data : List Byte) (s : State) : Host.Outcome State Fault Refusal :=
  .next (lineArrives s x tag.toNat poison data)

/-- COMP (R408). -/
def execHostComp (x : XDie) (tag : BitVec 12) (s : State) : Host.Outcome State Fault Refusal := .next (compArrives s x tag.toNat)

/-- ERR (R412): a device read so answered completes poisoned; a write is dropped. -/
def execHostErr (x : XDie) (tag : BitVec 12) (_status : BitVec 8) (s : State) : Host.Outcome State Fault Refusal :=
  .next (lineArrives s x tag.toNat true [])

/-- PARTIAL_RESET_COMPLETE (R473, R474): `errs` are the parity errors of the die-to-die check by link. What waited for DRAM goes
on. -/
def execPartialResetComplete (errs : List (BitVec 32)) (s : State) : Host.Outcome State Fault Refusal :=
  if s.fld Fld.RESET_CTL_PSTATE 0 ≠ 3 then .next s
  else
    let s := d2dCheck s (errs.map BitVec.toNat)
    let s := ((s.setFld Fld.RESET_CTL_PSTATE 0 0).setFld Fld.BRINGUP_STEP_DONE 0 7).modAdd Fld.RESET_CTL_PCOUNT 0 1
    .next (hostSettle (raiseSource s 0) 0)

end Sys2Proof.Machine
end

