-- ==== Sys2Proof/Machine/IsaMemory.lean ====
section
/-!
DEFINITION. The meanings of the Vorvar instructions: scalar memory and control flow (R126 to R128). Each issues its own form for one agent.
-/
namespace Sys2Proof.Machine

/-- ld.b (R126). -/
def execLdB (a : Agent) (f : FmtI) (s : State) : Host.Outcome State Fault Refusal :=
  .next (issue s a (.load ⟨1, true⟩ f))

/-- ld.b.l (R127). -/
def execLdBL (a : Agent) (f : FmtL) (s : State) : Host.Outcome State Fault Refusal :=
  .next (issue s a (.loadL ⟨1, true⟩ f))

/-- ld.bu (R126). -/
def execLdBu (a : Agent) (f : FmtI) (s : State) : Host.Outcome State Fault Refusal :=
  .next (issue s a (.load ⟨1, false⟩ f))

/-- ld.bu.l (R127). -/
def execLdBuL (a : Agent) (f : FmtL) (s : State) : Host.Outcome State Fault Refusal :=
  .next (issue s a (.loadL ⟨1, false⟩ f))

/-- ld.h (R126). -/
def execLdH (a : Agent) (f : FmtI) (s : State) : Host.Outcome State Fault Refusal :=
  .next (issue s a (.load ⟨2, true⟩ f))

/-- ld.h.l (R127). -/
def execLdHL (a : Agent) (f : FmtL) (s : State) : Host.Outcome State Fault Refusal :=
  .next (issue s a (.loadL ⟨2, true⟩ f))

/-- ld.hu (R126). -/
def execLdHu (a : Agent) (f : FmtI) (s : State) : Host.Outcome State Fault Refusal :=
  .next (issue s a (.load ⟨2, false⟩ f))

/-- ld.hu.l (R127). -/
def execLdHuL (a : Agent) (f : FmtL) (s : State) : Host.Outcome State Fault Refusal :=
  .next (issue s a (.loadL ⟨2, false⟩ f))

/-- ld.w (R126). -/
def execLdW (a : Agent) (f : FmtI) (s : State) : Host.Outcome State Fault Refusal :=
  .next (issue s a (.load ⟨4, true⟩ f))

/-- ld.w.l (R127). -/
def execLdWL (a : Agent) (f : FmtL) (s : State) : Host.Outcome State Fault Refusal :=
  .next (issue s a (.loadL ⟨4, true⟩ f))

/-- ld.wu (R126). -/
def execLdWu (a : Agent) (f : FmtI) (s : State) : Host.Outcome State Fault Refusal :=
  .next (issue s a (.load ⟨4, false⟩ f))

/-- ld.wu.l (R127). -/
def execLdWuL (a : Agent) (f : FmtL) (s : State) : Host.Outcome State Fault Refusal :=
  .next (issue s a (.loadL ⟨4, false⟩ f))

/-- ld.d (R126). -/
def execLdD (a : Agent) (f : FmtI) (s : State) : Host.Outcome State Fault Refusal :=
  .next (issue s a (.load ⟨8, true⟩ f))

/-- ld.d.l (R127). -/
def execLdDL (a : Agent) (f : FmtL) (s : State) : Host.Outcome State Fault Refusal :=
  .next (issue s a (.loadL ⟨8, true⟩ f))

/-- st.b (R126). -/
def execStB (a : Agent) (f : FmtS) (s : State) : Host.Outcome State Fault Refusal :=
  .next (issue s a (.store 1 f))

/-- st.b.l (R127). -/
def execStBL (a : Agent) (f : FmtL) (s : State) : Host.Outcome State Fault Refusal :=
  .next (issue s a (.storeL 1 f))

/-- st.h (R126). -/
def execStH (a : Agent) (f : FmtS) (s : State) : Host.Outcome State Fault Refusal :=
  .next (issue s a (.store 2 f))

/-- st.h.l (R127). -/
def execStHL (a : Agent) (f : FmtL) (s : State) : Host.Outcome State Fault Refusal :=
  .next (issue s a (.storeL 2 f))

/-- st.w (R126). -/
def execStW (a : Agent) (f : FmtS) (s : State) : Host.Outcome State Fault Refusal :=
  .next (issue s a (.store 4 f))

/-- st.w.l (R127). -/
def execStWL (a : Agent) (f : FmtL) (s : State) : Host.Outcome State Fault Refusal :=
  .next (issue s a (.storeL 4 f))

/-- st.d (R126). -/
def execStD (a : Agent) (f : FmtS) (s : State) : Host.Outcome State Fault Refusal :=
  .next (issue s a (.store 8 f))

/-- st.d.l (R127). -/
def execStDL (a : Agent) (f : FmtL) (s : State) : Host.Outcome State Fault Refusal :=
  .next (issue s a (.storeL 8 f))

/-- beq (R128). -/
def execBeq (a : Agent) (f : FmtB) (s : State) : Host.Outcome State Fault Refusal :=
  .next (issue s a (.branch .eq f))

/-- bne (R128). -/
def execBne (a : Agent) (f : FmtB) (s : State) : Host.Outcome State Fault Refusal :=
  .next (issue s a (.branch .ne f))

/-- blt (R128). -/
def execBlt (a : Agent) (f : FmtB) (s : State) : Host.Outcome State Fault Refusal :=
  .next (issue s a (.branch .lt f))

/-- bge (R128). -/
def execBge (a : Agent) (f : FmtB) (s : State) : Host.Outcome State Fault Refusal :=
  .next (issue s a (.branch .ge f))

/-- bltu (R128). -/
def execBltu (a : Agent) (f : FmtB) (s : State) : Host.Outcome State Fault Refusal :=
  .next (issue s a (.branch .ltu f))

/-- bgeu (R128). -/
def execBgeu (a : Agent) (f : FmtB) (s : State) : Host.Outcome State Fault Refusal :=
  .next (issue s a (.branch .geu f))

/-- jal (R128). -/
def execJal (a : Agent) (f : FmtJ) (s : State) : Host.Outcome State Fault Refusal :=
  .next (issue s a (.jal f))

/-- jal.l (R127). -/
def execJalL (a : Agent) (f : FmtL) (s : State) : Host.Outcome State Fault Refusal :=
  .next (issue s a (.jalL f))

/-- jalr (R128). -/
def execJalr (a : Agent) (f : FmtI) (s : State) : Host.Outcome State Fault Refusal :=
  .next (issue s a (.jalr f))

end Sys2Proof.Machine
end

