-- ==== Sys2Proof/Machine/IsaScalar.lean ====
section
/-!
DEFINITION. The meanings of the Vorvar instructions: scalar arithmetic (R124, R125, R127). Each issues its own form for one agent.
-/
namespace Sys2Proof.Machine

/-- add (R124). -/
def execAdd (a : Agent) (f : FmtR) (s : State) : Host.Outcome State Fault Refusal :=
  .next (issue s a (.alu .add f))

/-- sub (R124). -/
def execSub (a : Agent) (f : FmtR) (s : State) : Host.Outcome State Fault Refusal :=
  .next (issue s a (.alu .sub f))

/-- and (R124). -/
def execAnd (a : Agent) (f : FmtR) (s : State) : Host.Outcome State Fault Refusal :=
  .next (issue s a (.alu .and f))

/-- or (R124). -/
def execOr (a : Agent) (f : FmtR) (s : State) : Host.Outcome State Fault Refusal :=
  .next (issue s a (.alu .or f))

/-- xor (R124). -/
def execXor (a : Agent) (f : FmtR) (s : State) : Host.Outcome State Fault Refusal :=
  .next (issue s a (.alu .xor f))

/-- sll (R124). -/
def execSll (a : Agent) (f : FmtR) (s : State) : Host.Outcome State Fault Refusal :=
  .next (issue s a (.alu .sll f))

/-- srl (R124). -/
def execSrl (a : Agent) (f : FmtR) (s : State) : Host.Outcome State Fault Refusal :=
  .next (issue s a (.alu .srl f))

/-- sra (R124). -/
def execSra (a : Agent) (f : FmtR) (s : State) : Host.Outcome State Fault Refusal :=
  .next (issue s a (.alu .sra f))

/-- slt (R124). -/
def execSlt (a : Agent) (f : FmtR) (s : State) : Host.Outcome State Fault Refusal :=
  .next (issue s a (.alu .slt f))

/-- sltu (R124). -/
def execSltu (a : Agent) (f : FmtR) (s : State) : Host.Outcome State Fault Refusal :=
  .next (issue s a (.alu .sltu f))

/-- min (R124). -/
def execMin (a : Agent) (f : FmtR) (s : State) : Host.Outcome State Fault Refusal :=
  .next (issue s a (.alu .min f))

/-- max (R124). -/
def execMax (a : Agent) (f : FmtR) (s : State) : Host.Outcome State Fault Refusal :=
  .next (issue s a (.alu .max f))

/-- minu (R124). -/
def execMinu (a : Agent) (f : FmtR) (s : State) : Host.Outcome State Fault Refusal :=
  .next (issue s a (.alu .minu f))

/-- maxu (R124). -/
def execMaxu (a : Agent) (f : FmtR) (s : State) : Host.Outcome State Fault Refusal :=
  .next (issue s a (.alu .maxu f))

/-- mul (R124). -/
def execMul (a : Agent) (f : FmtR) (s : State) : Host.Outcome State Fault Refusal :=
  .next (issue s a (.alu .mul f))

/-- mulh (R124). -/
def execMulh (a : Agent) (f : FmtR) (s : State) : Host.Outcome State Fault Refusal :=
  .next (issue s a (.alu .mulh f))

/-- mulhu (R124). -/
def execMulhu (a : Agent) (f : FmtR) (s : State) : Host.Outcome State Fault Refusal :=
  .next (issue s a (.alu .mulhu f))

/-- div (R124). -/
def execDiv (a : Agent) (f : FmtR) (s : State) : Host.Outcome State Fault Refusal :=
  .next (issue s a (.alu .div f))

/-- divu (R124). -/
def execDivu (a : Agent) (f : FmtR) (s : State) : Host.Outcome State Fault Refusal :=
  .next (issue s a (.alu .divu f))

/-- rem (R124). -/
def execRem (a : Agent) (f : FmtR) (s : State) : Host.Outcome State Fault Refusal :=
  .next (issue s a (.alu .rem f))

/-- remu (R124). -/
def execRemu (a : Agent) (f : FmtR) (s : State) : Host.Outcome State Fault Refusal :=
  .next (issue s a (.alu .remu f))

/-- clz (R124). -/
def execClz (a : Agent) (f : FmtR) (s : State) : Host.Outcome State Fault Refusal :=
  .next (issue s a (.alu .clz f))

/-- ctz (R124). -/
def execCtz (a : Agent) (f : FmtR) (s : State) : Host.Outcome State Fault Refusal :=
  .next (issue s a (.alu .ctz f))

/-- popc (R124). -/
def execPopc (a : Agent) (f : FmtR) (s : State) : Host.Outcome State Fault Refusal :=
  .next (issue s a (.alu .popc f))

/-- addi (R125). -/
def execAddi (a : Agent) (f : FmtI) (s : State) : Host.Outcome State Fault Refusal :=
  .next (issue s a (.aluI .addi f))

/-- andi (R125). -/
def execAndi (a : Agent) (f : FmtI) (s : State) : Host.Outcome State Fault Refusal :=
  .next (issue s a (.aluI .andi f))

/-- ori (R125). -/
def execOri (a : Agent) (f : FmtI) (s : State) : Host.Outcome State Fault Refusal :=
  .next (issue s a (.aluI .ori f))

/-- xori (R125). -/
def execXori (a : Agent) (f : FmtI) (s : State) : Host.Outcome State Fault Refusal :=
  .next (issue s a (.aluI .xori f))

/-- slli (R125). -/
def execSlli (a : Agent) (f : FmtI) (s : State) : Host.Outcome State Fault Refusal :=
  .next (issue s a (.aluI .slli f))

/-- srli (R125). -/
def execSrli (a : Agent) (f : FmtI) (s : State) : Host.Outcome State Fault Refusal :=
  .next (issue s a (.aluI .srli f))

/-- srai (R125). -/
def execSrai (a : Agent) (f : FmtI) (s : State) : Host.Outcome State Fault Refusal :=
  .next (issue s a (.aluI .srai f))

/-- slti (R125). -/
def execSlti (a : Agent) (f : FmtI) (s : State) : Host.Outcome State Fault Refusal :=
  .next (issue s a (.aluI .slti f))

/-- sltiu (R125). -/
def execSltiu (a : Agent) (f : FmtI) (s : State) : Host.Outcome State Fault Refusal :=
  .next (issue s a (.aluI .sltiu f))

/-- lui (R125). -/
def execLui (a : Agent) (f : FmtI) (s : State) : Host.Outcome State Fault Refusal :=
  .next (issue s a (.aluI .lui f))

/-- apc (R125). -/
def execApc (a : Agent) (f : FmtI) (s : State) : Host.Outcome State Fault Refusal :=
  .next (issue s a (.aluI .apc f))

/-- li.l (R127). -/
def execLiL (a : Agent) (f : FmtL) (s : State) : Host.Outcome State Fault Refusal :=
  .next (issue s a (.liL f))

/-- lih (R127). -/
def execLih (a : Agent) (f : FmtL) (s : State) : Host.Outcome State Fault Refusal :=
  .next (issue s a (.lih f))

/-- addi.l (R127). -/
def execAddiL (a : Agent) (f : FmtL) (s : State) : Host.Outcome State Fault Refusal :=
  .next (issue s a (.addiL f))

end Sys2Proof.Machine
end

