-- ==== Sys2Proof/Machine/IsaSystem.lean ====
section
/-!
DEFINITION. The meanings of the Vorvar instructions: tensor, engine and system instructions (R136, R137, R142 to R144, R149 to R155). Each issues its own form for one agent.
-/
namespace Sys2Proof.Machine

/-- tzero (R136, R137). -/
def execTzero (a : Agent) (f : FmtT) (s : State) : Host.Outcome State Fault Refusal :=
  .next (issue s a (.tzero f))

/-- tload (R136, R137). -/
def execTload (a : Agent) (f : FmtT) (s : State) : Host.Outcome State Fault Refusal :=
  .next (issue s a (.tload f))

/-- tmac (R136, R137). -/
def execTmac (a : Agent) (f : FmtT) (s : State) : Host.Outcome State Fault Refusal :=
  .next (issue s a (.tmac f))

/-- tstore (R136, R137). -/
def execTstore (a : Agent) (f : FmtT) (s : State) : Host.Outcome State Fault Refusal :=
  .next (issue s a (.tstore f))

/-- enq (R142, R143). -/
def execEnq (a : Agent) (f : FmtI) (s : State) : Host.Outcome State Fault Refusal :=
  .next (issue s a (.enq f))

/-- waitc (R144). -/
def execWaitc (a : Agent) (f : FmtR) (s : State) : Host.Outcome State Fault Refusal :=
  .next (issue s a (.waitc f))

/-- csrr (R152, R154). -/
def execCsrr (a : Agent) (f : FmtI) (s : State) : Host.Outcome State Fault Refusal :=
  .next (issue s a (.csrr f))

/-- csrw (R152, R154). -/
def execCsrw (a : Agent) (f : FmtI) (s : State) : Host.Outcome State Fault Refusal :=
  .next (issue s a (.csrw f))

/-- fence (R149, R152). -/
def execFence (a : Agent) (rd rs1 : RegNum) (s : State) : Host.Outcome State Fault Refusal :=
  .next (issue s a (.fence rd rs1))

/-- fence.i (R150, R152). -/
def execFenceI (a : Agent) (rd rs1 : RegNum) (s : State) : Host.Outcome State Fault Refusal :=
  .next (issue s a (.fenceI rd rs1))

/-- bar (R151). -/
def execBar (a : Agent) (f : FmtI) (s : State) : Host.Outcome State Fault Refusal :=
  .next (issue s a (.bar f))

/-- yield (R102, R152). -/
def execYield (a : Agent) (rd rs1 : RegNum) (s : State) : Host.Outcome State Fault Refusal :=
  .next (issue s a (.yield rd rs1))

/-- halt (R98, R152). -/
def execHalt (a : Agent) (rd rs1 : RegNum) (s : State) : Host.Outcome State Fault Refusal :=
  .next (issue s a (.halt rd rs1))

/-- eret (R155). -/
def execEret (a : Agent) (rd rs1 : RegNum) (s : State) : Host.Outcome State Fault Refusal :=
  .next (issue s a (.eret rd rs1))

/-- csrw to STEPMARK (R87); `hi` is bits [15:12] of the immediate. -/
def execStepmark (a : Agent) (rd rs1 : RegNum) (hi : BitVec 4) (s : State) : Host.Outcome State Fault Refusal :=
  .next (issue s a (.csrw ⟨rd, rs1, hi ++ (0x010 : BitVec 12)⟩))

/-- csrw to STEPREPLAY (R88); `hi` is bits [15:12] of the immediate. -/
def execStepreplay (a : Agent) (rd rs1 : RegNum) (hi : BitVec 4) (s : State) : Host.Outcome State Fault Refusal :=
  .next (issue s a (.csrw ⟨rd, rs1, hi ++ (0x011 : BitVec 12)⟩))

/-- csrw to SWIRQ (R99, R152); `hi` is bits [15:12] of the immediate. -/
def execSwirq (a : Agent) (rd rs1 : RegNum) (hi : BitVec 4) (s : State) : Host.Outcome State Fault Refusal :=
  .next (issue s a (.csrw ⟨rd, rs1, hi ++ (0x020 : BitVec 12)⟩))

end Sys2Proof.Machine
end

