-- ==== Sys2Proof/Machine/IsaVector.lean ====
section
/-!
DEFINITION. The meanings of the Vorvar instructions: vector instructions (R129 to R135, R138, R139). Each issues its own form for one agent.
-/
namespace Sys2Proof.Machine

/-- vadd (R131). -/
def execVadd (a : Agent) (f : FmtV) (s : State) : Host.Outcome State Fault Refusal :=
  .next (issue s a (.varith .add f))

/-- vsub (R131). -/
def execVsub (a : Agent) (f : FmtV) (s : State) : Host.Outcome State Fault Refusal :=
  .next (issue s a (.varith .sub f))

/-- vmul (R131). -/
def execVmul (a : Agent) (f : FmtV) (s : State) : Host.Outcome State Fault Refusal :=
  .next (issue s a (.varith .mul f))

/-- vfma (R131). -/
def execVfma (a : Agent) (f : FmtV) (s : State) : Host.Outcome State Fault Refusal :=
  .next (issue s a (.varith .fma f))

/-- vmin (R131). -/
def execVmin (a : Agent) (f : FmtV) (s : State) : Host.Outcome State Fault Refusal :=
  .next (issue s a (.varith .min f))

/-- vmax (R131). -/
def execVmax (a : Agent) (f : FmtV) (s : State) : Host.Outcome State Fault Refusal :=
  .next (issue s a (.varith .max f))

/-- vand (R131). -/
def execVand (a : Agent) (f : FmtV) (s : State) : Host.Outcome State Fault Refusal :=
  .next (issue s a (.varith .and f))

/-- vor (R131). -/
def execVor (a : Agent) (f : FmtV) (s : State) : Host.Outcome State Fault Refusal :=
  .next (issue s a (.varith .or f))

/-- vxor (R131). -/
def execVxor (a : Agent) (f : FmtV) (s : State) : Host.Outcome State Fault Refusal :=
  .next (issue s a (.varith .xor f))

/-- vsll (R131). -/
def execVsll (a : Agent) (f : FmtV) (s : State) : Host.Outcome State Fault Refusal :=
  .next (issue s a (.varith .sll f))

/-- vsrl (R131). -/
def execVsrl (a : Agent) (f : FmtV) (s : State) : Host.Outcome State Fault Refusal :=
  .next (issue s a (.varith .srl f))

/-- vsra (R131). -/
def execVsra (a : Agent) (f : FmtV) (s : State) : Host.Outcome State Fault Refusal :=
  .next (issue s a (.varith .sra f))

/-- vabs (R131). -/
def execVabs (a : Agent) (f : FmtV) (s : State) : Host.Outcome State Fault Refusal :=
  .next (issue s a (.varith .abs f))

/-- vneg (R131). -/
def execVneg (a : Agent) (f : FmtV) (s : State) : Host.Outcome State Fault Refusal :=
  .next (issue s a (.varith .neg f))

/-- vdiv (R131). -/
def execVdiv (a : Agent) (f : FmtV) (s : State) : Host.Outcome State Fault Refusal :=
  .next (issue s a (.varith .div f))

/-- vsqrt (R131). -/
def execVsqrt (a : Agent) (f : FmtV) (s : State) : Host.Outcome State Fault Refusal :=
  .next (issue s a (.varith .sqrt f))

/-- vcmp: `cond` is the condition (R132). -/
def execVcmp (a : Agent) (cond : BitVec 4) (f : FmtV) (s : State) : Host.Outcome State Fault Refusal :=
  .next (issue s a (.vcmp cond.toNat f))

/-- pand (R133). -/
def execPand (a : Agent) (f : FmtV) (s : State) : Host.Outcome State Fault Refusal :=
  .next (issue s a (.pred .and f))

/-- por (R133). -/
def execPor (a : Agent) (f : FmtV) (s : State) : Host.Outcome State Fault Refusal :=
  .next (issue s a (.pred .or f))

/-- pxor (R133). -/
def execPxor (a : Agent) (f : FmtV) (s : State) : Host.Outcome State Fault Refusal :=
  .next (issue s a (.pred .xor f))

/-- pandn (R133). -/
def execPandn (a : Agent) (f : FmtV) (s : State) : Host.Outcome State Fault Refusal :=
  .next (issue s a (.pred .andn f))

/-- pnot (R133). -/
def execPnot (a : Agent) (f : FmtV) (s : State) : Host.Outcome State Fault Refusal :=
  .next (issue s a (.pred .not f))

/-- pset (R133). -/
def execPset (a : Agent) (f : FmtV) (s : State) : Host.Outcome State Fault Refusal :=
  .next (issue s a (.pred .set f))

/-- pget (R133). -/
def execPget (a : Agent) (f : FmtV) (s : State) : Host.Outcome State Fault Refusal :=
  .next (issue s a (.pred .get f))

/-- vmov (R134). -/
def execVmov (a : Agent) (f : FmtV) (s : State) : Host.Outcome State Fault Refusal :=
  .next (issue s a (.vmov f))

/-- vsel (R134). -/
def execVsel (a : Agent) (f : FmtV) (s : State) : Host.Outcome State Fault Refusal :=
  .next (issue s a (.vsel f))

/-- vbcast (R134). -/
def execVbcast (a : Agent) (f : FmtV) (s : State) : Host.Outcome State Fault Refusal :=
  .next (issue s a (.vbcast f))

/-- vext (R134). -/
def execVext (a : Agent) (f : FmtV) (s : State) : Host.Outcome State Fault Refusal :=
  .next (issue s a (.vext f))

/-- vins (R134). -/
def execVins (a : Agent) (f : FmtV) (s : State) : Host.Outcome State Fault Refusal :=
  .next (issue s a (.vins f))

/-- vperm (R134). -/
def execVperm (a : Agent) (f : FmtV) (s : State) : Host.Outcome State Fault Refusal :=
  .next (issue s a (.vperm f))

/-- vcvt (R134). -/
def execVcvt (a : Agent) (f : FmtV) (s : State) : Host.Outcome State Fault Refusal :=
  .next (issue s a (.vcvt f))

/-- vred (R134). -/
def execVred (a : Agent) (f : FmtV) (s : State) : Host.Outcome State Fault Refusal :=
  .next (issue s a (.vred f))

/-- vidx (R134). -/
def execVidx (a : Agent) (f : FmtV) (s : State) : Host.Outcome State Fault Refusal :=
  .next (issue s a (.vidx f))

/-- vlds (R135). -/
def execVlds (a : Agent) (f : FmtV) (s : State) : Host.Outcome State Fault Refusal :=
  .next (issue s a (.vlds f))

/-- vgather (R135). -/
def execVgather (a : Agent) (f : FmtV) (s : State) : Host.Outcome State Fault Refusal :=
  .next (issue s a (.vgather f))

/-- vscatter (R135). -/
def execVscatter (a : Agent) (f : FmtV) (s : State) : Host.Outcome State Fault Refusal :=
  .next (issue s a (.vscatter f))

/-- vld (R135). -/
def execVld (a : Agent) (f : FmtVM) (s : State) : Host.Outcome State Fault Refusal :=
  .next (issue s a (.vld f))

/-- vst (R135). -/
def execVst (a : Agent) (f : FmtVM) (s : State) : Host.Outcome State Fault Refusal :=
  .next (issue s a (.vst f))

/-- troute (R138). -/
def execTroute (a : Agent) (f : FmtV) (s : State) : Host.Outcome State Fault Refusal :=
  .next (issue s a (.troute f))

/-- vlut (R139). -/
def execVlut (a : Agent) (f : FmtV) (s : State) : Host.Outcome State Fault Refusal :=
  .next (issue s a (.vlut f))

/-- scree (The shuffle). -/
def execScree (a : Agent) (f : FmtV) (s : State) : Host.Outcome State Fault Refusal :=
  .next (issue s a (.scree f))

/-- perm (The shuffle). -/
def execPerm (a : Agent) (f : FmtR) (s : State) : Host.Outcome State Fault Refusal :=
  .next (issue s a (.perm f))

end Sys2Proof.Machine
end

