-- ==== Sys2Proof/Machine/Replace.lean ====
section
/-!
DEFINITION. Replacement attempts in progress (R229 to R233): the end of a permutation job, requests and replies.
-/
namespace Sys2Proof.Machine

/-! ## Attempts -/

/-- The tag of the next request (R230). -/
def nextTag (s : State) : Nat × State := (s.replSeq, { s with replSeq := (s.replSeq + 1) % 2 ^ 32 })

/-- The attempt that a REPLACE job computed goes to its owner (R229): this module processes it, or a request is sent.
The request tag is the attempt's number among those asked for. -/
def startTry (s : State) (d : Nat) (j : Job) : State :=
  let pos := leAt j.desc 0x18 6
  let a := leAt j.desc 0x14 1
  let due := match tryOf s j.jobId pos with
    | none => a == 1
    | some t => (t.phase == .due && t.attempt == a) || (t.phase == .here && t.attempt + 1 == a)
  if !due then s
  else
    let prim := leAt j.eng 6 2
    let fl := leAt j.eng 10 1
    let idx := leAt j.eng 0 6
    let c := permCtx s d j.jobId
    if fl.testBit 1 then setTry s ⟨j.jobId, pos, a, .here, 0, prim, none, idx⟩
    else
      let (tag, s) := nextTag s
      sendRepl (setTry s ⟨j.jobId, pos, a, .sent, tag, prim, if fl.testBit 0 then some (leAt j.eng 8 2) else none, idx⟩)
        j.jobId prim (requestBytes j.jobId a (pos / c.B) pos idx c.self tag)

/-- Counters of R233 at the end of a job, and the attempt it belongs to. -/
def permEndEffects (s : State) (d : Nat) (j : Job) : State :=
  if j.op = 3 then
    let s := if leAt j.desc 0x14 1 = 1 ∧ j.status ≠ 0x01 then s.satAdd Fld.PERM_REPL_FIRST d 1 else s
    if j.status ≠ 0 then s
    else
      let s := s.satAdd Fld.PERM_REPL_ALL d 1
      let s := if (leAt j.eng 10 1).testBit 1 then s else s.satAdd Fld.PERM_VOID_REMOTE d 1
      startTry s d j
  else if j.op = 4 ∧ j.status = 0 then
    let pos := leAt j.desc 0x18 6
    let s := s.satAdd Fld.PERM_VOID_VOID d 1
    { dropTry s j.jobId pos with slots := s.slots ++ [⟨j.jobId, pos, false⟩] }
  else s

/-- A permutation job ends (R225, R233). -/
def permEnd (s : State) (d i : Nat) : State :=
  let u : EngUnit := .perm d
  match (endable s u)[i]? with
  | none => s
  | some j =>
    match endReady s u j with
    | .stall s => s
    | .go =>
      let f := finishWrites s u j
      let c := permCtx s d j.jobId
      (endBeyond (permEndEffects (endRecord f.st u f.job) d f.job) j (permCtxValid c && stepBeyond c.B (permStep c j))).modAdd
        Fld.PERM_STATUS_DONE d 1

/-- PERM_JOB_END (R225). -/
def execPermJobEnd (d : PDie) (i : Nat) (s : State) : Host.Outcome State Fault Refusal := .next (permEnd s d i)

/-! ## Requests and replies -/

/-- The directory of a job's catalog. -/
def catalogDir (j : LoadedJob) : Span := (leAt j.desc 0x40 8, 32 * leAt j.desc 0x48 4)

/-- The address of the catalog entry of a sample index, found through the job's directory (R26). -/
def catalogAt (s : State) (j : LoadedJob) (idx : Nat) : Option Nat :=
  let segs := (List.range (leAt j.desc 0x48 4)).map (fun i => peek s ((catalogDir j).1 + 32 * i) 32)
  (segs.find? (fun e => leAt e 0 8 ≤ idx && idx < leAt e 8 8)).map (fun e => leAt e 0x10 8 + (idx - leAt e 0 8) * 32)

/-- The catalog entry of a sample index (R27). -/
def catalogEntry (s : State) (j : LoadedJob) (idx : Nat) : Option (List Byte) := (catalogAt s j idx).map (fun a => peek s a 32)

/-- What a lookup of a sample index reads. -/
def catalogSpans (s : State) (j : LoadedJob) (idx : Nat) : List Span := catalogDir j :: ((catalogAt s j idx).map (fun a => (a, 32))).toList

/-- A corrupt catalog entry (R28): ABSENT, or its check value fails. -/
def entryCorrupt (e : List Byte) : Bool := (leAt e 0x0E 2).testBit 2 || crc32c (e.take 0x1C) != leAt e 0x1C 4

/-- The reply to a request (R230, R231): outcome and status. `o` is what the job's programs report of the sample. A poisoned line of
the catalog fails the step (R324). The status of that, of a job this module does not have, and of a corrupt entry, is a free value (no rule names one). A request for a step
beyond the job's last ends the job (R213). -/
def serveRequest (s : State) (job step idx : Nat) (o : ServeOutcome) : Nat × Nat × State :=
  match s.jobs.find? (fun j => j.id == job) with
  | none => let (c, s) := anyFailure s; (4, c, s)
  | some j =>
    if stepBeyond (leAt j.desc 0x28 4) step then (4, 0x05, stopJob s job 0x05)
    else
    let (bad, s) := readSpans s 0x10 (catalogSpans s j idx)
    if bad then (let (c, s) := anyFailure s; (4, c, s))
    else
    match catalogEntry s j idx with
    | none => (3, 0, s)
    | some e =>
      if entryCorrupt e then (let (c, s) := anyFailure s; (2, c, s))
      else
        match o with
        | .written => (0, 0, s)
        | .rejected => (1, 0, s)
        | .corrupt st => let (c, s) := asFailure s st.toNat; (2, c, s)
        | .refused st => let (c, s) := asFailure s st.toNat; (4, c, s)

/-- What serving a request reads of memory. -/
def requestSpans (s : State) (r : ReplRequest) : List Span :=
  match s.jobs.find? (fun j => j.id == r.job.toNat) with
  | some j => if stepBeyond (leAt j.desc 0x28 4) r.step.toNat then [] else catalogSpans s j r.index.toNat
  | none => []

/-- REPLACEMENT_REQUEST (R231): `o` is the outcome of the work, reported once the consumer has acknowledged the write
if there was one. -/
def execReplacementRequest (r : ReplRequest) (o : ServeOutcome) (s : State) : Host.Outcome State Fault Refusal :=
  match prepare s 0x10 (requestSpans s r) [] with
  | .stall s => .next s
  | .go =>
    let (out, st, s) := serveRequest s r.job.toNat r.step.toNat r.index.toNat o
    .next (dropHost (sendRepl s r.job.toNat r.serving.toNat
      (replyBytes r.job.toNat r.attempt.toNat out st r.position.toNat r.tag.toNat (moduleId s))) 0x10)

/-- REPLACEMENT_REPLY (R229, R231, R46): the slot is counted, the alternate is asked, or the attempt fails. -/
def execReplacementReply (r : ReplReply) (s : State) : Host.Outcome State Fault Refusal :=
  match tryOf s r.job.toNat r.position.toNat with
  | none => .next s
  | some t =>
    if t.phase ≠ .sent ∨ t.attempt ≠ r.attempt.toNat ∨ t.tag ≠ r.tag.toNat then .next s
    else
      match r.outcome.toNat with
      | 0 => .next { dropTry s t.job t.position with slots := s.slots ++ [⟨t.job, t.position, true⟩] }
      | 3 | 4 =>
        match t.alternate with
        | some alt =>
          let c := permCtx s 0 t.job
          let (tag, s) := nextTag s
          .next (sendRepl (setTry s { t with dest := alt, alternate := none, tag := tag }) t.job alt
            (requestBytes t.job t.attempt (t.position / c.B) t.position t.index (moduleId s) tag))
        | none => .next (failTry s t)
      | _ => .next (failTry s t)

end Sys2Proof.Machine
end

