-- ==== Sys2Proof/Machine/RoceRx.lean ====
section
/-!
DEFINITION. Packets received for the RoCE v2 engine (R386, R388, R400), and its timers.
-/
namespace Sys2Proof.Machine

/-- The queue pair that a destination QPN names on an X-die (R386). -/
def qpOfQpn (x qpn : Nat) : Option Nat :=
  if 0x100 + 2048 * x ≤ qpn ∧ qpn < 0x100 + 2048 * (x + 1) then some (qpn - (0x100 + 2048 * x)) else none

/-- Is the opcode one that the engine receives: Acknowledge with AETH, or CNP (R386)? The row says which of the two it is. -/
def roceKnown (p : RoceRx) : Bool := p.opcode == 0x11 || p.opcode == 0x81

/-- A RoCE packet arrives: its queue pair, where it reaches one. Every packet that the engine does not support, or whose checks
fail, is dropped and counted (R386). -/
def rxRoce (s : State) (x : Nat) (p : RoceRx) : Except State (Nat × State) :=
  let (ok, s) := ingress s x p.info
  if !ok then .error s
  else
    match qpOfQpn x p.qpn.toNat with
    | some n => if p.bad || !roceKnown p then .error (s.satAdd Fld.ROCE_CNT_DROPPED x 1) else .ok (n, s)
    | none => .error (s.satAdd Fld.ROCE_CNT_DROPPED x 1)

/-- Run a packet's meaning where it reaches its queue pair; Furrow messages that wait for the limit of R377 may then start. -/
def onRoce (s : State) (x : Nat) (p : RoceRx) (f : Nat → State → State) : Host.Outcome State Fault Refusal :=
  match rxRoce s x p with
  | .error s => .next s
  | .ok (n, s) => .next (pumpUnsent (f n s) x)

/-- ROCE_ACK (R388). -/
def execRoceAck (x : XDie) (p : RoceRx) (psn : BitVec 24) (s : State) : Host.Outcome State Fault Refusal :=
  onRoce s x p (fun n s => roceAck s x n psn.toNat)

/-- PSN_SEQUENCE_ERROR_NAK (R388). -/
def execPsnSequenceErrorNak (x : XDie) (p : RoceRx) (s : State) : Host.Outcome State Fault Refusal :=
  onRoce s x p (fun n s => spendRetry (s.satAdd Fld.ROCE_CNT_NAK x 1) x n)

/-- RNR_NAK (R388). -/
def execRnrNak (x : XDie) (p : RoceRx) (s : State) : Host.Outcome State Fault Refusal :=
  onRoce s x p (fun n s => roceRnr (s.satAdd Fld.ROCE_CNT_NAK x 1) x n)

/-- FATAL_NAK (R388). -/
def execFatalNak (x : XDie) (p : RoceRx) (k : FatalKind) (s : State) : Host.Outcome State Fault Refusal :=
  onRoce s x p (fun n s =>
    let s := s.satAdd Fld.ROCE_CNT_NAK x 1
    if (qpAt s x n).st ≠ 1 then s else qpError s x n (if k = .remoteAccess then 0x07 else 0x82) true)

/-- CNP (R383): `cycles` XCLK cycles since the last decrease. -/
def execCnp (x : XDie) (p : RoceRx) (cycles : BitVec 32) (s : State) : Host.Outcome State Fault Refusal :=
  onRoce s x p (fun n s => roceCnp (s.satAdd Fld.ROCE_CNT_CNP x 1) x n cycles.toNat)

/-- QP_RESET (R387). -/
def execQpReset (x : XDie) (i : Fin 2048) (s : State) : Host.Outcome State Fault Refusal := .next (pumpUnsent (qpReset s x i) x)

/-- RNR_TIMER_EXPIRY (R388). -/
def execRnrTimerExpiry (x : XDie) (i : Fin 2048) (s : State) : Host.Outcome State Fault Refusal :=
  let q := qpAt s x i
  if q.st ≠ 1 ∨ !q.rnrWait then .next s else .next (pumpUnsent (goBackN (setQp s x i { q with rnrWait := false }) x i) x)

/-- ACK_TIMEOUT (R388): with requests outstanding. -/
def execAckTimeout (x : XDie) (i : Fin 2048) (s : State) : Host.Outcome State Fault Refusal :=
  if (qpAt s x i).reqs.isEmpty then .next s else .next (pumpUnsent (spendRetry s x i) x)

end Sys2Proof.Machine
end

