-- ==== Sys2Proof/Machine/Dispatch.lean ====
section
/-!
DEFINITION. The dispatch of a command to its meaning, one arm per constructor of Instr.
-/
namespace Sys2Proof.Machine

def exec (i : Instr) (s : State) : Host.Outcome State Fault Refusal :=
  match i with
  | .csrWrite m off size v => Sys2Proof.Machine.execCsrWrite m off size v s
  | .unmappedAccess m addr write => Sys2Proof.Machine.execUnmappedAccess m addr write s
  | .jobLoad k n plan => Sys2Proof.Machine.execJobLoad k n plan s
  | .counterWrite name a inc => Sys2Proof.Machine.execCounterWrite name a inc s
  | .hqCfgWrite q a => Sys2Proof.Machine.execHqCfgWrite q a s
  | .hqPost m q a => Sys2Proof.Machine.execHqPost m q a s
  | .hqDone m q a => Sys2Proof.Machine.execHqDone m q a s
  | .add a f => Sys2Proof.Machine.execAdd a f s
  | .sub a f => Sys2Proof.Machine.execSub a f s
  | .and a f => Sys2Proof.Machine.execAnd a f s
  | .or a f => Sys2Proof.Machine.execOr a f s
  | .xor a f => Sys2Proof.Machine.execXor a f s
  | .sll a f => Sys2Proof.Machine.execSll a f s
  | .srl a f => Sys2Proof.Machine.execSrl a f s
  | .sra a f => Sys2Proof.Machine.execSra a f s
  | .slt a f => Sys2Proof.Machine.execSlt a f s
  | .sltu a f => Sys2Proof.Machine.execSltu a f s
  | .min a f => Sys2Proof.Machine.execMin a f s
  | .max a f => Sys2Proof.Machine.execMax a f s
  | .minu a f => Sys2Proof.Machine.execMinu a f s
  | .maxu a f => Sys2Proof.Machine.execMaxu a f s
  | .mul a f => Sys2Proof.Machine.execMul a f s
  | .mulh a f => Sys2Proof.Machine.execMulh a f s
  | .mulhu a f => Sys2Proof.Machine.execMulhu a f s
  | .div a f => Sys2Proof.Machine.execDiv a f s
  | .divu a f => Sys2Proof.Machine.execDivu a f s
  | .rem a f => Sys2Proof.Machine.execRem a f s
  | .remu a f => Sys2Proof.Machine.execRemu a f s
  | .clz a f => Sys2Proof.Machine.execClz a f s
  | .ctz a f => Sys2Proof.Machine.execCtz a f s
  | .popc a f => Sys2Proof.Machine.execPopc a f s
  | .addi a f => Sys2Proof.Machine.execAddi a f s
  | .andi a f => Sys2Proof.Machine.execAndi a f s
  | .ori a f => Sys2Proof.Machine.execOri a f s
  | .xori a f => Sys2Proof.Machine.execXori a f s
  | .slli a f => Sys2Proof.Machine.execSlli a f s
  | .srli a f => Sys2Proof.Machine.execSrli a f s
  | .srai a f => Sys2Proof.Machine.execSrai a f s
  | .slti a f => Sys2Proof.Machine.execSlti a f s
  | .sltiu a f => Sys2Proof.Machine.execSltiu a f s
  | .lui a f => Sys2Proof.Machine.execLui a f s
  | .apc a f => Sys2Proof.Machine.execApc a f s
  | .ldB a f => Sys2Proof.Machine.execLdB a f s
  | .ldBu a f => Sys2Proof.Machine.execLdBu a f s
  | .ldH a f => Sys2Proof.Machine.execLdH a f s
  | .ldHu a f => Sys2Proof.Machine.execLdHu a f s
  | .ldW a f => Sys2Proof.Machine.execLdW a f s
  | .ldWu a f => Sys2Proof.Machine.execLdWu a f s
  | .ldD a f => Sys2Proof.Machine.execLdD a f s
  | .stB a f => Sys2Proof.Machine.execStB a f s
  | .stH a f => Sys2Proof.Machine.execStH a f s
  | .stW a f => Sys2Proof.Machine.execStW a f s
  | .stD a f => Sys2Proof.Machine.execStD a f s
  | .liL a f => Sys2Proof.Machine.execLiL a f s
  | .lih a f => Sys2Proof.Machine.execLih a f s
  | .addiL a f => Sys2Proof.Machine.execAddiL a f s
  | .jalL a f => Sys2Proof.Machine.execJalL a f s
  | .ldBL a f => Sys2Proof.Machine.execLdBL a f s
  | .ldBuL a f => Sys2Proof.Machine.execLdBuL a f s
  | .ldHL a f => Sys2Proof.Machine.execLdHL a f s
  | .ldHuL a f => Sys2Proof.Machine.execLdHuL a f s
  | .ldWL a f => Sys2Proof.Machine.execLdWL a f s
  | .ldWuL a f => Sys2Proof.Machine.execLdWuL a f s
  | .ldDL a f => Sys2Proof.Machine.execLdDL a f s
  | .stBL a f => Sys2Proof.Machine.execStBL a f s
  | .stHL a f => Sys2Proof.Machine.execStHL a f s
  | .stWL a f => Sys2Proof.Machine.execStWL a f s
  | .stDL a f => Sys2Proof.Machine.execStDL a f s
  | .beq a f => Sys2Proof.Machine.execBeq a f s
  | .bne a f => Sys2Proof.Machine.execBne a f s
  | .blt a f => Sys2Proof.Machine.execBlt a f s
  | .bge a f => Sys2Proof.Machine.execBge a f s
  | .bltu a f => Sys2Proof.Machine.execBltu a f s
  | .bgeu a f => Sys2Proof.Machine.execBgeu a f s
  | .jal a f => Sys2Proof.Machine.execJal a f s
  | .jalr a f => Sys2Proof.Machine.execJalr a f s
  | .vadd a f => Sys2Proof.Machine.execVadd a f s
  | .vsub a f => Sys2Proof.Machine.execVsub a f s
  | .vmul a f => Sys2Proof.Machine.execVmul a f s
  | .vfma a f => Sys2Proof.Machine.execVfma a f s
  | .vmin a f => Sys2Proof.Machine.execVmin a f s
  | .vmax a f => Sys2Proof.Machine.execVmax a f s
  | .vand a f => Sys2Proof.Machine.execVand a f s
  | .vor a f => Sys2Proof.Machine.execVor a f s
  | .vxor a f => Sys2Proof.Machine.execVxor a f s
  | .vsll a f => Sys2Proof.Machine.execVsll a f s
  | .vsrl a f => Sys2Proof.Machine.execVsrl a f s
  | .vsra a f => Sys2Proof.Machine.execVsra a f s
  | .vabs a f => Sys2Proof.Machine.execVabs a f s
  | .vneg a f => Sys2Proof.Machine.execVneg a f s
  | .vdiv a f => Sys2Proof.Machine.execVdiv a f s
  | .vsqrt a f => Sys2Proof.Machine.execVsqrt a f s
  | .vcmp a cond f => Sys2Proof.Machine.execVcmp a cond f s
  | .pand a f => Sys2Proof.Machine.execPand a f s
  | .por a f => Sys2Proof.Machine.execPor a f s
  | .pxor a f => Sys2Proof.Machine.execPxor a f s
  | .pandn a f => Sys2Proof.Machine.execPandn a f s
  | .pnot a f => Sys2Proof.Machine.execPnot a f s
  | .pset a f => Sys2Proof.Machine.execPset a f s
  | .pget a f => Sys2Proof.Machine.execPget a f s
  | .vmov a f => Sys2Proof.Machine.execVmov a f s
  | .vsel a f => Sys2Proof.Machine.execVsel a f s
  | .vbcast a f => Sys2Proof.Machine.execVbcast a f s
  | .vext a f => Sys2Proof.Machine.execVext a f s
  | .vins a f => Sys2Proof.Machine.execVins a f s
  | .vperm a f => Sys2Proof.Machine.execVperm a f s
  | .vcvt a f => Sys2Proof.Machine.execVcvt a f s
  | .vred a f => Sys2Proof.Machine.execVred a f s
  | .vidx a f => Sys2Proof.Machine.execVidx a f s
  | .vld a f => Sys2Proof.Machine.execVld a f s
  | .vst a f => Sys2Proof.Machine.execVst a f s
  | .vlds a f => Sys2Proof.Machine.execVlds a f s
  | .vgather a f => Sys2Proof.Machine.execVgather a f s
  | .vscatter a f => Sys2Proof.Machine.execVscatter a f s
  | .troute a f => Sys2Proof.Machine.execTroute a f s
  | .vlut a f => Sys2Proof.Machine.execVlut a f s
  | .scree a f => Sys2Proof.Machine.execScree a f s
  | .perm a f => Sys2Proof.Machine.execPerm a f s
  | .tzero a f => Sys2Proof.Machine.execTzero a f s
  | .tload a f => Sys2Proof.Machine.execTload a f s
  | .tmac a f => Sys2Proof.Machine.execTmac a f s
  | .tstore a f => Sys2Proof.Machine.execTstore a f s
  | .enq a f => Sys2Proof.Machine.execEnq a f s
  | .waitc a f => Sys2Proof.Machine.execWaitc a f s
  | .waitcRelease a => Sys2Proof.Machine.execWaitcRelease a s
  | .csrr a f => Sys2Proof.Machine.execCsrr a f s
  | .csrw a f => Sys2Proof.Machine.execCsrw a f s
  | .stepmark a rd rs1 hi => Sys2Proof.Machine.execStepmark a rd rs1 hi s
  | .stepreplay a rd rs1 hi => Sys2Proof.Machine.execStepreplay a rd rs1 hi s
  | .swirq a rd rs1 hi => Sys2Proof.Machine.execSwirq a rd rs1 hi s
  | .fence a rd rs1 => Sys2Proof.Machine.execFence a rd rs1 s
  | .fenceI a rd rs1 => Sys2Proof.Machine.execFenceI a rd rs1 s
  | .bar a f => Sys2Proof.Machine.execBar a f s
  | .yield a rd rs1 => Sys2Proof.Machine.execYield a rd rs1 s
  | .halt a rd rs1 => Sys2Proof.Machine.execHalt a rd rs1 s
  | .eret a rd rs1 => Sys2Proof.Machine.execEret a rd rs1 s
  | .stepReplay c => Sys2Proof.Machine.execStepReplay c s
  | .codeLineReread c => Sys2Proof.Machine.execCodeLineReread c s
  | .mcTrap k => Sys2Proof.Machine.execMcTrap k s
  | .start c => Sys2Proof.Machine.execStart c s
  | .stop c => Sys2Proof.Machine.execStop c s
  | .stopRequest c => Sys2Proof.Machine.execStopRequest c s
  | .resume c => Sys2Proof.Machine.execResume c s
  | .ctxConfigWrite m c r a => Sys2Proof.Machine.execCtxConfigWrite m c r a s
  | .accOwnWrite t a => Sys2Proof.Machine.execAccOwnWrite t a s
  | .stookIrqPendClear k a hw => Sys2Proof.Machine.execStookIrqPendClear k a hw s
  | .quantumExpiry c => Sys2Proof.Machine.execQuantumExpiry c s
  | .waitSwitchTimeout c => Sys2Proof.Machine.execWaitSwitchTimeout c s
  | .hardwareSwitch c => Sys2Proof.Machine.execHardwareSwitch c s
  | .dmaCopy k => Sys2Proof.Machine.execDmaCopy k s
  | .dmaCopy2d k => Sys2Proof.Machine.execDmaCopy2d k s
  | .dmaFill k => Sys2Proof.Machine.execDmaFill k s
  | .dmaJobEnd k idx => Sys2Proof.Machine.execDmaJobEnd k idx s
  | .dmaAbort k a => Sys2Proof.Machine.execDmaAbort k a s
  | .preview k => Sys2Proof.Machine.execPreview k s
  | .decode k => Sys2Proof.Machine.execDecode k s
  | .thresherJobEnd k idx => Sys2Proof.Machine.execThresherJobEnd k idx s
  | .thrAbort k a => Sys2Proof.Machine.execThrAbort k a s
  | .thrCfgLock k a => Sys2Proof.Machine.execThrCfgLock k a s
  | .permOwned d => Sys2Proof.Machine.execPermOwned d s
  | .permMap d => Sys2Proof.Machine.execPermMap d s
  | .permReplace d => Sys2Proof.Machine.execPermReplace d s
  | .permVoid d => Sys2Proof.Machine.execPermVoid d s
  | .lookAheadGateOpen d idx => Sys2Proof.Machine.execLookAheadGateOpen d idx s
  | .permJobEnd d idx => Sys2Proof.Machine.execPermJobEnd d idx s
  | .permAbort d a => Sys2Proof.Machine.execPermAbort d a s
  | .replacementRequest r o => Sys2Proof.Machine.execReplacementRequest r o s
  | .replacementReply r => Sys2Proof.Machine.execReplacementReply r s
  | .balerImage d => Sys2Proof.Machine.execBalerImage d s
  | .balerCopy d => Sys2Proof.Machine.execBalerCopy d s
  | .balerVoid d => Sys2Proof.Machine.execBalerVoid d s
  | .balerClose d => Sys2Proof.Machine.execBalerClose d s
  | .balerZero d => Sys2Proof.Machine.execBalerZero d s
  | .windowGateOpen d idx => Sys2Proof.Machine.execWindowGateOpen d idx s
  | .balerJobEnd d idx => Sys2Proof.Machine.execBalerJobEnd d idx s
  | .balerAbort d a => Sys2Proof.Machine.execBalerAbort d a s
  | .tokLoad d => Sys2Proof.Machine.execTokLoad d s
  | .tokUnload d => Sys2Proof.Machine.execTokUnload d s
  | .tokTokenize d => Sys2Proof.Machine.execTokTokenize d s
  | .tokOpen d => Sys2Proof.Machine.execTokOpen d s
  | .tokenStep d => Sys2Proof.Machine.execTokenStep d s
  | .tokenClose d => Sys2Proof.Machine.execTokenClose d s
  | .tokenJobEnd d idx => Sys2Proof.Machine.execTokenJobEnd d idx s
  | .tokAbort d a => Sys2Proof.Machine.execTokAbort d a s
  | .flSubmit x w m a => Sys2Proof.Machine.execFlSubmit x w m a s
  | .flashRead x idx f => Sys2Proof.Machine.execFlashRead x idx f s
  | .flashWrite x idx f => Sys2Proof.Machine.execFlashWrite x idx f s
  | .flashTrim x idx f => Sys2Proof.Machine.execFlashTrim x idx f s
  | .flashFlush x idx f => Sys2Proof.Machine.execFlashFlush x idx f s
  | .flashFormat x idx f => Sys2Proof.Machine.execFlashFormat x idx f s
  | .flashTaskEnd x idx => Sys2Proof.Machine.execFlashTaskEnd x idx s
  | .flAbort x a => Sys2Proof.Machine.execFlAbort x a s
  | .mapPageFill x idx f => Sys2Proof.Machine.execMapPageFill x idx f s
  | .superblockVerify x v idx bad f => Sys2Proof.Machine.execSuperblockVerify x v idx bad f s
  | .garbageCollection x v => Sys2Proof.Machine.execGarbageCollection x v s
  | .relocateGranule x v f => Sys2Proof.Machine.execRelocateGranule x v f s
  | .keyLoad x m a => Sys2Proof.Machine.execKeyLoad x m a s
  | .keyClear x m a => Sys2Proof.Machine.execKeyClear x m a s
  | .flKeyData x k m a => Sys2Proof.Machine.execFlKeyData x k m a s
  | .flVolCfgWrite x v a => Sys2Proof.Machine.execFlVolCfgWrite x v a s
  | .memIlLock a => Sys2Proof.Machine.execMemIlLock a s
  | .dramRead m line => Sys2Proof.Machine.execDramRead m line s
  | .dramWrite m line off bs => Sys2Proof.Machine.execDramWrite m line off bs s
  | .correctedWriteback idx => Sys2Proof.Machine.execCorrectedWriteback idx s
  | .refresh ch rank cycles delayed => Sys2Proof.Machine.execRefresh ch rank cycles delayed s
  | .poolEnable m p a => Sys2Proof.Machine.execPoolEnable m p a s
  | .poolReady p => Sys2Proof.Machine.execPoolReady p s
  | .poolAlloc d => Sys2Proof.Machine.execPoolAlloc d s
  | .poolFree d => Sys2Proof.Machine.execPoolFree d s
  | .poolAbort d a => Sys2Proof.Machine.execPoolAbort d a s
  | .streamInflate e => Sys2Proof.Machine.execStreamInflate e s
  | .streamDeflate e => Sys2Proof.Machine.execStreamDeflate e s
  | .streamZstd e => Sys2Proof.Machine.execStreamZstd e s
  | .streamCrc e => Sys2Proof.Machine.execStreamCrc e s
  | .streamAlive e => Sys2Proof.Machine.execStreamAlive e s
  | .streamRecord e => Sys2Proof.Machine.execStreamRecord e s
  | .streamJobEnd e idx => Sys2Proof.Machine.execStreamJobEnd e idx s
  | .streamAbort e a => Sys2Proof.Machine.execStreamAbort e a s
  | .streamCfgLock e a => Sys2Proof.Machine.execStreamCfgLock e a s
  | .portCfgWrite x p r a => Sys2Proof.Machine.execPortCfgWrite x p r a s
  | .linkUp x p idx => Sys2Proof.Machine.execLinkUp x p idx s
  | .linkDown x p idx => Sys2Proof.Machine.execLinkDown x p idx s
  | .portReplayReq x p idx seq => Sys2Proof.Machine.execPortReplayReq x p idx seq s
  | .cmisPoll x p present cmis r => Sys2Proof.Machine.execCmisPoll x p present cmis r s
  | .furrowWrite x q => Sys2Proof.Machine.execFurrowWrite x q s
  | .furrowSend x q => Sys2Proof.Machine.execFurrowSend x q s
  | .furrowRead x q => Sys2Proof.Machine.execFurrowRead x q s
  | .furrowAtomicAdd x q => Sys2Proof.Machine.execFurrowAtomicAdd x q s
  | .furrowWait x q => Sys2Proof.Machine.execFurrowWait x q s
  | .waitSatisfied x q => Sys2Proof.Machine.execWaitSatisfied x q s
  | .furSubmit m x a => Sys2Proof.Machine.execFurSubmit m x a s
  | .furSqCfgWrite m x q a => Sys2Proof.Machine.execFurSqCfgWrite m x q a s
  | .rxWrite x idx h payload => Sys2Proof.Machine.execRxWrite x idx h payload s
  | .rxSend x idx h payload => Sys2Proof.Machine.execRxSend x idx h payload s
  | .rxReadReq x idx h => Sys2Proof.Machine.execRxReadReq x idx h s
  | .rxReadResp x idx h payload => Sys2Proof.Machine.execRxReadResp x idx h payload s
  | .rxAtomicAdd x idx h payload => Sys2Proof.Machine.execRxAtomicAdd x idx h payload s
  | .rxAck x idx h gap => Sys2Proof.Machine.execRxAck x idx h gap s
  | .rxNak x idx h => Sys2Proof.Machine.execRxNak x idx h s
  | .rxSync x idx h => Sys2Proof.Machine.execRxSync x idx h s
  | .writePerformed x n => Sys2Proof.Machine.execWritePerformed x n s
  | .retransmitTimeout x n k => Sys2Proof.Machine.execRetransmitTimeout x n k s
  | .rnrResend x n k => Sys2Proof.Machine.execRnrResend x n k s
  | .entryFree x n cycles => Sys2Proof.Machine.execEntryFree x n cycles s
  | .syncSend x dst engine => Sys2Proof.Machine.execSyncSend x dst engine s
  | .rateIncrease x t => Sys2Proof.Machine.execRateIncrease x t s
  | .notReadyToken x p => Sys2Proof.Machine.execNotReadyToken x p s
  | .keyRegister a => Sys2Proof.Machine.execKeyRegister a s
  | .keyRevoke a => Sys2Proof.Machine.execKeyRevoke a s
  | .furRqCons m x n a => Sys2Proof.Machine.execFurRqCons m x n a s
  | .furEvqCons m x a => Sys2Proof.Machine.execFurEvqCons m x a s
  | .furAbort x a => Sys2Proof.Machine.execFurAbort x a s
  | .qpActivate x idx => Sys2Proof.Machine.execQpActivate x idx s
  | .qpReset x idx => Sys2Proof.Machine.execQpReset x idx s
  | .roceAck x p psn => Sys2Proof.Machine.execRoceAck x p psn s
  | .psnSequenceErrorNak x p => Sys2Proof.Machine.execPsnSequenceErrorNak x p s
  | .rnrNak x p => Sys2Proof.Machine.execRnrNak x p s
  | .rnrTimerExpiry x idx => Sys2Proof.Machine.execRnrTimerExpiry x idx s
  | .fatalNak x p k => Sys2Proof.Machine.execFatalNak x p k s
  | .ackTimeout x idx => Sys2Proof.Machine.execAckTimeout x idx s
  | .cnp x p cycles => Sys2Proof.Machine.execCnp x p cycles s
  | .frameSelect x sch cycles accept => Sys2Proof.Machine.execFrameSelect x sch cycles accept s
  | .egressEnqueue x => Sys2Proof.Machine.execEgressEnqueue x s
  | .shaperWrite m x sch w a => Sys2Proof.Machine.execShaperWrite m x sch w a s
  | .schedQCfgWrite m x sch q a => Sys2Proof.Machine.execSchedQCfgWrite m x sch q a s
  | .hostLinkTrain x ok16 okLo okHi rev => Sys2Proof.Machine.execHostLinkTrain x ok16 okLo okHi rev s
  | .lossOfLock x ok16 okLo okHi rev => Sys2Proof.Machine.execLossOfLock x ok16 okLo okHi rev s
  | .flitReplayReq x seq => Sys2Proof.Machine.execFlitReplayReq x seq s
  | .flitAckTimeout x => Sys2Proof.Machine.execFlitAckTimeout x s
  | .rdShared x tag line => Sys2Proof.Machine.execRdShared x tag line s
  | .rdOwn x tag line => Sys2Proof.Machine.execRdOwn x tag line s
  | .rdUc x tag line mask => Sys2Proof.Machine.execRdUc x tag line mask s
  | .wbLine x tag line poison data => Sys2Proof.Machine.execWbLine x tag line poison data s
  | .wrUc x tag line mask poison data => Sys2Proof.Machine.execWrUc x tag line mask poison data s
  | .evictClean x tag line => Sys2Proof.Machine.execEvictClean x tag line s
  | .rspI x tag => Sys2Proof.Machine.execRspI x tag s
  | .rspS x tag => Sys2Proof.Machine.execRspS x tag s
  | .rspDataM x tag poison data => Sys2Proof.Machine.execRspDataM x tag poison data s
  | .rspIWb x tag => Sys2Proof.Machine.execRspIWb x tag s
  | .hostData x tag poison data => Sys2Proof.Machine.execHostData x tag poison data s
  | .hostComp x tag => Sys2Proof.Machine.execHostComp x tag s
  | .hostErr x tag status => Sys2Proof.Machine.execHostErr x tag status s
  | .hostLinkDown x => Sys2Proof.Machine.execHostLinkDown x s
  | .mboxBind m n a => Sys2Proof.Machine.execMboxBind m n a s
  | .mboxLock m a => Sys2Proof.Machine.execMboxLock m a s
  | .mboxTxSend m n a => Sys2Proof.Machine.execMboxTxSend m n a s
  | .mboxRxPop m n a => Sys2Proof.Machine.execMboxRxPop m n a s
  | .mboxDbClear a hw => Sys2Proof.Machine.execMboxDbClear a hw s
  | .interruptRaise src => Sys2Proof.Machine.execInterruptRaise src s
  | .withdrawal src => Sys2Proof.Machine.execWithdrawal src s
  | .intcPendWrite g a => Sys2Proof.Machine.execIntcPendWrite g a s
  | .intcClaim m t => Sys2Proof.Machine.execIntcClaim m t s
  | .intcComplete m t a => Sys2Proof.Machine.execIntcComplete m t a s
  | .holdoffExpiry g => Sys2Proof.Machine.execHoldoffExpiry g s
  | .intcGctlWrite g a => Sys2Proof.Machine.execIntcGctlWrite g a s
  | .ropeDiscover x idx h payload => Sys2Proof.Machine.execRopeDiscover x idx h payload s
  | .ropeAssign x idx h payload => Sys2Proof.Machine.execRopeAssign x idx h payload s
  | .ropeJoin x idx h payload => Sys2Proof.Machine.execRopeJoin x idx h payload s
  | .ropeCairn x idx h payload table place => Sys2Proof.Machine.execRopeCairn x idx h payload table place s
  | .ropeTable x idx h payload place => Sys2Proof.Machine.execRopeTable x idx h payload place s
  | .tableAck x idx h payload => Sys2Proof.Machine.execTableAck x idx h payload s
  | .ringState x idx h payload => Sys2Proof.Machine.execRingState x idx h payload s
  | .ropeHeartbeat x idx h payload => Sys2Proof.Machine.execRopeHeartbeat x idx h payload s
  | .ropeExpel x idx h payload => Sys2Proof.Machine.execRopeExpel x idx h payload s
  | .fwManifest x idx h payload => Sys2Proof.Machine.execFwManifest x idx h payload s
  | .fwChunk x idx h payload => Sys2Proof.Machine.execFwChunk x idx h payload s
  | .fwNack x idx h payload => Sys2Proof.Machine.execFwNack x idx h payload s
  | .ropeForward x idx pkt => Sys2Proof.Machine.execRopeForward x idx pkt s
  | .formWaitExpiry east west => Sys2Proof.Machine.execFormWaitExpiry east west s
  | .heartbeatPeriod => Sys2Proof.Machine.execHeartbeatPeriod s
  | .heartbeatMiss pos expel => Sys2Proof.Machine.execHeartbeatMiss pos expel s
  | .settleExpiry pos => Sys2Proof.Machine.execSettleExpiry pos s
  | .memberExpelled pos => Sys2Proof.Machine.execMemberExpelled pos s
  | .marginPeriod g => Sys2Proof.Machine.execMarginPeriod g s
  | .fwWaitExpiry => Sys2Proof.Machine.execFwWaitExpiry s
  | .ropeBypassInsert m a => Sys2Proof.Machine.execRopeBypassInsert m a s
  | .fwActivate m a => Sys2Proof.Machine.execFwActivate m a s
  | .fwDiscard m a => Sys2Proof.Machine.execFwDiscard m a s
  | .bringupClocks m a ref pll => Sys2Proof.Machine.execBringupClocks m a ref pll s
  | .bringupTrain m a errors => Sys2Proof.Machine.execBringupTrain m a errors s
  | .trainingTimeout u => Sys2Proof.Machine.execTrainingTimeout u s
  | .bringupLanecheck m a lanes d2d => Sys2Proof.Machine.execBringupLanecheck m a lanes d2d s
  | .prbsLockTimeout x p l => Sys2Proof.Machine.execPrbsLockTimeout x p l s
  | .bringupMemtest m a lost reads => Sys2Proof.Machine.execBringupMemtest m a lost reads s
  | .bringupMemmap m a dimms => Sys2Proof.Machine.execBringupMemmap m a dimms s
  | .bringupFlash m a r => Sys2Proof.Machine.execBringupFlash m a r s
  | .bringupRope m a marginKey stageKey stageLen => Sys2Proof.Machine.execBringupRope m a marginKey stageKey stageLen s
  | .ropeWaitExpiry => Sys2Proof.Machine.execRopeWaitExpiry s
  | .bringupUnittest m a fails => Sys2Proof.Machine.execBringupUnittest m a fails s
  | .bringupReady m a => Sys2Proof.Machine.execBringupReady m a s
  | .bringupStepEnd elapsed => Sys2Proof.Machine.execBringupStepEnd elapsed s
  | .floorWrite m w a => Sys2Proof.Machine.execFloorWrite m w a s
  | .resetFull m a => Sys2Proof.Machine.execResetFull m a s
  | .resetPdie m a => Sys2Proof.Machine.execResetPdie m a s
  | .resetHeld => Sys2Proof.Machine.execResetHeld s
  | .resetRestore => Sys2Proof.Machine.execResetRestore s
  | .partialResetComplete errs => Sys2Proof.Machine.execPartialResetComplete errs s
  | .requestM0 m a => Sys2Proof.Machine.execRequestM0 m a s
  | .requestM1 m a => Sys2Proof.Machine.execRequestM1 m a s
  | .requestM2 m a => Sys2Proof.Machine.execRequestM2 m a s
  | .requestM3 m a => Sys2Proof.Machine.execRequestM3 m a s
  | .requestM4 m a => Sys2Proof.Machine.execRequestM4 m a s
  | .drainEnd => Sys2Proof.Machine.execDrainEnd s
  | .cutEnd => Sys2Proof.Machine.execCutEnd s
  | .abortSettled => Sys2Proof.Machine.execAbortSettled s
  | .exitComplete => Sys2Proof.Machine.execExitComplete s
  | .wakeFrame x idx dst payload => Sys2Proof.Machine.execWakeFrame x idx dst payload s
  | .wakeSense => Sys2Proof.Machine.execWakeSense s
  | .stookGate k => Sys2Proof.Machine.execStookGate k s
  | .stookUngate k => Sys2Proof.Machine.execStookUngate k s
  | .anchorBoot => Sys2Proof.Machine.execAnchorBoot s
  | .anchorExtend m a => Sys2Proof.Machine.execAnchorExtend m a s
  | .anchorReport m a => Sys2Proof.Machine.execAnchorReport m a s
  | .anchorInstall m a => Sys2Proof.Machine.execAnchorInstall m a s
  | .anchorLoadSeg m a => Sys2Proof.Machine.execAnchorLoadSeg m a s
  | .anchorLc m a => Sys2Proof.Machine.execAnchorLc m a s
  | .anchorCommitSvn m a => Sys2Proof.Machine.execAnchorCommitSvn m a s
  | .anchorRevoke m a => Sys2Proof.Machine.execAnchorRevoke m a s
  | .anchorRecover m a => Sys2Proof.Machine.execAnchorRecover m a s
  | .anchorRcv m a => Sys2Proof.Machine.execAnchorRcv m a s
  | .anchorCommandEnd => Sys2Proof.Machine.execAnchorCommandEnd s
  | .tapExtest => Sys2Proof.Machine.execTapExtest s
  | .tapIdcode => Sys2Proof.Machine.execTapIdcode s
  | .tapSamplePreload cells => Sys2Proof.Machine.execTapSamplePreload cells s
  | .tapExtestPulse => Sys2Proof.Machine.execTapExtestPulse s
  | .tapExtestTrain => Sys2Proof.Machine.execTapExtestTrain s
  | .tapClamp => Sys2Proof.Machine.execTapClamp s
  | .tapHighz => Sys2Proof.Machine.execTapHighz s
  | .dbgAccess idx write data => Sys2Proof.Machine.execDbgAccess idx write data s
  | .tapBypass => Sys2Proof.Machine.execTapBypass s
  | .tapTrst => Sys2Proof.Machine.execTapTrst s
  | .dbgNew m a => Sys2Proof.Machine.execDbgNew m a s
  | .dbgToken m a => Sys2Proof.Machine.execDbgToken m a s
  | .dbgSubmit m a => Sys2Proof.Machine.execDbgSubmit m a s
  | .unlockVerified => Sys2Proof.Machine.execUnlockVerified s
  | .dbgLock m a => Sys2Proof.Machine.execDbgLock m a s
  | .dbgHalt m a => Sys2Proof.Machine.execDbgHalt m a s
  | .dbgResume m a => Sys2Proof.Machine.execDbgResume m a s
  | .dbgStep m a => Sys2Proof.Machine.execDbgStep m a s
  | .dbgRegData m a => Sys2Proof.Machine.execDbgRegData m a s
  | .dbgMemRead m a => Sys2Proof.Machine.execDbgMemRead m a s
  | .dbgMemWrite m a => Sys2Proof.Machine.execDbgMemWrite m a s
  | .errSummaryClear a hw => Sys2Proof.Machine.execErrSummaryClear a hw s
  | .errInj m a => Sys2Proof.Machine.execErrInj m a s
  | .pllLossOfLock die => Sys2Proof.Machine.execPllLossOfLock die s
  | .powerUp => Sys2Proof.Machine.execPowerUp s
  | .powerLoss vin => Sys2Proof.Machine.execPowerLoss vin s
  | .sysRstN level pulse => Sys2Proof.Machine.execSysRstN level pulse s
  | .fullResetRelease lead => Sys2Proof.Machine.execFullResetRelease lead s
  | .thermN hot => Sys2Proof.Machine.execThermN hot s
  | .thermalTrip => Sys2Proof.Machine.execThermalTrip s
  | .hostFlit x flit => Sys2Proof.Machine.execHostFlit x flit s
  | .gaugeSamplingPeriod die cycles => Sys2Proof.Machine.execGaugeSamplingPeriod die cycles s
  | .dramTemperatureSensor ch hot => Sys2Proof.Machine.execDramTemperatureSensor ch hot s
  | .opticalPathSettled => Sys2Proof.Machine.execOpticalPathSettled s

end Sys2Proof.Machine
end

