-- ==== Sys2Proof/Machine/Step.lean ====
section
/-!
DEFINITION. One step of the block: the command at the front of the queue runs on the state with the queue's rest; on an
empty queue injections of MODE 2 that need no command fire again (log entry 88), host requests that waited for a device access go on, the host links send the idle flits that are due, firmware ends spent jobs and makes the switches of firmware
slicing that are due, and without any of these the block idles (log entries 8, 109 and 122). Every event in time is a command
of the table.
-/
namespace Sys2Proof.Machine

/-- One step. -/
def step (s : State) : Host.Outcome State Fault Refusal :=
  match s.pending with
  | [] => .next (idleWork ([0, 1].foldl sendIdle (pumpBoth (fireAgain s) 0)))
  | c :: r => exec c { s with pending := r }

/-- The state with the command that a word spells put at the front of its queue. -/
def State.withFetchWord (s : State) (nbits w : Nat) : State :=
  match decodeTableWord nbits w with
  | some c => { s with pending := c :: s.pending }
  | none => s

end Sys2Proof.Machine
end

