-- ==== Sys2Proof/Safety.lean ====
section
/-!
DEFINITION. What counts as a safe state and a safe run of the block, in the terms that claims use.
-/
namespace Sys2Proof.Machine

/-- A run of at most `n` steps, cut short by a fault or a refusal. -/
def run : Nat → State → Host.Outcome State Fault Refusal
  | 0, s => .next s
  | n + 1, s =>
    match step s with
    | .next t => run n t
    | o => o

/-- A run of `n` steps from `s` meets no fault and no refusal. -/
def Safe (n : Nat) (s : State) : Prop := ∃ t, run n s = .next t

/-- Memory is in its canonical form: addresses rise strictly, and no entry equals what an unlisted address reads as. -/
def MemWf (s : State) : Prop := Cells.wf (memDefault s.memGen) s.mem = true

/-- The CSRs are in their canonical form. -/
def CsrWf (s : State) : Prop := Cells.wf csrDefault s.csr = true

/-- Two states whose memory, as read, differs at most inside `n` bytes at `a`. -/
def SameOutside (s t : State) (a n : Nat) : Prop := ∀ b, (b < a ∨ a + n ≤ b) → rawByte t b = rawByte s b

/-! ## Terms of the statements -/

/-- A step's answer. -/
abbrev Answer := Host.Outcome State Fault Refusal

/-- The per-context registers are in their canonical form. -/
def CtxWf (s : State) : Prop :=
  Cells.wf (fun _ => ({} : Ctx)) s.ctx = true ∧
    ∀ c, Cells.wf (fun _ => (0 : Word)) (ctxAt s c).s = true ∧ Cells.wf (fun _ => (0 : BitVec 1024)) (ctxAt s c).v = true ∧
      Cells.wf (fun _ => (0 : BitVec 32)) (ctxAt s c).p = true

/-- Every sparse store is in its canonical form: memory, the CSRs, the contexts and cores with their registers, those of instances
that are switched out, barriers, accumulators, request lines, engine queues, pool heads, keys, slice lists and flash pages. -/
def StoresWf (s : State) : Prop :=
  MemWf s ∧ CsrWf s ∧ CtxWf s ∧
    (∀ q ∈ s.parked, Cells.wf (fun _ => (0 : Word)) q.saved.s = true ∧ Cells.wf (fun _ => (0 : BitVec 1024)) q.saved.v = true ∧
      Cells.wf (fun _ => (0 : BitVec 32)) q.saved.p = true) ∧
    Cells.wf (fun _ => ({} : Mc)) s.mc = true ∧ (∀ k, Cells.wf (fun _ => (0 : Word)) (mcAt s k).s = true) ∧
    Cells.wf (fun _ => (0 : Byte)) s.mcMem = true ∧ Cells.wf (fun _ => ({} : Barrier)) s.bar = true ∧
    Cells.wf (fun _ => (0 : BitVec 32)) s.acc = true ∧ Cells.wf (fun _ => false) s.lines = true ∧
    Cells.wf (fun _ => ([] : List Job)) s.eng = true ∧ Cells.wf (fun _ => 0) s.poolHead = true ∧
    Cells.wf (fun _ => ({} : FurKey)) s.keys = true ∧ Cells.wf (fun _ => ([] : List Nat)) s.sliceOut = true ∧
    Cells.wf (fun _ => noPage) s.flash.pages = true

/-- A context may issue an instruction of `n` bytes (R80, R84, R90, R117): it is RUNNING with nothing that comes first,
the bytes at its PC lie in the tile's SRAM and in the context's window with good parity, and no instruction comparator
matches. -/
def Issuable (s : State) (c n : Nat) : Prop :=
  s.dbg = [] ∧ canIssue s c = true ∧ fetchCheck s c (ctxAt s c).pc.toNat n = .ok ∧
    ((ctxAt s c).skipBp = true ∨ bpHit s (tileOf c) [0] (some (c % 4)) [(ctxAt s c).pc.toNat] = false)

/-- The state in which the instruction of a context runs: its one-shot marks (a comparator skipped, a code line read
again) are used up. -/
def taken (s : State) (c : Nat) : State := setCtx s c { ctxAt s c with skipBp := false, reread := 0 }

/-- A context writes a scalar register and goes on at an address. -/
def retired (s : State) (c : Nat) (rd : RegNum) (v npc : Word) : Answer := .next (setCtxPc (setCtxS s c rd v) c npc)

/-- A context writes a vector register and goes on with the next instruction. -/
def retiredV (s : State) (c : Nat) (vd : RegNum) (v : BitVec 1024) : Answer := .next (ctxNext (setCtxV s c vd v) c)

/-- A context writes a predicate register and goes on with the next instruction. -/
def retiredP (s : State) (c : Nat) (pd : Nat) (v : BitVec 32) : Answer := .next (ctxNext (setCtxP s c pd v) c)

/-- A core may issue an instruction of `n` bytes (R153, R154): it is released, not held, not waiting, its PC lies in its
private SRAM, and no instruction comparator matches. -/
def McIssuable (s : State) (k n : Nat) : Prop :=
  s.dbg = [] ∧ (mcAt s k).inReset = false ∧ (mcAt s k).held = false ∧ (mcAt s k).waiting = none ∧
    (mcAt s k).pc.toNat + n ≤ 0x40000 ∧
    ((mcAt s k).skipBp = true ∨ bpHit s (512 + k) [0] none [(mcAt s k).pc.toNat] = false)

/-- A span of `n` bytes of the tile's own SRAM that a context may access (R82 to R84): in the tile's SRAM and the context's
window, the tile working, no reset under way, no snoop to wait for. -/
def OwnPlace (s : State) (c a n : Nat) : Prop :=
  0 < n ∧ a + n ≤ 0x100000 ∧ inTileWin s c a n = true ∧ s.snoop = [] ∧ s.homeQ = [] ∧ pdiesDown s = false ∧
    tileFailed s (tileOf c) = false

/-- Such a span with good parity (R86). -/
def OwnSpan (s : State) (c a n : Nat) : Prop := OwnPlace s c a n ∧ badWords s (ownTile c + a) n = []

/-- The state after an access of a context to its own SRAM: the stook is ungated, received host lines are used up. -/
def accessed (s : State) (c : Nat) : State := dropHost (ungate s (stookOf c)) (tileMaster c)

/-- An instruction of a context ends in a stop with a cause and an address (`CTX_BADADDR`, R98). -/
def stopsWith (s : State) (c cause : Nat) (a : Word) : Answer := .next (stopCtx s c cause a)

/-- An instruction of a context ends in a failed read: the context is REPLAYING and keeps the address (R88). -/
def replaying (s : State) (c : Nat) (a : Word) : Answer :=
  .next (setCtx s c { ctxAt s c with st := .replaying, failAddr := a })

/-- A number of `n` bytes, extended as a load of that kind extends it (R126). -/
def extended (k : LoadKind) (bs : List Byte) : Word :=
  if k.signed then BitVec.ofInt 64 (sval (8 * k.size) (leNat bs)) else BitVec.ofNat 64 (leNat bs)

/-- How a load at a tile-local address ends, `e` its answer: stopped where it is not aligned or its address is refused, else
with what the bus reads there, a failed read where that is bad (R82 to R84, R88, R98, R126). -/
def LoadEnds (s : State) (c : Nat) (a : Word) (k : LoadKind) (rd : RegNum) (len : Nat) (e : Answer) : Prop :=
  let m := tileMaster c
  (a.toNat % k.size ≠ 0 → e = stopsWith s c causeMisaligned a) ∧
  (a.toNat % k.size = 0 → ∀ x, ctxPhys s c a.toNat k.size = .error x → e = stopsWith s c x a) ∧
  (a.toNat % k.size = 0 → ∀ p ds t, ctxPhys s c a.toNat k.size = .ok p → prepare s m [(p, k.size)] [] = .go → t.dbg = [] →
    (busRead s m (srcOf a.toNat 1) p k.size = ⟨ds, false, t⟩ →
      e = retired (dropHost t m) c rd (extended k ds) ((ctxAt t c).pc + BitVec.ofNat 64 len)) ∧
    (busRead s m (srcOf a.toNat 1) p k.size = ⟨ds, true, t⟩ → e = replaying t c a))

/-- How a store of `n` bytes of `v` at a tile-local address ends; a merge into a word of bad parity is the failed read. -/
def StoreEnds (s : State) (c : Nat) (a v : Word) (n len : Nat) (e : Answer) : Prop :=
  let m := tileMaster c
  (a.toNat % n ≠ 0 → e = stopsWith s c causeMisaligned a) ∧
  (a.toNat % n = 0 → ∀ x, ctxPhys s c a.toNat n = .error x → e = stopsWith s c x a) ∧
  (a.toNat % n = 0 → ∀ p t, ctxPhys s c a.toNat n = .ok p → prepare s m [] [(p, n)] = .go → t.dbg = [] →
    (busWrite s m (srcOf a.toNat 2) p (leBytes n v.toNat) = ⟨false, t⟩ →
      e = .next (setCtxPc (dropHost t m) c ((ctxAt t c).pc + BitVec.ofNat 64 len))) ∧
    (busWrite s m (srcOf a.toNat 2) p (leBytes n v.toNat) = ⟨true, t⟩ → e = replaying t c a))

/-- The loads of one word and of two words, by kind. -/
def loadForms : List (LoadKind × (Agent → FmtI → Instr)) :=
  [(⟨1, true⟩, .ldB), (⟨1, false⟩, .ldBu), (⟨2, true⟩, .ldH), (⟨2, false⟩, .ldHu), (⟨4, true⟩, .ldW), (⟨4, false⟩, .ldWu),
   (⟨8, true⟩, .ldD)]

/-- The two-word loads. -/
def loadFormsL : List (LoadKind × (Agent → FmtL → Instr)) :=
  [(⟨1, true⟩, .ldBL), (⟨1, false⟩, .ldBuL), (⟨2, true⟩, .ldHL), (⟨2, false⟩, .ldHuL), (⟨4, true⟩, .ldWL), (⟨4, false⟩, .ldWuL),
   (⟨8, true⟩, .ldDL)]

/-- The stores of one word, by size. -/
def storeForms : List (Nat × (Agent → FmtS → Instr)) := [(1, .stB), (2, .stH), (4, .stW), (8, .stD)]

/-- The two-word stores. -/
def storeFormsL : List (Nat × (Agent → FmtL → Instr)) := [(1, .stBL), (2, .stHL), (4, .stWL), (8, .stDL)]

/-- The number in `n` bytes of a context's own SRAM. -/
def ownNat (s : State) (c a n : Nat) : Nat := leNat (peek s (ownTile c + a) n)

/-- The state with bytes stored at a device address, the words they cover with good parity; what contexts have fetched
already stays as it was (R150). -/
def storedAt (s : State) (a : Nat) (bs : List Byte) : State :=
  { rawWrite (keepFetched s a bs.length) a bs with badPar := Cells.drop (fun w => ceilDiv a 4 ≤ w && w < (a + bs.length) / 4) s.badPar }

/-- A context has stored bytes in its own SRAM. -/
def ownStored (s : State) (c a : Nat) (bs : List Byte) : State :=
  dropHost (storedAt (ungate s (stookOf c)) (ownTile c + a) bs) (tileMaster c)

/-- The device holds nothing that waits for the host: no write, event, packet or submission, no write of a baler, no packet of
the fabric path, no record of a Furrow descriptor or a pool job (R408, R410). -/
def NothingHeld (s : State) : Prop :=
  s.heldPuts = [] ∧ s.outbox = [] ∧ (∀ x, (furAt s x).fabric = []) ∧
    (∀ x, ∀ j ∈ jobsOf s (.furrow x), j.phase ≠ .ended) ∧ ∀ d, ∀ j ∈ jobsOf s (.pool d), j.phase ≠ .ended

/-- `t` differs from `s` at most in CSRs and in what the interrupt controller does when a source moves: request lines,
held actions, target outputs, and its messages to the host. -/
def SameButIntc (s t : State) : Prop :=
  { t with csr := s.csr, lines := s.lines, holdRec := s.holdRec, outHigh := s.outHigh, devReq := s.devReq,
           hostOut := s.hostOut, link := s.link, tagWait := s.tagWait } = s

/-- A job of a unit has started with an outcome: its reads are made and used up. -/
def begun (u : EngUnit) (j : Job) (r : Started) : Answer := .next (dropHost (startJob u j r) (unitMaster u))

/-- The next job of a unit, one that a start row for operation `op` takes, may start and does not wait: it is the first
waiting job, fewer than `room` run, its reads wait for nothing, and no injection of detector 11 meets its outcome. -/
def StartsNext (s : State) (u : EngUnit) (op room : Nat) (j : Job) (rd : List Span) (r : Started) : Prop :=
  firstWaiting s u = some j ∧ j.op = op ∧ phaseCount (jobsOf s u) .running < room ∧
    prepare s (unitMaster u) rd [] = .go ∧ injFire r.st 11 (unitMaster u) = none

/-- Job `j` is the `i`-th that may end, and its accesses wait for nothing. -/
def EndsNow (s : State) (u : EngUnit) (i : Nat) (j : Job) : Prop :=
  (endable s u)[i]? = some j ∧ endReady s u j = .go

/-- A write that starts bring-up step `n` (R459) of a module that runs: by a master that may, with no step running or due, the next
in order. -/
def StepStarts (s : State) (m n : Nat) (a : CsrAcc) : Prop :=
  awake s = true ∧ bringupMaster m = true ∧ Fld.BRINGUP_STEP_STEP.presented a = n ∧ Fld.BRINGUP_STEP_STEP.reached a = true ∧
    s.fld Fld.BRINGUP_STEP_RUNNING 0 = 0 ∧ s.fld Fld.BRINGUP_STEP_DONE 0 + 1 = n ∧ s.stepDue = false

/-- The state in which the work of bring-up step `n` runs. -/
def stepBegun (s : State) (n : Nat) : State :=
  { (s.setFld Fld.BRINGUP_STEP_RUNNING 0 n).setFld Fld.BRINGUP_STEP_ELAPSED 0 0 with stepStatus := 0 }

end Sys2Proof.Machine
end

