-- ==== Sys2Proof/WellFormed.lean ====
section
/-!
DEFINITION. Well-formed commands: what the operand types alone do not bound. A message of the host link that carries data
carries a line (R406), a flit has 256 bytes (R404), a write of DRAM stays in its line, a poll or a test reports on the units
there are, and a RoCE completion's packet number has its 24 bits by type.
-/
namespace Sys2Proof

/-- A line of 64 bytes. -/
def isLine (data : List Byte) : Bool := data.length == 64

/-- The bounds of a command's operands. -/
def wellFormed : Instr → Bool
  | .dramWrite _ _ off bs => !bs.isEmpty && decide (off.val + bs.length ≤ 64)
  | .hostFlit _ flit => flit.length == 256
  | .wbLine _ _ _ _ data => isLine data
  | .wrUc _ _ _ _ _ data => isLine data
  | .rspDataM _ _ _ data => isLine data
  | .hostData _ _ _ data => isLine data
  | .bringupLanecheck _ _ lanes d2d => lanes.length == 128 && d2d.length == 8
  | .bringupMemmap _ _ dimms => decide (dimms.length ≤ 24)
  | .partialResetComplete errs => errs.length == 8
  | .rxWrite _ _ h payload => payload.length == h.len.toNat
  | .rxSend _ _ h payload => payload.length == h.len.toNat
  | .rxReadResp _ _ h payload => payload.length == h.len.toNat
  | _ => true

end Sys2Proof
end

