-- ==== Sys2Proof/Certificates/Slice0/Obligations.lean ====
section
/-!
DEFINITION. The statements for the provers.
-/
open Sys2Proof Sys2Proof.Machine

/-- A step runs the command at the front of the queue on the state with the queue's rest. On an empty queue (the model's
choice, log entries 8, 88, 109 and 122) an injection that stays armed fires again, host requests that can go on do, each trained
host link that owes an acknowledgement or credits sends an idle flit, and firmware does its idle work; with none of these due and every
management core held in reset, nothing changes. -/
def Obligations.StepRunsFront : Prop :=
  (∀ (s : State) (c : Instr) (r : List Instr), step { s with pending := c :: r } = exec c { s with pending := r }) ∧
  (∀ s : State, s.pending = [] → step s = .next (idleWork (sendIdle (sendIdle (pumpBoth (fireAgain s) 0) 0) 1))) ∧
  (∀ s : State, s.pending = [] → (∀ k, k < 4 → (mcAt s k).inReset = true) →
    awake s = false ∨ s.fld Fld.ERR_INJ_MODE 0 ≠ 2 → s.homeQ = [] → (∀ x, x < 2 → (linkAt s x).rxQueue = []) →
    (∀ x, x < 2 → linkUp s x = false ∨ ((linkAt s x).ackDue = false ∧ (linkAt s x).reqOwed = 0)) → step s = .next s) ∧
  (∀ (s : State) (x : Nat), linkUp s x = true → (linkAt s x).ackDue = true ∨ (linkAt s x).reqOwed ≠ 0 →
    (sendIdle s x).hostOut = s.hostOut ++ [{ link := x, type := 1, ack := linkAck (linkAt s x), req := min 15 (linkAt s x).reqOwed }])

/-- Every command in every state answers a next state: a refused access, a failed job, an undefined encoding or a
command that does not apply is a next state of the part, never a fault or a refusal of the model. -/
def Obligations.EveryCommandAnswersANextState : Prop := ∀ (c : Instr) (s : State), ∃ t, exec c s = .next t

/-- Registers of a context: a written register reads as written and every other as before; writes to s0 and p0 are
discarded, s0 reads zero and p0 all ones. Other contexts keep their registers. -/
def Obligations.RegisterFile : Prop :=
  (∀ (s : State) (c : Nat), ctxS s c 0 = 0 ∧ ctxP s c 0 = 0xFFFFFFFF#32) ∧
  (∀ (s : State) (c : Nat) (v : Word) (w : BitVec 32), setCtxS s c 0 v = s ∧ setCtxP s c 0 w = s) ∧
  (∀ (s : State) (c : Nat) (r q : RegNum) (v : Word), CtxWf s →
    ctxS (setCtxS s c r v) c q = if q = r ∧ r ≠ 0 then v else ctxS s c q) ∧
  (∀ (s : State) (c : Nat) (r q : RegNum) (v : BitVec 1024), CtxWf s →
    ctxV (setCtxV s c r v) c q = if q = r then v else ctxV s c q) ∧
  (∀ (s : State) (c r q : Nat) (v : BitVec 32), CtxWf s →
    ctxP (setCtxP s c r v) c q = if q = r ∧ r ≠ 0 then v else ctxP s c q) ∧
  (∀ (s : State) (c d : Nat) (r : RegNum) (v : Word) (x : BitVec 1024) (w : BitVec 32), CtxWf s → d ≠ c →
    ctxAt (setCtxS s c r v) d = ctxAt s d ∧ ctxAt (setCtxV s c r x) d = ctxAt s d ∧
      ctxAt (setCtxP s c r.val w) d = ctxAt s d)

/-- The frame of a register write and of setting the PC: what `retired`, `retiredV` and `retiredP` change besides the
register and the PC is nothing of the context (its state, cause, mark, outstanding jobs, requests) and nothing of the
rest of the state (memory, CSRs, accumulators, the other contexts). -/
def Obligations.RegisterWritesKeepTheRest : Prop :=
  ∀ (s : State) (c : Nat) (r : RegNum) (v : Word) (x : BitVec 1024) (w : BitVec 32) (pc : Word), CtxWf s →
    { setCtxS s c r v with ctx := s.ctx } = s ∧ { setCtxV s c r x with ctx := s.ctx } = s ∧
    { setCtxP s c r.val w with ctx := s.ctx } = s ∧ { setCtxPc s c pc with ctx := s.ctx } = s ∧
    { ctxAt (setCtxS s c r v) c with s := (ctxAt s c).s } = ctxAt s c ∧
    { ctxAt (setCtxV s c r x) c with v := (ctxAt s c).v } = ctxAt s c ∧
    { ctxAt (setCtxP s c r.val w) c with p := (ctxAt s c).p } = ctxAt s c ∧
    { ctxAt (setCtxPc s c pc) c with pc := (ctxAt s c).pc } = ctxAt s c ∧ (ctxAt (setCtxPc s c pc) c).pc = pc ∧
    (∀ d, d ≠ c → ctxAt (setCtxPc s c pc) d = ctxAt s d) ∧
    CtxWf (setCtxS s c r v) ∧ CtxWf (setCtxV s c r x) ∧ CtxWf (setCtxP s c r.val w) ∧ CtxWf (setCtxPc s c pc)

/-- Every scalar register operation of a context that may issue writes its result and goes on at PC + 4, changing nothing
else (`taken` uses up the one-shot marks). -/
def Obligations.ScalarRegisterOperations : Prop :=
  ∀ (s : State) (c : CtxId) (f : FmtR), Issuable s c 4 → f.z = 0 →
    let s1 := taken s c
    let a := ctxS s1 c f.rs1
    let b := ctxS s1 c f.rs2
    let t (v : Word) : Answer := retired s1 c f.rd v ((ctxAt s1 c).pc + 4)
    exec (.add (.ctx c) f) s = t (a + b) ∧ exec (.sub (.ctx c) f) s = t (a - b) ∧
    exec (.and (.ctx c) f) s = t (a &&& b) ∧ exec (.or (.ctx c) f) s = t (a ||| b) ∧
    exec (.xor (.ctx c) f) s = t (a ^^^ b) ∧
    exec (.sll (.ctx c) f) s = t (a <<< (b.toNat % 64)) ∧ exec (.srl (.ctx c) f) s = t (a >>> (b.toNat % 64)) ∧
    exec (.sra (.ctx c) f) s = t (a.sshiftRight (b.toNat % 64)) ∧
    exec (.slt (.ctx c) f) s = t (if a.toInt < b.toInt then 1 else 0) ∧
    exec (.sltu (.ctx c) f) s = t (if a.toNat < b.toNat then 1 else 0) ∧
    exec (.min (.ctx c) f) s = t (if a.toInt < b.toInt then a else b) ∧
    exec (.max (.ctx c) f) s = t (if a.toInt < b.toInt then b else a) ∧
    exec (.minu (.ctx c) f) s = t (if a.toNat < b.toNat then a else b) ∧
    exec (.maxu (.ctx c) f) s = t (if a.toNat < b.toNat then b else a) ∧
    exec (.mul (.ctx c) f) s = t (a * b) ∧
    exec (.mulh (.ctx c) f) s = t (BitVec.ofInt 64 (a.toInt * b.toInt / 2 ^ 64)) ∧
    exec (.mulhu (.ctx c) f) s = t (BitVec.ofNat 64 (a.toNat * b.toNat / 2 ^ 64)) ∧
    exec (.div (.ctx c) f) s = t (if b = 0 then BitVec.allOnes 64 else a.sdiv b) ∧
    exec (.divu (.ctx c) f) s = t (if b = 0 then BitVec.allOnes 64 else a / b) ∧
    exec (.rem (.ctx c) f) s = t (if b = 0 then a else a.srem b) ∧
    exec (.remu (.ctx c) f) s = t (if b = 0 then a else a % b) ∧
    (f.rs2 = 0 →
      exec (.clz (.ctx c) f) s = t (BitVec.ofNat 64 (clz64 a)) ∧ exec (.ctz (.ctx c) f) s = t (BitVec.ofNat 64 (ctz64 a)) ∧
      exec (.popc (.ctx c) f) s = t (BitVec.ofNat 64 (popc64 a)))

/-- Every immediate operation, short or long, of a context that may issue writes its result and goes on with the next
instruction. Where a field must be zero or below 64, that is the hypothesis. -/
def Obligations.ScalarImmediateOperations : Prop :=
  (∀ (s : State) (c : CtxId) (f : FmtI), Issuable s c 4 →
    let s1 := taken s c
    let a := ctxS s1 c f.rs1
    let i : Word := f.imm.signExtend 64
    let u : Word := f.imm.setWidth 64
    let pc := (ctxAt s1 c).pc
    let t (v : Word) : Answer := retired s1 c f.rd v (pc + 4)
    exec (.addi (.ctx c) f) s = t (a + i) ∧ exec (.andi (.ctx c) f) s = t (a &&& u) ∧
    exec (.ori (.ctx c) f) s = t (a ||| u) ∧ exec (.xori (.ctx c) f) s = t (a ^^^ u) ∧
    exec (.slti (.ctx c) f) s = t (if a.toInt < i.toInt then 1 else 0) ∧
    exec (.sltiu (.ctx c) f) s = t (if a.toNat < i.toNat then 1 else 0) ∧
    (f.imm.toNat < 64 →
      exec (.slli (.ctx c) f) s = t (a <<< f.imm.toNat) ∧ exec (.srli (.ctx c) f) s = t (a >>> f.imm.toNat) ∧
      exec (.srai (.ctx c) f) s = t (a.sshiftRight f.imm.toNat)) ∧
    (f.rs1 = 0 → exec (.lui (.ctx c) f) s = t (i <<< 16) ∧ exec (.apc (.ctx c) f) s = t (pc + (i <<< 2)))) ∧
  (∀ (s : State) (c : CtxId) (f : FmtL), Issuable s c 8 → f.z = 0 →
    let s1 := taken s c
    let i : Word := f.imm.signExtend 64
    let t (v : Word) : Answer := retired s1 c f.rd v ((ctxAt s1 c).pc + 8)
    exec (.addiL (.ctx c) f) s = t (ctxS s1 c f.rs1 + i) ∧
    (f.rs1 = 0 →
      exec (.liL (.ctx c) f) s = t i ∧
      exec (.lih (.ctx c) f) s = t ((ctxS s1 c f.rd &&& 0xFFFFFFFF#64) ||| (f.imm.setWidth 64 <<< 32))))

/-- Branches go to PC plus four times the offset when their condition holds, else to PC + 4; jumps write the address of
the next instruction and go to their target. -/
def Obligations.BranchesAndJumps : Prop :=
  (∀ (s : State) (c : CtxId) (f : FmtB), Issuable s c 4 →
    let s1 := taken s c
    let a := ctxS s1 c f.rs1
    let b := ctxS s1 c f.rs2
    let pc := (ctxAt s1 c).pc
    let t (taken : Prop) [Decidable taken] : Answer :=
      .next (setCtxPc s1 c (if taken then pc + (f.off.signExtend 64 <<< 2) else pc + 4))
    exec (.beq (.ctx c) f) s = t (a = b) ∧ exec (.bne (.ctx c) f) s = t (a ≠ b) ∧
    exec (.blt (.ctx c) f) s = t (a.toInt < b.toInt) ∧ exec (.bge (.ctx c) f) s = t (b.toInt ≤ a.toInt) ∧
    exec (.bltu (.ctx c) f) s = t (a.toNat < b.toNat) ∧ exec (.bgeu (.ctx c) f) s = t (b.toNat ≤ a.toNat)) ∧
  (∀ (s : State) (c : CtxId) (f : FmtJ), Issuable s c 4 →
    let s1 := taken s c
    let pc := (ctxAt s1 c).pc
    exec (.jal (.ctx c) f) s = retired s1 c f.rd (pc + 4) (pc + (f.off.signExtend 64 <<< 2))) ∧
  (∀ (s : State) (c : CtxId) (f : FmtI), Issuable s c 4 →
    let s1 := taken s c
    let tgt := ctxS s1 c f.rs1 + f.imm.signExtend 64
    exec (.jalr (.ctx c) f) s =
      if tgt.toNat % 4 = 0 then retired s1 c f.rd ((ctxAt s1 c).pc + 4) tgt
      else .next (stopCtx s1 c causeMisaligned tgt)) ∧
  (∀ (s : State) (c : CtxId) (f : FmtL), Issuable s c 8 → f.z = 0 → f.rs1 = 0 → f.imm.toNat % 4 = 0 →
    let s1 := taken s c
    let pc := (ctxAt s1 c).pc
    exec (.jalL (.ctx c) f) s = retired s1 c f.rd (pc + 8) (pc + f.imm.signExtend 64))

/-- An aligned load from the tile's own SRAM, in the window and with good parity, writes the number stored there,
sign- or zero-extended, and goes on. Any other load that no comparator watches ends as `LoadEnds` says: MISALIGNED, the cause that
its address gives, the number read elsewhere (stook SRAM, the global window, CSR space with GCSR_EN), or REPLAYING at its
address. A tile-local address reaches what R82 to R84 say, and a read of DRAM, SRAM, failed SRAM and unmapped space gives what
stands there, or zeros with a violation of class 2. -/
def Obligations.LoadsFromOwnSram : Prop :=
  (∀ (s : State) (c : CtxId) (f : FmtI), Issuable s c 4 → ∀ p ∈ loadForms, watchHit s c (.load p.1 f) = false →
    LoadEnds (taken s c) c (ctxS (taken s c) c f.rs1 + f.imm.signExtend 64) p.1 f.rd 4 (exec (p.2 (.ctx c) f) s)) ∧
  (∀ (s : State) (c : CtxId) (f : FmtL), Issuable s c 8 → f.z = 0 → ∀ p ∈ loadFormsL, watchHit s c (.loadL p.1 f) = false →
    LoadEnds (taken s c) c (ctxS (taken s c) c f.rs1 + f.imm.signExtend 64) p.1 f.rd 8 (exec (p.2 (.ctx c) f) s)) ∧
  (∀ (s : State) (c a n : Nat),
    let glob := s.flag Fld.CTX_CTL_GLOBAL_EN c
    let gcsr := s.flag Fld.CTX_CTL_GCSR_EN c
    (a + n ≤ 0x100000 → ctxPhys s c a n =
      if inTileWin s c a n then .ok (0xE000100000000 + c / 4 * 0x100000 + a) else .error causeWindow) ∧
    (0x1000000 ≤ a → a + n ≤ 0x1800000 → ctxPhys s c a n =
      if inStookWin s c (a - 0x1000000) n then .ok (0xE000000000000 + c / 32 * 0x800000 + (a - 0x1000000)) else .error causeWindow) ∧
    (2 ^ 52 ≤ a → a < 2 ^ 53 →
      (glob = false → ctxPhys s c a n = .error causeAddress) ∧
      (glob = true → regionOf s (a - 2 ^ 52) = .csr → gcsr = false → ctxPhys s c a n = .error causeCsrAccess) ∧
      (glob = true → regionOf s (a - 2 ^ 52) ≠ .csr ∨ gcsr = true → ctxPhys s c a n = .ok (a - 2 ^ 52))) ∧
    (0x100000 < a + n → a < 0x1000000 ∨ 0x1800000 < a + n → a < 2 ^ 52 ∨ 2 ^ 53 ≤ a → ctxPhys s c a n = .error causeAddress)) ∧
  (∀ (s : State) (m src a n : Nat),
    let r := busRead s m src a n
    let none_ : ReadRes := ⟨List.replicate n 0, false, violation s 2 m a false⟩
    (regionOf s a = .dram → s.homeQ = [] → errLines s a n = [] → anyChanFailed s = false → r = ⟨peek s a n, false, s⟩) ∧
    (∀ k, regionOf s a = .stook k → pdiesDown s = false →
      (stookFailed s k = true → r = none_) ∧
      (stookFailed s k = false → r.data = peek s a n ∧ r.bad = !(badWords s a n).isEmpty ∧
        (badWords s a n = [] → r.st = ungate s k))) ∧
    (∀ t, regionOf s a = .tile t → pdiesDown s = false →
      (tileFailed s t = true → r = none_) ∧
      (tileFailed s t = false → r.data = peek s a n ∧ r.bad = !(badWords s a n).isEmpty ∧
        (badWords s a n = [] → r.st = ungate s (t / 8)))) ∧
    (regionOf s a = .above ∨ regionOf s a = .unmapped → r = none_)) ∧
  (∀ (s : State) (c : CtxId) (f : FmtI), Issuable s c 4 →
    let s1 := taken s c
    let a := (ctxS s1 c f.rs1 + f.imm.signExtend 64).toNat
    let may (k : LoadKind) : Prop := a % k.size = 0 ∧ OwnSpan s1 c a k.size ∧ watchHit s c (.load k f) = false
    let t (v : Word) : Answer := retired (accessed s1 c) c f.rd v ((ctxAt s1 c).pc + 4)
    (may ⟨1, true⟩ → exec (.ldB (.ctx c) f) s = t (BitVec.ofInt 64 (sval 8 (ownNat s1 c a 1)))) ∧
    (may ⟨1, false⟩ → exec (.ldBu (.ctx c) f) s = t (BitVec.ofNat 64 (ownNat s1 c a 1))) ∧
    (may ⟨2, true⟩ → exec (.ldH (.ctx c) f) s = t (BitVec.ofInt 64 (sval 16 (ownNat s1 c a 2)))) ∧
    (may ⟨2, false⟩ → exec (.ldHu (.ctx c) f) s = t (BitVec.ofNat 64 (ownNat s1 c a 2))) ∧
    (may ⟨4, true⟩ → exec (.ldW (.ctx c) f) s = t (BitVec.ofInt 64 (sval 32 (ownNat s1 c a 4)))) ∧
    (may ⟨4, false⟩ → exec (.ldWu (.ctx c) f) s = t (BitVec.ofNat 64 (ownNat s1 c a 4))) ∧
    (may ⟨8, true⟩ → exec (.ldD (.ctx c) f) s = t (BitVec.ofNat 64 (ownNat s1 c a 8)))) ∧
  (∀ (s : State) (c : CtxId) (f : FmtL), Issuable s c 8 → f.z = 0 →
    let s1 := taken s c
    let a := (ctxS s1 c f.rs1 + f.imm.signExtend 64).toNat
    let may (k : LoadKind) : Prop := a % k.size = 0 ∧ OwnSpan s1 c a k.size ∧ watchHit s c (.loadL k f) = false
    let t (v : Word) : Answer := retired (accessed s1 c) c f.rd v ((ctxAt s1 c).pc + 8)
    (may ⟨1, true⟩ → exec (.ldBL (.ctx c) f) s = t (BitVec.ofInt 64 (sval 8 (ownNat s1 c a 1)))) ∧
    (may ⟨1, false⟩ → exec (.ldBuL (.ctx c) f) s = t (BitVec.ofNat 64 (ownNat s1 c a 1))) ∧
    (may ⟨2, true⟩ → exec (.ldHL (.ctx c) f) s = t (BitVec.ofInt 64 (sval 16 (ownNat s1 c a 2)))) ∧
    (may ⟨2, false⟩ → exec (.ldHuL (.ctx c) f) s = t (BitVec.ofNat 64 (ownNat s1 c a 2))) ∧
    (may ⟨4, true⟩ → exec (.ldWL (.ctx c) f) s = t (BitVec.ofInt 64 (sval 32 (ownNat s1 c a 4)))) ∧
    (may ⟨4, false⟩ → exec (.ldWuL (.ctx c) f) s = t (BitVec.ofNat 64 (ownNat s1 c a 4))) ∧
    (may ⟨8, true⟩ → exec (.ldDL (.ctx c) f) s = t (BitVec.ofNat 64 (ownNat s1 c a 8))))

/-- An aligned store to the tile's own SRAM stores the low bytes of its register, little-endian, at its address and goes
on; with canonical memory every byte outside those bytes reads as before. Any other store that no comparator watches ends as
`StoreEnds` says: MISALIGNED, the cause that its address gives, the bytes written elsewhere, or REPLAYING at its address where it
merges into a word of bad parity. A write of clean DRAM or of SRAM stores exactly its bytes; one that merges into a bad word stores
nothing; one of failed or unmapped memory is a violation of class 2. -/
def Obligations.StoresToOwnSram : Prop :=
  (∀ (s : State) (c : CtxId) (f : FmtS), Issuable s c 4 → ∀ p ∈ storeForms, watchHit s c (.store p.1 f) = false →
    StoreEnds (taken s c) c (ctxS (taken s c) c f.rs1 + f.imm.signExtend 64) (ctxS (taken s c) c f.rs2) p.1 4
      (exec (p.2 (.ctx c) f) s)) ∧
  (∀ (s : State) (c : CtxId) (f : FmtL), Issuable s c 8 → f.z = 0 → ∀ p ∈ storeFormsL, watchHit s c (.storeL p.1 f) = false →
    StoreEnds (taken s c) c (ctxS (taken s c) c f.rs1 + f.imm.signExtend 64) (ctxS (taken s c) c f.rd) p.1 8
      (exec (p.2 (.ctx c) f) s)) ∧
  (∀ (s : State) (m src a : Nat) (bs : List Byte),
    let r := busWrite s m src a bs
    let none_ : WriteRes := ⟨false, violation s 2 m a true⟩
    let sram (failed : Bool) : Prop :=
      (failed = true → r = none_) ∧
      (failed = false → MemWf s →
        let bad := (partWords a bs.length).any (fun w => Cells.get (fun _ => false) s.badPar w)
        r.bad = bad ∧ (bad = true → r.st.mem = s.mem) ∧
        (bad = false → SameOutside s r.st a bs.length ∧ ∀ i, i < bs.length → some (rawByte r.st (a + i)) = bs[i]?))
    (regionOf s a = .dram → s.homeQ = [] → dramSpecial s = false → anyChanFailed s = false → errLines s a bs.length = [] →
      r = ⟨false, rawWrite s a bs⟩) ∧
    (∀ k, regionOf s a = .stook k → pdiesDown s = false → sram (stookFailed s k)) ∧
    (∀ t, regionOf s a = .tile t → pdiesDown s = false → sram (tileFailed s t)) ∧
    (regionOf s a = .above ∨ regionOf s a = .unmapped → r = none_)) ∧
  (∀ (s : State) (c : CtxId) (f : FmtS), Issuable s c 4 →
    let s1 := taken s c
    let a := (ctxS s1 c f.rs1 + f.imm.signExtend 64).toNat
    let v := (ctxS s1 c f.rs2).toNat
    let may (n : Nat) : Prop :=
      a % n = 0 ∧ OwnSpan s1 c a n ∧ sramSpecial s1 = false ∧ watchHit s c (.store n f) = false
    let t (n : Nat) : State := setCtxPc (ownStored s1 c a (leBytes n v)) c ((ctxAt s1 c).pc + 4)
    (may 1 → exec (.stB (.ctx c) f) s = .next (t 1)) ∧ (may 2 → exec (.stH (.ctx c) f) s = .next (t 2)) ∧
    (may 4 → exec (.stW (.ctx c) f) s = .next (t 4)) ∧ (may 8 → exec (.stD (.ctx c) f) s = .next (t 8)) ∧
    (∀ n, MemWf s → SameOutside s (t n) (ownTile c + a) n)) ∧
  (∀ (s : State) (c : CtxId) (f : FmtL), Issuable s c 8 → f.z = 0 →
    let s1 := taken s c
    let a := (ctxS s1 c f.rs1 + f.imm.signExtend 64).toNat
    let v := (ctxS s1 c f.rd).toNat
    let may (n : Nat) : Prop :=
      a % n = 0 ∧ OwnSpan s1 c a n ∧ sramSpecial s1 = false ∧ watchHit s c (.storeL n f) = false
    let t (n : Nat) : State := setCtxPc (ownStored s1 c a (leBytes n v)) c ((ctxAt s1 c).pc + 8)
    (may 1 → exec (.stBL (.ctx c) f) s = .next (t 1)) ∧ (may 2 → exec (.stHL (.ctx c) f) s = .next (t 2)) ∧
    (may 4 → exec (.stWL (.ctx c) f) s = .next (t 4)) ∧ (may 8 → exec (.stDL (.ctx c) f) s = .next (t 8)) ∧
    (∀ n, MemWf s → SameOutside s (t n) (ownTile c + a) n))

/-- Every vector arithmetic operation with an allowed type writes, in each active element, the operation's result on the
sources' elements; elements of masked-off lanes keep their old value; nothing else changes. -/
def Obligations.VectorArithmetic : Prop :=
  ∀ (s : State) (c : CtxId) (f : FmtV) (ty : VType), Issuable s c 4 → vtypeOf f.ty.toNat = some ty →
    let s1 := taken s c
    let old := ctxV s1 c f.vd
    let r (o : VArith) : Answer := retiredV s1 c f.vd
      (mapElems ty.width (ctxP s1 c f.pg) old (fun e =>
        o.elem ty (elemOf (ctxV s1 c f.vs1) ty.width e) (elemOf (ctxV s1 c f.vs2) ty.width e) (elemOf old ty.width e)))
    exec (.vadd (.ctx c) f) s = r .add ∧ exec (.vsub (.ctx c) f) s = r .sub ∧ exec (.vmul (.ctx c) f) s = r .mul ∧
    exec (.vmin (.ctx c) f) s = r .min ∧ exec (.vmax (.ctx c) f) s = r .max ∧
    (ty.float?.isSome → exec (.vfma (.ctx c) f) s = r .fma) ∧
    (ty.float?.isNone →
      exec (.vand (.ctx c) f) s = r .and ∧ exec (.vor (.ctx c) f) s = r .or ∧ exec (.vxor (.ctx c) f) s = r .xor ∧
      exec (.vsll (.ctx c) f) s = r .sll ∧ exec (.vsrl (.ctx c) f) s = r .srl ∧ exec (.vsra (.ctx c) f) s = r .sra) ∧
    (f.vs2 = 0 → exec (.vabs (.ctx c) f) s = r .abs ∧ exec (.vneg (.ctx c) f) s = r .neg) ∧
    (ty = .f32 → exec (.vdiv (.ctx c) f) s = r .div ∧ (f.vs2 = 0 → exec (.vsqrt (.ctx c) f) s = r .sqrt))

/-- Element e of width w is bits w·e and up of the register, w of them; lane i is element i of width 32; there are
1024 / w of them; byte b of a register is byte b in memory. -/
def Obligations.VectorElements : Prop :=
  (∀ (v : BitVec 1024) (w e : Nat), elemOf v w e = (v.extractLsb' (w * e) w).toNat) ∧
  (∀ (v : BitVec 1024) (i : Nat), laneOf v i = (v.extractLsb' (32 * i) 32).toNat) ∧
  (∀ (v : BitVec 1024), (elemsOf v 32).length = 32 ∧ (elemsOf v 16).length = 64 ∧ (elemsOf v 8).length = 128) ∧
  (∀ (v : BitVec 1024) (b : Nat), b < 128 → (vecBytes v)[b]? = some (v.extractLsb' (8 * b) 8))

/-- A result made under a predicate has, at an element of an active lane, the element function's value, and at an element
of a masked-off lane the old value. -/
def Obligations.MaskedLanesKeepTheirElements : Prop :=
  ∀ (w e : Nat) (pg : BitVec 32) (old : BitVec 1024) (g : Nat → Nat), w = 8 ∨ w = 16 ∨ w = 32 → e < 1024 / w →
    elemOf (mapElems w pg old g) w e = if pg.getLsbD (w * e / 32) then g e % 2 ^ w else elemOf old w e

/-- The predicate operations, vcmp and the instructions of the move group, with legal fields, write the value of the
table to their register and go on. -/
def Obligations.PredicateAndMoveInstructions : Prop :=
  (∀ (s : State) (c : CtxId) (f : FmtV), Issuable s c 4 → f.pg = 0 → f.ty = 0 →
    let s1 := taken s c
    let a := ctxP s1 c f.vs1
    let b := ctxP s1 c f.vs2
    (f.vd.val < 8 → f.vs1.val < 8 → f.vs2.val < 8 →
      exec (.pand (.ctx c) f) s = retiredP s1 c f.vd (a &&& b) ∧ exec (.por (.ctx c) f) s = retiredP s1 c f.vd (a ||| b) ∧
      exec (.pxor (.ctx c) f) s = retiredP s1 c f.vd (a ^^^ b) ∧
      exec (.pandn (.ctx c) f) s = retiredP s1 c f.vd (a &&& ~~~b) ∧
      (f.vs2 = 0 → exec (.pnot (.ctx c) f) s = retiredP s1 c f.vd (~~~a))) ∧
    (f.vd.val < 8 → f.vs2 = 0 →
      exec (.pset (.ctx c) f) s = retiredP s1 c f.vd ((ctxS s1 c f.vs1).setWidth 32)) ∧
    (f.vs1.val < 8 → f.vs2 = 0 →
      exec (.pget (.ctx c) f) s = .next (ctxNext (setCtxS s1 c f.vd (a.setWidth 64)) c))) ∧
  (∀ (s : State) (c : CtxId) (f : FmtV) (ty : VType), Issuable s c 4 → vtypeOf f.ty.toNat = some ty →
    let s1 := taken s c
    let pg := ctxP s1 c f.pg
    let old := ctxV s1 c f.vd
    let x := ctxV s1 c f.vs1
    let y := ctxV s1 c f.vs2
    exec (.vmov (.ctx c) f) s = retiredV s1 c f.vd (mapElems 32 pg old (laneOf x)) ∧
    exec (.vsel (.ctx c) f) s = retiredV s1 c f.vd
      (mapElems 32 (BitVec.allOnes 32) 0 (fun i => laneOf (if pg.getLsbD i then x else y) i)) ∧
    exec (.vbcast (.ctx c) f) s = retiredV s1 c f.vd (mapElems ty.width pg old (fun _ => (ctxS s1 c f.vs1).toNat)) ∧
    (f.vs1 = 0 → f.vs2 = 0 → exec (.vidx (.ctx c) f) s = retiredV s1 c f.vd (mapElems 32 pg old id)) ∧
    (laneType ty = true →
      (f.vd.val < 8 → ∀ cond : Fin 4, exec (.vcmp (.ctx c) (BitVec.ofNat 4 cond) f) s = retiredP s1 c f.vd
        (predOf (fun i => pg.getLsbD i && cmpLane ty cond (laneOf x i) (laneOf y i)))) ∧
      exec (.vext (.ctx c) f) s = .next (ctxNext (setCtxS s1 c f.vd
        (if ty = .i32 then BitVec.ofInt 64 (sval 32 (laneOf x f.vs2)) else BitVec.ofNat 64 (laneOf x f.vs2))) c) ∧
      (f.pg = 0 → exec (.vins (.ctx c) f) s = retiredV s1 c f.vd
        (mapElems 32 (predOf (fun i => i == f.vs2.val)) old (fun _ => (ctxS s1 c f.vs1).toNat))) ∧
      exec (.vperm (.ctx c) f) s = retiredV s1 c f.vd (mapElems 32 pg old (fun i => laneOf x (laneOf y i % 32))) ∧
      (f.vs2.val ≤ 2 → exec (.vred (.ctx c) f) s = retiredV s1 c f.vd (packElems 32 [vRed ty f.vs2 pg x]))) ∧
    (∀ src, f.vs2.val < 16 → vtypeOf f.vs2.val = some src → (src.width = ty.width ∨ f.pg = 0) →
      exec (.vcvt (.ctx c) f) s = retiredV s1 c f.vd (vCvt src ty pg x old)))

/-- With every active lane in the tile's own SRAM, aligned, in the window and with good parity, vld, vlds and vgather
replace the active lanes with the words stored there, vst and vscatter store the active lanes and nothing else, and vlut
looks its lanes up in the table. A vld or vst that is not aligned, or whose address is refused, stops with that cause whether or not a
lane is active; vlds, vgather and vscatter stop at the lowest active lane whose address is refused; an active lane that is read with
bad parity makes the context REPLAYING, at the instruction's address or at the lowest such lane's (log entry 99). -/
def Obligations.VectorMemoryInOwnSram : Prop :=
  (∀ (s : State) (c : CtxId) (f : FmtVM) (op : (Agent → FmtVM → Instr) × (FmtVM → VOp)), op ∈ [(Instr.vld, VOp.vld), (.vst, .vst)] →
    Issuable s c 4 → watchHit s c (op.2 f) = false →
    let s1 := taken s c
    let w : Word := ctxS s1 c f.rs1 + (f.imm.signExtend 64 <<< 7)
    let a := w.toNat
    let lane (i : Nat) : Prop := i < 32 ∧ (ctxP s1 c f.pg).getLsbD i = true
    (a % 128 ≠ 0 → exec (op.1 (.ctx c) f) s = stopsWith s1 c causeMisaligned w) ∧
    (a % 128 = 0 → ∀ x, ctxPhys s1 c a 128 = .error x → exec (op.1 (.ctx c) f) s = stopsWith s1 c x w) ∧
    (a % 128 = 0 → ∀ p, ctxPhys s1 c a 128 = .ok p → ctxP s1 c f.pg = 0 → exec (op.1 (.ctx c) f) s = .next (ctxNext s1 c)) ∧
    (a % 128 = 0 → OwnPlace s1 c a 128 → (∃ i, lane i ∧ Cells.get (fun _ => false) s1.badPar ((ownTile c + a) / 4 + i) = true) →
      ∃ t, exec (.vld (.ctx c) f) s = replaying t c w)) ∧
  (∀ (s : State) (c : CtxId) (f : FmtV) (op : (Agent → FmtV → Instr) × (FmtV → VOp) × Bool), f.ty = 0 →
    op ∈ [(Instr.vlds, VOp.vlds, true), (.vgather, .vgather, false), (.vscatter, .vscatter, false)] →
    Issuable s c 4 → watchHit s c (op.2.1 f) = false →
    let s1 := taken s c
    let at_ (i : Nat) : Nat := laneAddr (ctxS s1 c f.vs1) (if op.2.2 then some (ctxS s1 c f.vs2) else none) (ctxV s1 c f.vs2) i
    let lane (i : Nat) : Prop := i < 32 ∧ (ctxP s1 c f.pg).getLsbD i = true
    let fault (i x : Nat) : Prop :=
      (x = causeMisaligned ∧ at_ i % 4 ≠ 0) ∨ (x = causeAddress ∧ at_ i % 4 = 0 ∧ 0x100000 < at_ i + 4) ∨
      (x = causeWindow ∧ at_ i % 4 = 0 ∧ at_ i + 4 ≤ 0x100000 ∧ inTileWin s1 c (at_ i) 4 = false)
    let bad (i : Nat) : Prop := Cells.get (fun _ => false) s1.badPar ((ownTile c + at_ i) / 4) = true
    (∀ i x, lane i → fault i x → (∀ j y, lane j → j < i → ¬fault j y) →
      exec (op.1 (.ctx c) f) s = stopsWith s1 c x (BitVec.ofNat 64 (at_ i))) ∧
    (∀ i, lane i → bad i → (∀ j, lane j → j < i → ¬bad j) → (∀ j y, lane j → ¬fault j y) → op.2.1 f ≠ .vscatter f →
      ∃ t, exec (op.1 (.ctx c) f) s = replaying t c (BitVec.ofNat 64 (at_ i)))) ∧
  (∀ (s : State) (c : CtxId) (f : FmtVM), Issuable s c 4 →
    let s1 := taken s c
    let a := vmAddr s1 c f
    a % 128 = 0 → OwnSpan s1 c a 128 →
      (watchHit s c (.vld f) = false → exec (.vld (.ctx c) f) s =
        if ctxP s1 c f.pg = 0 then .next (ctxNext s1 c)
        else retiredV (accessed s1 c) c f.v (mapElems 32 (ctxP s1 c f.pg) (ctxV s1 c f.v) (fun i => ownNat s1 c (a + 4 * i) 4))) ∧
      (watchHit s c (.vst f) = false → sramSpecial s1 = false → MemWf s →
        ∃ t, exec (.vst (.ctx c) f) s = .next t ∧ (ctxAt t c).pc = (ctxAt (ctxNext s1 c) c).pc ∧
          (∀ i, i < 32 → (ctxP s1 c f.pg).getLsbD i = true → ownNat t c (a + 4 * i) 4 = laneOf (ctxV s1 c f.v) i) ∧
          (∀ b, (∀ i, i < 32 → (ctxP s1 c f.pg).getLsbD i = true →
            b < ownTile c + a + 4 * i ∨ ownTile c + a + 4 * i + 4 ≤ b) → rawByte t b = rawByte s b))) ∧
  (∀ (s : State) (c : CtxId) (f : FmtV), Issuable s c 4 → f.ty = 0 →
    let s1 := taken s c
    let at_ (stride : Option Word) (i : Nat) : Nat := laneAddr (ctxS s1 c f.vs1) stride (ctxV s1 c f.vs2) i
    let ok (stride : Option Word) : Prop := ∀ i, i < 32 → (ctxP s1 c f.pg).getLsbD i = true →
      at_ stride i % 4 = 0 ∧ OwnSpan s1 c (at_ stride i) 4
    let got (stride : Option Word) : Answer := retiredV s1 c f.vd
      (mapElems 32 (ctxP s1 c f.pg) (ctxV s1 c f.vd) (fun i => ownNat s1 c (at_ stride i) 4))
    (ok (some (ctxS s1 c f.vs2)) → watchHit s c (.vlds f) = false →
      exec (.vlds (.ctx c) f) s = got (some (ctxS s1 c f.vs2))) ∧
    (ok none → watchHit s c (.vgather f) = false → exec (.vgather (.ctx c) f) s = got none) ∧
    (ok none → watchHit s c (.vscatter f) = false → MemWf s → sramSpecial s1 = false →
      ∃ t, exec (.vscatter (.ctx c) f) s = .next t ∧ (ctxAt t c).pc = (ctxAt (ctxNext s1 c) c).pc ∧
        (∀ i, i < 32 → (ctxP s1 c f.pg).getLsbD i = true →
          (∀ j, i < j → j < 32 → (ctxP s1 c f.pg).getLsbD j = true → at_ none j ≠ at_ none i) →
          ownNat t c (at_ none i) 4 = laneOf (ctxV s1 c f.vd) i) ∧
        (∀ b, (∀ i, i < 32 → (ctxP s1 c f.pg).getLsbD i = true →
          b < ownTile c + at_ none i ∨ ownTile c + at_ none i + 4 ≤ b) → rawByte t b = rawByte s b))) ∧
  (∀ (s : State) (c : CtxId) (f : FmtV), Issuable s c 4 → f.ty = 6 →
    let s1 := taken s c
    let a := (ctxS s1 c f.vs2).toNat
    let n := 64 + 4 * (lutSegs (ownNat s1 c (a + 8) 2) + 1)
    a % 64 = 0 → OwnSpan s1 c a n →
      exec (.vlut (.ctx c) f) s = retiredV (ungate s1 (stookOf c)) c f.vd
        (mapElems 32 (ctxP s1 c f.pg) (ctxV s1 c f.vd) (fun i => lutLane (lutOf (peek s1 (ownTile c + a) n)) (laneOf (ctxV s1 c f.vs1) i))))

/-- troute writes the routing of R178 for k = the pg field plus 1; scree writes eight blocks under the key in the second
source; perm writes the index of the permutation, or all ones when N is 0 or above 2^48 or the offset is not below N. -/
def Obligations.RouteScreeAndPermute : Prop :=
  (∀ (s : State) (c : CtxId) (f : FmtV), Issuable s c 4 → f.ty = 6 →
    let s1 := taken s c
    exec (.troute (.ctx c) f) s = retiredV s1 c f.vd (vRoute (ctxV s1 c f.vs1) (ctxV s1 c f.vs2) (f.pg.val + 1))) ∧
  (∀ (s : State) (c : CtxId) (f : FmtV), Issuable s c 4 → f.ty = 0 → f.pg = 0 →
    let s1 := taken s c
    let w (v : BitVec 1024) (i : Nat) : BitVec 32 := BitVec.ofNat 32 (laneOf v i)
    let x := ctxV s1 c f.vs1
    let y := ctxV s1 c f.vs2
    exec (.scree (.ctx c) f) s = retiredV s1 c f.vd (packElems 128 ((List.range 8).map (fun j =>
      (scree ⟨w y 0, w y 1, w y 2, w y 3⟩ ⟨w x (4 * j), w x (4 * j + 1), w x (4 * j + 2), w x (4 * j + 3)⟩).toNat)))) ∧
  (∀ (s : State) (c : CtxId) (f : FmtR), Issuable s c 4 → f.z = 0 →
    let s1 := taken s c
    let v := ctxV s1 c f.rs2
    let w (i : Nat) : BitVec 32 := BitVec.ofNat 32 (laneOf v i)
    let n := laneOf v 5 + laneOf v 6 * 2 ^ 32
    let i := (ctxS s1 c f.rs1).toNat
    exec (.perm (.ctx c) f) s = .next (ctxNext (setCtxS s1 c f.rd
      (if n = 0 ∨ n > 2 ^ 48 ∨ i ≥ n then BitVec.allOnes 64
       else BitVec.ofNat 64 (permIndex ⟨w 0, w 1, w 2, w 3⟩ (laneOf v 4) n i))) c))

/-- With legal fields, an owned accumulator, aligned operands, and every operand span in the tile's own SRAM, in the
window and with good parity: tzero makes every element of its accumulator zero and leaves the others; tload fills its weight
buffer with the stored rows, indices and scales, dense, 2:4 or block-sparse, the last with the rows its header names or with
none; tmac adds to each element of the M rows the sum that `macElem` gives and leaves every other element, and with an empty
weight buffer changes nothing; tstore stores the converted rows and, last (log entry 102), the scale bytes. Each goes on with
the next instruction. Flags bit 1 of tload and tstore is ignored (log entry 101). With an accumulator that the context does not own
each stops with ACC_NOT_OWNED; an unaligned operand stops with MISALIGNED, and the first dense or 2:4 span of tload that leaves the SRAM or
the window with that cause and the span's address (the order of causes is the model's, log entry 25); the first bad span that tload reads
makes the context REPLAYING at the span's first byte (log entry 99). -/
def Obligations.TensorInstructions : Prop :=
  (∀ (s : State) (c : CtxId) (f : FmtT), Issuable s c 4 →
    let s1 := taken s c
    let fmt := f.fmt.toNat
    let md := f.mode.toNat
    let w := ctxS s1 c f.rs1
    let stride := strideOf (ctxS s1 c f.rs2)
    let odd : Prop := w.toNat % 32 ≠ 0 ∨ stride % 32 ≠ 0
    let zeroOk : Prop := fmt ≤ 11 ∧ md = 0 ∧ f.flags = 0 ∧ f.rs1 = 0 ∧ f.rs2 = 0
    let loadOk : Prop := fmt ≤ 11 ∧ (md = 0 ∨ md = 2 ∨ (md = 1 ∧ (fmt ≤ 3 ∨ fmt = 8))) ∧ f.flags.toNat < 4
    let macOk : Prop := fmt ≤ 11 ∧ md = 0 ∧ f.flags.toNat < 4
    let storeOk : Prop := fmt ≤ 13 ∧ md ≤ 2 ∧ (md = 2 → tIsInt fmt = false) ∧ f.flags.toNat % 2 = 0 ∧ f.flags.toNat < 8
    (ownsAcc s1 c f.acc = false →
      let stop := stopsWith s1 c causeAccNotOwned 0
      (zeroOk → exec (.tzero (.ctx c) f) s = stop) ∧ (loadOk → exec (.tload (.ctx c) f) s = stop) ∧
      (macOk → exec (.tmac (.ctx c) f) s = stop) ∧ (storeOk → exec (.tstore (.ctx c) f) s = stop)) ∧
    (ownsAcc s1 c f.acc = true → odd →
      let stop := stopsWith s1 c causeMisaligned w
      (loadOk → exec (.tload (.ctx c) f) s = stop) ∧
      (macOk → tIsInt fmt = tIsInt (wbufAt s1 (tileOf c) f.acc (f.flags.toNat % 2)).fmt → exec (.tmac (.ctx c) f) s = stop) ∧
      (storeOk → exec (.tstore (.ctx c) f) s = stop)) ∧
    (ownsAcc s1 c f.acc = true → ¬odd → loadOk → md < 2 →
      let (el, ix, sc) := tloadSpans fmt md w.toNat stride
      let out (sp : Span) : Prop := 0x100000 < sp.1 + sp.2 ∨ inTileWin s1 c sp.1 sp.2 = false
      (∀ pre sp post, el ++ ix ++ sc = pre ++ sp :: post → (∀ q ∈ pre, ¬out q) → out sp → exec (.tload (.ctx c) f) s =
        stopsWith s1 c (if 0x100000 < sp.1 + sp.2 then causeAddress else causeWindow) (BitVec.ofNat 64 sp.1)) ∧
      (∀ pre sp post, el ++ ix ++ sc = pre ++ sp :: post → (∀ q ∈ el ++ ix ++ sc, OwnPlace s1 c q.1 q.2) →
        (∀ q ∈ pre, badWords s1 (ownTile c + q.1) q.2 = []) → badWords s1 (ownTile c + sp.1) sp.2 ≠ [] →
        ∃ t, exec (.tload (.ctx c) f) s = replaying t c (BitVec.ofNat 64 sp.1)))) ∧
  ∀ (s : State) (c : CtxId) (f : FmtT), Issuable s c 4 → ownsAcc (taken s c) c f.acc = true →
    let s1 := taken s c
    let t := tileOf c
    let fmt := f.fmt.toNat
    let g := ctxS s1 c f.rs2
    let a := (ctxS s1 c f.rs1).toNat
    let b := f.flags.toNat % 2
    let ok (sp : Span) : Prop := OwnSpan s1 c sp.1 sp.2
    let held (sp : Span) : List Byte := peek s1 (ownTile c + sp.1) sp.2
    let filled (w : WBuf) : Answer := .next (ctxNext (setWbuf (ungate s1 (stookOf c)) t f.acc b w) c)
    (fmt ≤ 11 → f.mode = 0 → f.flags = 0 → f.rs1 = 0 → f.rs2 = 0 →
      let lo := accKey t f.acc 0 0
      exec (.tzero (.ctx c) f) s =
        .next (ctxNext { s1 with acc := Cells.drop (fun k => decide (lo ≤ k ∧ k < lo + 1024)) s1.acc } c)) ∧
    (a % 32 = 0 → strideOf g % 32 = 0 →
      (let (el, ix, sc) := tloadSpans fmt f.mode.toNat a (strideOf g)
       fmt ≤ 11 → f.mode = 0 ∨ (f.mode = 1 ∧ (fmt ≤ 3 ∨ fmt = 8)) → f.flags.toNat < 4 → (∀ sp ∈ el ++ ix ++ sc, ok sp) →
        exec (.tload (.ctx c) f) s = filled { fmt := fmt, mode := f.mode.toNat, rows := el.map held, meta24 := ix.map held,
                                              scales := sc.map held }) ∧
      (let h := held (a, 32)
       let sub := leAt h 1 1 % 16
       let pr := presentRows sub
       let el := (List.range pr.length).map (fun n => ((a + (1 + n) * strideOf g, rowBytes fmt 2) : Span))
       let sc := (List.range (scaleRows fmt 2)).map (fun j => ((a + (1 + pr.length + j) * strideOf g, 32) : Span))
       fmt ≤ 11 → f.mode = 2 → f.flags.toNat < 4 → ok (a, 32) →
        (leAt h 0 1 % 2 = 0 ∨ sub = 0 → exec (.tload (.ctx c) f) s =
          filled { fmt := fmt, mode := 2, zero := true, sub := 0, rows := [] }) ∧
        (leAt h 0 1 % 2 = 1 → sub ≠ 0 → (∀ sp ∈ el ++ sc, ok sp) → exec (.tload (.ctx c) f) s =
          filled { fmt := fmt, mode := 2, zero := false, sub := sub, scales := sc.map held,
                   rows := (List.range 32).map (fun r =>
                     if sub.testBit (r / 8) then (el.map held).getD ((pr.filter (· < r)).length) [] else []) })) ∧
      (let w := wbufAt s1 t f.acc b
       let k := wbufK w
       let m := rowsOf g
       let rows := (List.range m).map (fun i => ((a + i * strideOf g, k * tWidth fmt / 8) : Span))
       let sc : List Span := if tIsMx fmt then [(a + 32 * strideOf g, k / 32 * m)] else []
       fmt ≤ 11 → f.mode = 0 → f.flags.toNat < 4 → tIsInt fmt = tIsInt w.fmt → (∀ sp ∈ rows ++ sc, ok sp) →
        let scv := (sc.flatMap held).map (·.toNat)
        let row (i : Nat) : ActRow :=
          { fmt := fmt, codes := (List.range k).map (strElem (held (a + i * strideOf g, k * tWidth fmt / 8)) (tWidth fmt)),
            scales := (scv.drop (k / 32 * i)).take (k / 32) }
        (w.zero = true → exec (.tmac (.ctx c) f) s = .next (ctxNext s1 c)) ∧
        (w.zero = false → Cells.wf (fun _ => (0 : BitVec 32)) s1.acc = true →
          ∃ u, exec (.tmac (.ctx c) f) s = .next u ∧ { u with acc := s1.acc } = ctxNext (ungate s1 (stookOf c)) c ∧
            (∀ i n, i < m → n < 32 → accAt u t f.acc i n = BitVec.ofNat 32 (macElem (row i) w n (accAt s1 t f.acc i n).toNat)) ∧
            (∀ key, ¬ (accKey t f.acc 0 0 ≤ key ∧ key < accKey t f.acc m 0) →
              Cells.get (fun _ => (0 : BitVec 32)) u.acc key = Cells.get (fun _ => 0) s1.acc key))) ∧
      (let m := rowsOf g
       let conv := (List.range m).map (fun i => convertRow fmt f.mode.toNat (f.flags.toNat / 4 = 1)
         (storeDraw (ctxV s1 c 31) (field g 32 32) i) ((List.range 32).map (fun n => (accAt s1 t f.acc i n).toNat)))
       let rows := conv.zipIdx.map (fun p => (a + p.2 * strideOf g, strOf (tWidth fmt) p.1.1))
       let scs : List (Nat × List Byte) :=
         if tIsMx fmt then [(a + 32 * strideOf g, conv.map (fun p => BitVec.ofNat 8 (p.2.getD 0)))] else []
       fmt ≤ 13 → f.mode.toNat ≤ 2 → (f.mode.toNat = 2 → tIsInt fmt = false) → b = 0 → f.flags.toNat < 8 →
        (∀ w ∈ rows ++ scs, OwnSpan s1 c w.1 w.2.length) →
        exec (.tstore (.ctx c) f) s = .next (ctxNext ((rows ++ scs).foldl (fun s w =>
          (memWrite s (tileMaster c) 2 (ownTile c + w.1) w.2 false).st) s1) c)))

/-- enq of a descriptor in the tile's own SRAM queues a copy with the context's job ID and returns 0, or returns 3 when the
queue is full; waitc goes on when the counter holds the target and else waits, and the release lets it go on; bar goes on
for a context outside the mask, makes the last arrival release all, and else waits. An enq that names no engine stops with
ENGINE_CLASS, one whose descriptor is not aligned with MISALIGNED, one beyond 2^52 with ADDRESS_FAULT; an enq or waitc that names
no counter (0x6000 and above, and what R47 leaves out of 0x4000 to 0x5FFF) stops with COUNTER_INVALID. -/
def Obligations.EnginesCountersAndBarriers : Prop :=
  (∀ (s : State) (c : CtxId) (f : FmtI), Issuable s c 4 → f.imm.toNat < 256 →
    let s1 := taken s c
    let cls := f.imm.toNat % 16
    let inst := f.imm.toNat / 16
    let w := ctxS s1 c f.rs1
    let n := 64 * (ownNat s1 c (w.toNat + 5) 1 % 4 + 1)
    let known : Prop := (cls ≤ 4 ∧ inst = 0) ∨ (cls = 5 ∧ inst < 4) ∨ (cls = 7 ∧ inst < 2) ∨ (cls = 8 ∧ inst = 0)
    (¬known → exec (.enq (.ctx c) f) s = stopsWith s1 c causeEngineClass 0) ∧
    (known → w.toNat % 64 ≠ 0 → exec (.enq (.ctx c) f) s = stopsWith s1 c causeMisaligned w) ∧
    (known → w.toNat % 64 = 0 → 2 ^ 52 ≤ w.toNat → exec (.enq (.ctx c) f) s = stopsWith s1 c causeAddress w) ∧
    (known → w.toNat % 64 = 0 → w.toNat < 2 ^ 52 → ∀ x, ctxPhys s1 c w.toNat 64 = .error x →
      exec (.enq (.ctx c) f) s = stopsWith s1 c x w) ∧
    (known → w.toNat % 64 = 0 → OwnSpan s1 c w.toNat n → counterValid (ownNat s1 c (w.toNat + 6) 2) = false →
      exec (.enq (.ctx c) f) s = stopsWith s1 c causeCounterInvalid 0)) ∧
  (∀ (s : State) (c : CtxId) (f : FmtR), Issuable s c 4 → f.rd = 0 → f.z = 0 →
    let w := ctxS (taken s c) c f.rs1
    65536 ≤ w.toNat ∨ counterValid w.toNat = false →
    exec (.waitc (.ctx c) f) s = stopsWith (taken s c) c causeCounterInvalid 0) ∧
  (∀ n : Nat, counterValid n = true ↔ n < 0x4000 ∨ (n < 0x6000 ∧ n % 0x1000 < 1024)) ∧
  (∀ (s : State) (c : CtxId) (f : FmtI) (u : EngUnit), Issuable s c 4 → f.imm.toNat < 256 →
    enqUnit c (f.imm.toNat % 16) (f.imm.toNat / 16) = some u →
    let s1 := taken s c
    let s2 := accessed s1 c
    let a := (ctxS s1 c f.rs1).toNat
    let n := 64 * (ownNat s1 c (a + 5) 1 % 4 + 1)
    let d := putAt (peek s1 (ownTile c + a) n) 4 [BitVec.ofNat 8 (s2.fld Fld.CTX_CTL_JOB c)]
    a % 64 = 0 → OwnSpan s1 c a n → counterValid (leAt d 6 2) = true →
    exec (.enq (.ctx c) f) s = .next (ctxNext
      (if queueFull s2 u d then setCtxS s2 c f.rd 3 else setCtxS (enqueueJob s2 u d (some c)) c f.rd 0) c)) ∧
  (∀ (s : State) (c : CtxId) (f : FmtR) (n : Nat), Issuable s c 4 → f.rd = 0 → f.z = 0 →
    let s1 := taken s c
    let t := (ctxS s1 c f.rs2).toNat
    waitName (ctxS s1 c f.rs1) = some n →
    exec (.waitc (.ctx c) f) s = .next (if t ≤ counterVal s1 n then ctxNext s1 c
      else setCtx s1 c { ctxAt s1 c with st := .waiting, wait := some (.counter n t) })) ∧
  (∀ (s : State) (c : CtxId) (n t : Nat), (ctxAt s c).st = .waiting → (ctxAt s c).wait = some (.counter n t) →
    t ≤ counterVal s n →
    exec (.waitcRelease (.ctx c)) s =
      .next (setCtx s c { ctxAt s c with st := .running, wait := none, pc := (ctxAt s c).pc + 4 })) ∧
  (∀ (s : State) (c : CtxId) (f : FmtI), Issuable s c 4 → f.rd = 0 → f.imm.toNat < 8 →
    let s1 := taken s c
    let mask := (ctxS s1 c f.rs1).toNat % 2 ^ 32
    let key := stookOf c * 8 + f.imm.toNat
    let b := Cells.get (fun _ => ({} : Barrier)) s1.bar key
    let fixed := if b.mask = 0 then mask else b.mask
    let arr := b.arrived ||| 2 ^ (c.val % 32)
    (mask.testBit (c.val % 32) = false → exec (.bar (.ctx c) f) s = .next (ctxNext s1 c)) ∧
    (mask.testBit (c.val % 32) = true → fixed &&& arr ≠ fixed →
      exec (.bar (.ctx c) f) s =
        .next (setCtx { s1 with bar := Cells.put (fun _ => {}) s1.bar key ⟨fixed, arr⟩ } c
          { ctxAt s1 c with st := .waiting, wait := some (.barrier f.imm.toNat) })) ∧
    (mask.testBit (c.val % 32) = true → fixed &&& arr = fixed →
      let s2 := (barWaiters s1 (stookOf c) f.imm.toNat).foldl (fun s w =>
        setCtx s w { ctxAt s w with st := .running, wait := none, pc := (ctxAt s w).pc + 4 }) s1
      exec (.bar (.ctx c) f) s = .next (ctxNext { s2 with bar := Cells.put (fun _ => {}) s2.bar key {} } c)))

/-- csrr reads each local CSR of a context (CYCLE is a free value). csrw to STEPMARK makes the mark; to STEPREPLAY with bit 0
set it fails the read of the step (CTX_BADADDR a free value), else only goes on; to SWIRQ with bit 0 set it sets the context's
pending bit (`setStookPend`); to a read-only CSR it only goes on. stepmark, stepreplay and swirq are csrw of those CSRs. fence
only goes on, fence.i also drops what the context has fetched; yield ends a quantum of hardware slicing; halt stops with HALT
at the next instruction and, under hardware slicing, ends the quantum. Bit 0 alone decides: the model's choice, log entry 103. -/
def Obligations.ContextSystemInstructions : Prop :=
  (∀ (s : State) (c : CtxId) (f : FmtI), Issuable s c 4 → f.rs1 = 0 →
    let s1 := taken s c
    let r (v : Nat) : Answer := .next (ctxNext (setCtxS s1 c f.rd (BitVec.ofNat 64 v)) c)
    (f.imm = 0x000 → exec (.csrr (.ctx c) f) s =
      .next (ctxNext (setCtxS { s1 with free := s1.free + 1 } c f.rd (Config.freeValue 64 s1.free)) c)) ∧
    (f.imm = 0x001 → exec (.csrr (.ctx c) f) s = r c) ∧
    (f.imm = 0x002 → exec (.csrr (.ctx c) f) s = r (s1.fld Fld.CTX_CTL_JOB c)) ∧
    (f.imm = 0x003 → exec (.csrr (.ctx c) f) s = r (if hwSlicing s1 c then s1.fld Fld.CTX_SLICE_CUR c else 0)) ∧
    (f.imm = 0x012 → exec (.csrr (.ctx c) f) s = r (ctxAt s1 c).attempt) ∧
    (f.imm = 0x010 ∨ f.imm = 0x011 ∨ f.imm = 0x020 → exec (.csrr (.ctx c) f) s = r 0)) ∧
  (∀ (s : State) (c : CtxId) (f : FmtI), Issuable s c 4 → f.rd = 0 →
    let s1 := taken s c
    let v := ctxS s1 c f.rs1
    let x := ctxAt s1 c
    let mark : Answer := .next (ctxNext (setCtx s1 c { x with
      mark := some ⟨x.pc + 4, (List.range 15).map (fun i => Cells.get (fun _ => 0) x.s (i + 1))⟩,
      attempt := 0, out := [] }) c)
    let replay : Answer := if v.getLsbD 0 = true
      then .next (setCtx { s1 with free := s1.free + 1 } c { x with st := .replaying, failAddr := Config.freeValue 64 s1.free })
      else .next (ctxNext s1 c)
    let irq : Answer := .next (ctxNext (if v.getLsbD 0 then setStookPend s1 c else s1) c)
    (f.imm = 0x010 → exec (.csrw (.ctx c) f) s = mark) ∧ exec (.stepmark (.ctx c) 0 f.rs1 0) s = mark ∧
    (f.imm = 0x011 → exec (.csrw (.ctx c) f) s = replay) ∧ exec (.stepreplay (.ctx c) 0 f.rs1 0) s = replay ∧
    (f.imm = 0x020 → exec (.csrw (.ctx c) f) s = irq) ∧ exec (.swirq (.ctx c) 0 f.rs1 0) s = irq ∧
    (f.imm = 0x000 ∨ f.imm = 0x001 ∨ f.imm = 0x002 ∨ f.imm = 0x003 ∨ f.imm = 0x012 →
      exec (.csrw (.ctx c) f) s = .next (ctxNext s1 c))) ∧
  (∀ (s : State) (c : CtxId), Issuable s c 4 →
    let s1 := taken s c
    let u := ctxNext s1 c
    let h := stopCtx u c causeHalt 0
    exec (.fence (.ctx c) 0 0) s = .next u ∧ exec (.fenceI (.ctx c) 0 0) s = .next (ctxNext (dropFetched s1 c) c) ∧
    exec (.yield (.ctx c) 0 0) s = .next (if hwSlicing u c then setCtx u c { ctxAt u c with quantumEnd := true } else u) ∧
    exec (.halt (.ctx c) 0 0) s = .next (if hwSlicing h c then setCtx h c { ctxAt h c with quantumEnd := true } else h))

/-- Of every format, each instruction with a field shown as zero that is not, an undefined type, format or mode, a register
outside its file, a combination its entry forbids, or a local CSR number that R112 does not list: the context stops with cause 1
(`stopCtx`), its PC at the instruction, and writes no register. eret, of the cores' profile alone, does so always. A word whose
major opcode is not in the map, or whose function, op or lop is not listed for it, is undefined, and stops a context that a debugger steps there. (What vtypeOf and `VArith.allows` admit, VectorArithmetic says.) -/
def Obligations.UndefinedEncodingsStopTheContext : Prop :=
  (∀ (s : State) (c : CtxId) (f : FmtR), Issuable s c 4 →
    let stop := stopsWith (taken s c) c causeIllegal 0
    (f.z ≠ 0 → ∀ i ∈ [Instr.add, .sub, .and, .or, .xor, .sll, .srl, .sra, .slt, .sltu, .min, .max, .minu, .maxu, .mul, .mulh,
      .mulhu, .div, .divu, .rem, .remu, .clz, .ctz, .popc, .perm, .waitc], exec (i (.ctx c) f) s = stop) ∧
    (f.rs2 ≠ 0 → ∀ i ∈ [Instr.clz, .ctz, .popc], exec (i (.ctx c) f) s = stop) ∧
    (f.rd ≠ 0 → exec (.waitc (.ctx c) f) s = stop)) ∧
  (∀ (s : State) (c : CtxId) (f : FmtI), Issuable s c 4 →
    let stop := stopsWith (taken s c) c causeIllegal 0
    let n := f.imm.toNat
    (64 ≤ n → ∀ i ∈ [Instr.slli, .srli, .srai], exec (i (.ctx c) f) s = stop) ∧
    (f.rs1 ≠ 0 → ∀ i ∈ [Instr.lui, .apc, .csrr], exec (i (.ctx c) f) s = stop) ∧
    (f.rd ≠ 0 → ∀ i ∈ [Instr.csrw, .bar], exec (i (.ctx c) f) s = stop) ∧
    (n ∉ [0x000, 0x001, 0x002, 0x003, 0x010, 0x011, 0x012, 0x020] → ∀ i ∈ [Instr.csrr, .csrw], exec (i (.ctx c) f) s = stop) ∧
    (8 ≤ n → exec (.bar (.ctx c) f) s = stop) ∧ (256 ≤ n → exec (.enq (.ctx c) f) s = stop)) ∧
  (∀ (s : State) (c : CtxId) (rd rs1 : RegNum) (hi : BitVec 4), Issuable s c 4 →
    let stop := stopsWith (taken s c) c causeIllegal 0
    (rd ≠ 0 ∨ rs1 ≠ 0 → ∀ i ∈ [Instr.fence, .fenceI, .yield, .halt], exec (i (.ctx c) rd rs1) s = stop) ∧
    exec (.eret (.ctx c) rd rs1) s = stop ∧
    (rd ≠ 0 ∨ hi ≠ 0 → ∀ i ∈ [Instr.stepmark, .stepreplay, .swirq], exec (i (.ctx c) rd rs1 hi) s = stop)) ∧
  (∀ (s : State) (c : CtxId) (f : FmtL), Issuable s c 8 →
    let stop := stopsWith (taken s c) c causeIllegal 0
    (f.z ≠ 0 → ∀ i ∈ [Instr.liL, .lih, .addiL, .jalL, .ldBL, .ldBuL, .ldHL, .ldHuL, .ldWL, .ldWuL, .ldDL, .stBL, .stHL, .stWL,
      .stDL], exec (i (.ctx c) f) s = stop) ∧
    (f.rs1 ≠ 0 → ∀ i ∈ [Instr.liL, .lih, .jalL], exec (i (.ctx c) f) s = stop) ∧
    (f.imm.toNat % 4 ≠ 0 → exec (.jalL (.ctx c) f) s = stop)) ∧
  (∀ (s : State) (c : CtxId) (f : FmtV), Issuable s c 4 →
    let stop := stopsWith (taken s c) c causeIllegal 0
    let arith : List (Agent → FmtV → Instr) := [.vadd, .vsub, .vmul, .vfma, .vmin, .vmax, .vand, .vor, .vxor, .vsll, .vsrl, .vsra,
      .vabs, .vneg, .vdiv, .vsqrt]
    let moves : List (Agent → FmtV → Instr) := [.vmov, .vsel, .vbcast, .vext, .vins, .vperm, .vcvt, .vred, .vidx]
    let preds : List (Agent → FmtV → Instr) := [.pand, .por, .pxor, .pandn, .pnot, .pset, .pget]
    (vtypeOf f.ty.toNat = none → (∀ i ∈ arith ++ moves ++ [.troute, .scree], exec (i (.ctx c) f) s = stop) ∧
      ∀ k, exec (.vcmp (.ctx c) k f) s = stop) ∧
    (∀ ty, vtypeOf f.ty.toNat = some ty →
      (ty.float?.isNone → exec (.vfma (.ctx c) f) s = stop) ∧
      (ty.float?.isSome → ∀ i ∈ [Instr.vand, .vor, .vxor, .vsll, .vsrl, .vsra], exec (i (.ctx c) f) s = stop) ∧
      (ty ≠ .f32 → ∀ i ∈ [Instr.vdiv, .vsqrt, .troute], exec (i (.ctx c) f) s = stop) ∧
      (ty ≠ .i32 → ty ≠ .u32 → ty ≠ .f32 → (∀ i ∈ [Instr.vext, .vins, .vperm, .vred], exec (i (.ctx c) f) s = stop) ∧
        ∀ k, exec (.vcmp (.ctx c) k f) s = stop) ∧
      (∀ src, vtypeOf f.vs2.val = some src → src.width ≠ ty.width → f.pg ≠ 0 → exec (.vcvt (.ctx c) f) s = stop)) ∧
    (f.vs2 ≠ 0 → ∀ i ∈ [Instr.vabs, .vneg, .vsqrt, .vidx, .pnot, .pset, .pget], exec (i (.ctx c) f) s = stop) ∧
    (f.vs1 ≠ 0 → exec (.vidx (.ctx c) f) s = stop) ∧
    (∀ k : BitVec 4, 3 < k.toNat ∨ 8 ≤ f.vd.val → exec (.vcmp (.ctx c) k f) s = stop) ∧
    (vtypeOf f.vs2.val = none ∨ 16 ≤ f.vs2.val → exec (.vcvt (.ctx c) f) s = stop) ∧
    (2 < f.vs2.val → exec (.vred (.ctx c) f) s = stop) ∧
    (f.pg ≠ 0 → ∀ i ∈ preds ++ [.vins, .scree], exec (i (.ctx c) f) s = stop) ∧
    (f.ty ≠ 0 → ∀ i ∈ preds ++ [.scree, .vlds, .vgather, .vscatter], exec (i (.ctx c) f) s = stop) ∧
    (8 ≤ f.vd.val → ∀ i ∈ [Instr.pand, .por, .pxor, .pandn, .pnot, .pset], exec (i (.ctx c) f) s = stop) ∧
    (8 ≤ f.vs1.val → ∀ i ∈ [Instr.pand, .por, .pxor, .pandn, .pnot, .pget], exec (i (.ctx c) f) s = stop) ∧
    (8 ≤ f.vs2.val → ∀ i ∈ [Instr.pand, .por, .pxor, .pandn], exec (i (.ctx c) f) s = stop) ∧
    (f.ty ≠ 6 → exec (.vlut (.ctx c) f) s = stop)) ∧
  (∀ (s : State) (c : CtxId) (f : FmtT), Issuable s c 4 →
    let stop := stopsWith (taken s c) c causeIllegal 0
    let m := f.mode.toNat
    (11 < f.fmt.toNat → ∀ i ∈ [Instr.tzero, .tload, .tmac], exec (i (.ctx c) f) s = stop) ∧
    (13 < f.fmt.toNat → exec (.tstore (.ctx c) f) s = stop) ∧
    (m ≠ 0 → ∀ i ∈ [Instr.tzero, .tmac], exec (i (.ctx c) f) s = stop) ∧
    (2 < m → ∀ i ∈ [Instr.tload, .tstore], exec (i (.ctx c) f) s = stop) ∧
    (m = 1 → 3 < f.fmt.toNat → f.fmt.toNat ≠ 8 → exec (.tload (.ctx c) f) s = stop) ∧
    (m = 2 → tIsInt f.fmt.toNat = true → exec (.tstore (.ctx c) f) s = stop) ∧
    (f.flags ≠ 0 ∨ f.rs1 ≠ 0 ∨ f.rs2 ≠ 0 → exec (.tzero (.ctx c) f) s = stop) ∧
    (4 ≤ f.flags.toNat → ∀ i ∈ [Instr.tload, .tmac], exec (i (.ctx c) f) s = stop) ∧
    (f.flags.toNat % 2 = 1 ∨ 8 ≤ f.flags.toNat → exec (.tstore (.ctx c) f) s = stop) ∧
    (f.fmt.toNat ≤ 11 → m = 0 → f.flags.toNat < 4 → ownsAcc (taken s c) c f.acc = true →
      tIsInt f.fmt.toNat ≠ tIsInt (wbufAt (taken s c) (tileOf c) f.acc (f.flags.toNat % 2)).fmt →
      exec (.tmac (.ctx c) f) s = stop)) ∧
  (∀ (w imm : Nat), w < 2 ^ 32 →
    let major := w / 2 ^ 26
    let fn := w % 16
    (major ∈ [0x0C, 0x0D, 0x0E, 0x0F, 0x17, 0x1F, 0x2F, 0x31, 0x39, 0x3A, 0x3B, 0x3C, 0x3D, 0x3E] → decodeV w imm = .undefined) ∧
    (major = 0x00 → w % 64 ∈ [0x0E, 0x0F, 0x17] ∨ 0x1B ≤ w % 64 → decodeV w imm = .undefined) ∧
    (major = 0x2A → 7 ≤ fn → decodeV w imm = .undefined) ∧ (major = 0x2B → 9 ≤ fn → decodeV w imm = .undefined) ∧
    (major = 0x3F → w / 2 ^ 8 % 2 ^ 8 ∉ [0x01, 0x02, 0x03, 0x04, 0x10, 0x11, 0x12, 0x13, 0x14, 0x15, 0x16, 0x18, 0x19, 0x1A, 0x1B] →
      decodeV w imm = .undefined) ∧
    (major = 0x1E → 3 ≤ fn → decodeV w imm = .undefined) ∧ (major = 0x2C → 2 ≤ fn → decodeV w imm = .undefined) ∧
    (major = 0x2D → fn ≠ 0 → decodeV w imm = .undefined) ∧ (major = 0x2E ∨ major = 0x33 → w % 64 ≠ 0 → decodeV w imm = .undefined) ∧
    (major = 0x30 → 4 ≤ w / 2 ^ 21 % 8 → decodeV w imm = .undefined) ∧ (major = 0x36 → 2 ≤ w % 2 ^ 16 → decodeV w imm = .undefined) ∧
    (major = 0x38 → 3 ≤ w % 2 ^ 16 → decodeV w imm = .undefined)) ∧
  (∀ (s : State) (c : Nat), Issuable s c 4 → ctxIssue s c .undefined = stopCtx (taken s c) c causeIllegal 0)

/-- A context that stops with any cause but PARITY_REPLAY_FAILED is STOPPED with the cause and, for the causes that have one,
the address; its registers, PC, mark and outstanding jobs stay, its wait and its requests are gone, its arrival at a barrier is
withdrawn; its bit in STOOK_IRQ_PEND is set and its stook's request follows, but for HALT without HALT_IRQ, which changes no
CSR. Nothing else changes but the interrupt controller and its messages. -/
def Obligations.StoppingRecordsTheCause : Prop :=
  ∀ (s : State) (c : CtxId) (cause : Nat) (bad : Word), CtxWf s → CsrWf s → cause ≠ causeParity →
    Cells.wf (fun _ => ({} : Barrier)) s.bar = true → Cells.wf (fun _ => false) s.lines = true →
    let t := stopCtx s c cause bad
    let x := ctxAt s c
    ctxAt t c = { x with st := .stopped, cause := cause,
                         badaddr := if cause = 2 ∨ cause = 3 ∨ cause = 4 ∨ cause = 6 then bad else 0,
                         wait := none, stopReq := false, haltReq := false, reread := 0, quantumEnd := false } ∧
    (∀ d, d ≠ c.val → ctxAt t d = ctxAt s d) ∧
    (cause = causeHalt → s.flag Fld.CTX_CTL_HALT_IRQ c = false → t.csr = s.csr) ∧
    (cause ≠ causeHalt ∨ s.flag Fld.CTX_CTL_HALT_IRQ c = true →
      field (t.rd .STOOK_IRQ_PEND (stookOf c)) (c.val % 32) 1 = 1 ∧
      lineOf t (512 + stookOf c) = levelRequest t (512 + stookOf c)) ∧
    ((∀ id, x.wait ≠ some (.barrier id)) → SameButIntc { s with ctx := t.ctx } t) ∧
    (∀ id, x.wait = some (.barrier id) →
      (Cells.get (fun _ => ({} : Barrier)) t.bar (stookOf c * 8 + id)).arrived.testBit (c.val % 32) = false ∧
      SameButIntc { s with ctx := t.ctx, bar := t.bar } t)

/-- START runs a context at rest from its PC, every register zero, no mark, nothing fetched; STOP is a request, which the next
boundary, or the end of a drain, makes a stop with STOP_REQUEST (or, of a HALT request, a hold); RESUME runs a stopped context
on, its quantum counted anew. CTX_PC, CTX_WIN, CTX_SLICE and CTX_CTL take a write at rest and none otherwise; save areas that
leave the stook SRAM and two actions at once are violations. ACC_OWN changes exactly when both owners of every accumulator that
changes hands rest. STOOK_IRQ_PEND clears where 1 is written and hardware does not set, and the stook's request follows. Each of these
writes ungates the stook (`ungate`), and does nothing while the P-dies are in reset or without power (R474, R476). -/
def Obligations.ContextCommands : Prop :=
  (∀ (s0 : State) (c : CtxId), pdiesDown s0 = false →
    let s := ungate s0 (stookOf c)
    (atRest (ctxAt s c) = true → tileFailed s (tileOf c) = false →
      exec (.start c) s0 = .next (setCtx (dropFetched s c) c { st := .running, pc := (ctxAt s c).pc })) ∧
    (atRest (ctxAt s c) = false → exec (.stop c) s0 = .next (setCtx s c { ctxAt s c with stopReq := true })) ∧
    ((ctxAt s c).st = .stopped → (ctxAt s c).cause ≠ causeUnitFailed → tileFailed s (tileOf c) = false →
      exec (.resume c) s0 = .next (setCtx s c { ctxAt s c with
        st := .running, cause := 0, badaddr := 0, held := false, skipBp := (ctxAt s c).held && (ctxAt s c).byMatch,
        quantumEnd := false }))) ∧
  (∀ (s : State) (c : CtxId) (m : Master) (r : CtxReg) (a : CsrAcc) (t : TileId) (k : StookId) (hw : BitVec 32), pdiesDown s = true →
    exec (.start c) s = .next s ∧ exec (.stop c) s = .next s ∧ exec (.resume c) s = .next s ∧
    exec (.ctxConfigWrite m c r a) s = .next s ∧ exec (.accOwnWrite t a) s = .next s ∧
    exec (.stookIrqPendClear k a hw) s = .next s) ∧
  (∀ (s : State) (k : Nat), { ungate s k with gated := s.gated } = s ∧ (ungate s k).gated.testBit k = false) ∧
  (∀ (s : State) (c : CtxId), (ctxAt s c).stopReq = true →
    (ctxAt s c).st = .running ∨ (ctxAt s c).st = .waiting ∨ ((ctxAt s c).st = .replaying ∧ (ctxAt s c).out = []) →
    exec (.stopRequest c) s = .next (if (ctxAt s c).haltReq then holdCtx s c else stopCtx s c causeStopRequest 0)) ∧
  (∀ (s0 : State) (c : CtxId) (m : Master) (a : CsrAcc), pdiesDown s0 = false →
    let s := ungate s0 (stookOf c)
    let rest := atRest (ctxAt s c)
    let wr (r : Reg) : State := if rest then s.wr r c (r.applyWrite false (s.rd r c) a) else s
    let len := s.written Fld.CTX_SLICE_LIST_LEN c a
    let out : Prop := 2 ≤ len ∧ len ≤ 8 ∧ s.written Fld.CTX_SLICE_SAVE_BASE c a * 128 + len * 0x5200 > 0x800000
    let acts := Fld.CTX_CTL_START.presented a + Fld.CTX_CTL_STOP.presented a + Fld.CTX_CTL_RESUME.presented a
    exec (.ctxConfigWrite m c .pc a) s0 = .next (if rest then setCtx s c { ctxAt s c with
      pc := (((ctxAt s c).pc &&& ~~~(accMask a)) ||| accValue a) &&& ~~~3#64 } else s) ∧
    exec (.ctxConfigWrite m c .win a) s0 = .next (wr .CTX_WIN) ∧
    (¬out → exec (.ctxConfigWrite m c .slice a) s0 = .next (wr .CTX_SLICE)) ∧
    (out → exec (.ctxConfigWrite m c .slice a) s0 = .next (violation s 4 m.toNat (regAddr .CTX_SLICE c) true)) ∧
    (acts = 0 → exec (.ctxConfigWrite m c .ctl a) s0 = .next (wr .CTX_CTL)) ∧
    (1 < acts → exec (.ctxConfigWrite m c .ctl a) s0 = .next (violation (wr .CTX_CTL) 4 m.toNat (regAddr .CTX_CTL c) true))) ∧
  (∀ (s0 : State) (t : TileId) (a : CsrAcc), pdiesDown s0 = false →
    let s := ungate s0 (t.val / 8)
    let old := s.fld Fld.TILE_CTL_ACC_OWN t
    let new := s.written Fld.TILE_CTL_ACC_OWN t a
    let may : Prop := ∀ i, i < 4 → bits old (2 * i) 2 = bits new (2 * i) 2 ∨
      (atRest (ctxAt s (t.val * 4 + bits old (2 * i) 2)) = true ∧ atRest (ctxAt s (t.val * 4 + bits new (2 * i) 2)) = true)
    (may → exec (.accOwnWrite t a) s0 = .next (s.setFld Fld.TILE_CTL_ACC_OWN t new)) ∧
    (¬may → exec (.accOwnWrite t a) s0 = .next s)) ∧
  (∀ (s : State) (k : StookId) (v : Word) (hw : BitVec 32), pdiesDown s = false → CsrWf s → Cells.wf (fun _ => false) s.lines = true →
    ∃ t, exec (.stookIrqPendClear k (.full v) hw) s = .next t ∧ SameButIntc (ungate s k) t ∧
      field (t.rd .STOOK_IRQ_PEND k) 0 32 =
        ((BitVec.ofNat 32 (field (s.rd .STOOK_IRQ_PEND k) 0 32) &&& ~~~(v.setWidth 32)) ||| hw).toNat ∧
      lineOf t (512 + k.val) = levelRequest t (512 + k.val))

/-- A step whose jobs have ended replays once from its mark: PC and s1 to s15 are the mark's and the attempt count is 1; with no
mark or at the second failure it stops with PARITY_REPLAY_FAILED; a STOP request that waits comes first. A failing code line is
read from its DRAM image into the tile's SRAM, with good parity. The end of a quantum stops the context with QUANTUM, or under
hardware slicing, and while it drains, is noted; a waitc that is not satisfied ends its quantum where WAIT_SWITCH says so. A switch makes
CUR the next area that is not STOPPED and the context what that area holds; with none it ends the note and changes nothing
else. -/
def Obligations.ContextEvents : Prop :=
  (∀ (s : State) (c : CtxId), (ctxAt s c).st = .replaying → (ctxAt s c).out = [] →
    let x := ctxAt s c
    (x.stopReq = true → x.haltReq = false → exec (.stepReplay c) s = .next (stopCtx s c causeStopRequest 0)) ∧
    (∀ mk, x.stopReq = false → x.mark = some mk → x.attempt = 0 →
      let regs := (List.range 15).foldl (fun m i => Cells.put (fun _ => 0) m (i + 1) (mk.regs.getD i 0)) x.s
      let t := setCtx s c { x with st := .running, pc := mk.pc, attempt := 1, s := regs }
      (x.quantumEnd = false ∨ hwSlicing s c = true → exec (.stepReplay c) s = .next t) ∧
      (x.quantumEnd = true → hwSlicing s c = false →
        exec (.stepReplay c) s = .next (stopCtx (setCtx t c { ctxAt t c with quantumEnd := false }) c causeQuantum 0))) ∧
    (x.stopReq = false → x.mark = none ∨ x.attempt ≠ 0 →
      let t := stopCtx s c causeParity x.failAddr
      exec (.stepReplay c) s = .next (setCtx t c { ctxAt t c with quantumEnd := x.quantumEnd && hwSlicing s c }))) ∧
  (∀ (s : State) (c : CtxId) (g : CodeImage) (ds : List Byte), (ctxAt s c).st = .running → (ctxAt s c).reread = 1 →
    let line := (ctxAt s c).failAddr.toNat / 128 * 128
    let src := g.dram + (line - g.load)
    imageAt s c line = some g → g.tile = tileOf c → prepare s (tileMaster c) [(src, 128)] [] = .go → memRead s (tileMaster c) 0 src 128 = ⟨ds, false, s⟩ →
    MemWf s → CtxWf s → line + 128 ≤ 0x100000 → pdiesDown s = false → tileFailed s (tileOf c) = false → sramSpecial s = false →
    ∃ t, exec (.codeLineReread c) s = .next t ∧ ctxAt t c = { ctxAt s c with reread := 2 } ∧
      (∀ i, i < ds.length → some (rawByte t (ownTile c + line + i)) = ds[i]?) ∧
      SameOutside s t (ownTile c + line) ds.length ∧ badWords t (ownTile c + line) ds.length = []) ∧
  (∀ (s : State) (c : CtxId), atRest (ctxAt s c) = false → s.fld Fld.CTX_SLICE_QUANTUM c ≠ 0 →
    exec (.quantumExpiry c) s =
      .next (if hwSlicing s c = true ∨ (ctxAt s c).st = .replaying then setCtx s c { ctxAt s c with quantumEnd := true }
             else stopCtx s c causeQuantum 0)) ∧
  (∀ (s : State) (c : CtxId) (n t : Nat), (ctxAt s c).st = .waiting → (ctxAt s c).wait = some (.counter n t) →
    counterVal s n < t → s.flag Fld.CTX_CTL_WAIT_SWITCH c = true → hwSlicing s c = true →
    exec (.waitSwitchTimeout c) s = .next (setCtx s c { ctxAt s c with quantumEnd := true })) ∧
  (∀ (s : State) (c : CtxId), (ctxAt s c).quantumEnd = true → hwSlicing s c = true → (ctxAt s c).held = false →
    (ctxAt s c).st = .running ∨ (ctxAt s c).st = .waiting ∨
      ((ctxAt s c).st = .stopped ∧ ((ctxAt s c).cause = causeHalt ∨ (ctxAt s c).cause = causeParity)) →
    ((ctxAt s c).stopReq = true → (ctxAt s c).haltReq = false →
      exec (.hardwareSwitch c) s = .next (stopCtx s c causeStopRequest 0)) ∧
    ((ctxAt s c).stopReq = false → nextArea s c = none →
      exec (.hardwareSwitch c) s = .next (setCtx s c { ctxAt s c with quantumEnd := false })) ∧
    (∀ nxt, (ctxAt s c).stopReq = false → nextArea s c = some nxt → exec (.hardwareSwitch c) s = .next (switchCtx s c)) ∧
    (∀ nxt, (ctxAt s c).stopReq = false → nextArea s c = some nxt → CsrWf s → CtxWf s → (∀ i, i < 4 → ownsAcc s c i = false) →
      s.fld Fld.CTX_SLICE_CUR c < s.fld Fld.CTX_SLICE_LIST_LEN c →
      s.fld Fld.CTX_SLICE_SAVE_BASE c * 128 + s.fld Fld.CTX_SLICE_LIST_LEN c * 0x5200 ≤ 0x800000 → MemWf s →
      pdiesDown s = false → stookFailed s (stookOf c) = false → sramSpecial s = false →
      badWords s (saveAddr s c nxt) 0x1200 = [] → Cells.wf (fun _ => ([] : List Nat)) s.sliceOut = true →
      ∃ t, exec (.hardwareSwitch c) s = .next t ∧ t.fld Fld.CTX_SLICE_CUR c = nxt ∧
        peek t (saveAddr s c (s.fld Fld.CTX_SLICE_CUR c)) 0x1200 = saveBytes (ctxAt s c) ∧
        ctxAt t c = { ctxOfBytes (peek s (saveAddr s c nxt) 0x1200) with
          out := Cells.get (fun _ => []) s.sliceOut (c.val * 8 + nxt) }))

/-- A core that may issue: add and sub on its own registers; ldWu from its private SRAM; csrr and csrw of its local CSRs (TVEC
without bits [1:0], EPC, IE bits 0 and 1 are written, the read-only ones are not); fence goes on; halt, and the tile
instructions vadd, enq and bar, trap: EPC holds the instruction, ECAUSE its cause, PREV the enable, ENABLE is 0, and the PC is
TVEC. eret returns to EPC without bits [1:0] (log entry 105) and gives ENABLE the value of PREV; an interrupt traps with ECAUSE
0x80 whenever ENABLE is 1, a waiting core included; a satisfied waitc goes on. -/
def Obligations.ManagementCoreInstructions : Prop :=
  (∀ (s : State) (k : Fin 4) (f : FmtR), McIssuable s k 4 → f.z = 0 →
    let s1 := setMc s k { mcAt s k with skipBp := false }
    let r (v : Word) : Answer :=
      let u := setMcS s1 k f.rd v
      .next (setMc u k { mcAt u k with pc := (mcAt s1 k).pc + 4 })
    exec (.add (.core k) f) s = r (mcS s1 k f.rs1 + mcS s1 k f.rs2) ∧
    exec (.sub (.core k) f) s = r (mcS s1 k f.rs1 - mcS s1 k f.rs2)) ∧
  (∀ (s : State) (k : Fin 4) (f : FmtV) (h : FmtI), McIssuable s k 4 →
    let s1 := setMc s k { mcAt s k with skipBp := false }
    let y := mcAt s1 k
    let trap (cause : Nat) : Answer := .next (setMc s1 k { y with
      epc := (mcAt s k).pc, ecause := cause, ebadaddr := 0, ie := 2 * (y.ie % 2), pc := y.tvec, waiting := none })
    exec (.vadd (.core k) f) s = trap causeIllegal ∧ exec (.enq (.core k) h) s = trap causeIllegal ∧
    exec (.bar (.core k) h) s = trap causeIllegal ∧ exec (.halt (.core k) 0 0) s = trap causeHalt ∧
    exec (.eret (.core k) 0 0) s = .next (setMc s1 k { y with
      pc := y.epc &&& ~~~3#64, ie := y.ie / 2 % 2 + 2 * (y.ie / 2 % 2) }) ∧
    exec (.fence (.core k) 0 0) s = .next (setMc s1 k { y with pc := y.pc + 4 })) ∧
  (∀ (s : State) (k : Fin 4) (f : FmtI), McIssuable s k 4 →
    let s1 := setMc s k { mcAt s k with skipBp := false }
    let y := mcAt s1 k
    let v := mcS s1 k f.rs1
    let wrote (z : Mc) : Answer := .next (setMc (setMc s1 k z) k { mcAt (setMc s1 k z) k with pc := (mcAt (setMc s1 k z) k).pc + 4 })
    let read (w : Word) : Answer :=
      let u := setMcS s1 k f.rd w
      .next (setMc u k { mcAt u k with pc := (mcAt u k).pc + 4 })
    (f.rd = 0 → f.imm = 0x100 → exec (.csrw (.core k) f) s = wrote { y with tvec := v &&& ~~~3#64 }) ∧
    (f.rd = 0 → f.imm = 0x101 → exec (.csrw (.core k) f) s = wrote { y with epc := v }) ∧
    (f.rd = 0 → f.imm = 0x104 → exec (.csrw (.core k) f) s = wrote { y with ie := v.toNat % 4 }) ∧
    (f.rd = 0 → f.imm = 0x000 ∨ f.imm = 0x001 ∨ f.imm = 0x102 ∨ f.imm = 0x103 →
      exec (.csrw (.core k) f) s = .next (setMc s1 k { y with pc := y.pc + 4 })) ∧
    (f.rs1 = 0 → f.imm = 0x001 → exec (.csrr (.core k) f) s = read (BitVec.ofNat 64 (0x800 + k.val))) ∧
    (f.rs1 = 0 → f.imm = 0x100 → exec (.csrr (.core k) f) s = read y.tvec) ∧
    (f.rs1 = 0 → f.imm = 0x101 → exec (.csrr (.core k) f) s = read y.epc) ∧
    (f.rs1 = 0 → f.imm = 0x102 → exec (.csrr (.core k) f) s = read (BitVec.ofNat 64 y.ecause)) ∧
    (f.rs1 = 0 → f.imm = 0x103 → exec (.csrr (.core k) f) s = read y.ebadaddr) ∧
    (f.rs1 = 0 → f.imm = 0x104 → exec (.csrr (.core k) f) s = read (BitVec.ofNat 64 y.ie)) ∧
    (let a := (v + f.imm.signExtend 64).toNat
     a % 4 = 0 → a + 4 ≤ 0x40000 → mcWatchHit s k (.load ⟨4, false⟩ f) = false →
      exec (.ldWu (.core k) f) s = read (BitVec.ofNat 64 (leNat ((List.range 4).map (fun i =>
        Cells.get (fun _ => 0) s1.mcMem (k.val * 0x40000 + a + i))))))) ∧
  (∀ (s : State) (k : Fin 4), (mcAt s k).inReset = false → (mcAt s k).held = false → (mcAt s k).ie % 2 = 1 →
    outputOf s (k.val + 2) = true →
    exec (.mcTrap k) s = .next (setMc s k { mcAt s k with
      epc := (mcAt s k).pc, ecause := 0x80, ebadaddr := 0, ie := 2, pc := (mcAt s k).tvec, waiting := none })) ∧
  (∀ (s : State) (k : Fin 4) (n t : Nat), (mcAt s k).waiting = some (n, t) → t ≤ counterVal s n →
    (mcAt s k).held = false → (mcAt s k).inReset = false →
    exec (.waitcRelease (.core k)) s = .next (setMc s k { mcAt s k with waiting := none, pc := (mcAt s k).pc + 4 }))

/-- Whatever its status, a job that ends adds one to its completion counter, modulo 2^64, and is in its unit's queue no
longer; the other jobs of the unit stay. -/
def Obligations.JobEndsIncrementTheirCounter : Prop :=
  ∀ (s : State) (u : EngUnit) (j : Job), CsrWf s → Cells.wf (fun _ => ([] : List Job)) s.eng = true →
    counterValid j.counter = true →
    counterVal (endJob s u j) j.counter = (counterVal s j.counter + 1) % 2 ^ 64 ∧
    jobsOf (endJob s u j) u = (jobsOf s u).filter (fun k => k.seq ≠ j.seq)

/-- The record of a job goes to its counter's ring, when both ENABLE bits are set and the ring lies in one memory: 32
bytes at ring base + (v mod 2^LOG2) × 32, v the counter's value before the increment; without CQ_TABLE.ENABLE nothing is
written; either way the increment follows. A record is 32 bytes: tag at 0, job ID at 2, status at 3, class at 4, unit at 5, counter
name at 6, at 8 the transferred length, 0 unless the status is OK, at 16 the 16 bytes of the engine, all little-endian. The end of a
job writes the record of its own tag, job ID, status and counter and of its unit, and takes it out of its queue. -/
def Obligations.RecordsComeBeforeTheirCount : Prop :=
  (∀ (s : State) (m name : Nat) (rec_ : List Byte), s.flag Fld.CQ_TABLE_ENABLE (counterDie name) = false →
    recordAndCount s m name rec_ = counterAdd s name 1) ∧
  (∀ (s : State) (m name : Nat) (rec_ : List Byte) (ds : List Byte),
    s.flag Fld.CQ_TABLE_ENABLE (counterDie name) = true →
    memRead s m 3 (tableEntryAddr s name) 8 = ⟨ds, false, s⟩ →
    let entry := leNat ds
    let base := bits entry 6 46 * 64
    let n := 2 ^ bits entry 52 4
    (entry / 2 ^ 63 = 1 → ringPlaceOk s base (n * 32) = true →
      recordAndCount s m name rec_ = counterAdd (memPut s m (base + counterVal s name % n * 32) rec_) name 1) ∧
    (entry / 2 ^ 63 = 1 → ringPlaceOk s base (n * 32) = false →
      recordAndCount s m name rec_ =
        counterAdd (violation s 3 m (base + counterVal s name % n * 32) true) name 1) ∧
    (entry / 2 ^ 63 ≠ 1 → recordAndCount s m name rec_ = counterAdd s name 1)) ∧
  (∀ (tag job status cls unit counter xfer : Nat) (eng : List Byte),
    let r := recordBytes tag job status cls unit counter xfer eng
    r.length = 32 ∧ leAt r 0 2 = tag % 2 ^ 16 ∧ leAt r 2 1 = job % 256 ∧ leAt r 3 1 = status % 256 ∧ leAt r 4 1 = cls % 256 ∧
    leAt r 5 1 = unit % 256 ∧ leAt r 6 2 = counter % 2 ^ 16 ∧ leAt r 8 8 = (if status = 0 then xfer % 2 ^ 64 else 0) ∧
    (eng.length = 16 → r.drop 16 = eng)) ∧
  (∀ (s : State) (u : EngUnit) (j : Job),
    let m := unitMaster u
    let t := recordAndCount s m (leAt j.desc 6 2) (recordBytes (leAt j.desc 2 2) (leAt j.desc 4 1) j.status (unitClass u)
      (unitNumber u) (leAt j.desc 6 2) j.xfer j.eng)
    endRecord s u j = dropHost (clearOutstanding (setJobs t u ((jobsOf t u).filter (fun k => k.seq ≠ j.seq))) j) m)

/-- A job whose outcome is there ends: it makes its writes (`finishWrites`, whose bad merges make its status 0x80), its record and
its increment follow (`endRecord`; of a DMA or baler job the two together are `endJob`), then comes what its engine counts or
does with that outcome (`countReject`, `permEndEffects`, `countBale` and `ownReplacement`, `tokEffects`, `countStream`), and DONE
grows by one. A thresher's frame buffers go back first. (The clause of the token units is for a job whose writes meet no bad word.) -/
def Obligations.EngineJobsEnd : Prop :=
  ∀ (s : State) (i : Nat) (j : Job),
    let beyond (valid : Bool) (B step : Nat) (t : State) : State := endBeyond t j (valid && stepBeyond B step)
    (∀ k : StookId, EndsNow s (.dma k) i j →
      exec (.dmaJobEnd k i) s = .next ((endJob s (.dma k) j).modAdd Fld.DMA_STATUS_DONE k 1)) ∧
    (∀ k : StookId, (endable s (.thresher k))[i]? = some j →
      prepare s (unitMaster (.thresher k)) (recordSpans s j.counter).1 ((recordSpans s j.counter).2 ++ writeSpans j.writes ++
        giveSpans s (thrPool k j) (j.aux.filterMap (bufferOf s (thrPool k j)))) = .go →
      let f := finishWrites (returnFrames (busyCycles s (.thresher k)) k j) (.thresher k) j
      exec (.thresherJobEnd k i) s = .next ((countReject (endRecord f.st (.thresher k) f.job) k f.job.status).modAdd
        Fld.THR_STATUS_DONE k 1)) ∧
    (∀ d : PDie, EndsNow s (.perm d) i j →
      let f := finishWrites s (.perm d) j
      let c := permCtx s d j.jobId
      exec (.permJobEnd d i) s = .next ((beyond (permCtxValid c) c.B (permStep c j)
        (permEndEffects (endRecord f.st (.perm d) f.job) d f.job)).modAdd Fld.PERM_STATUS_DONE d 1)) ∧
    (∀ d : PDie, pumpBales s = s → ((jobsOf s (.baler d)).filter (fun j => j.phase = .ended))[i]? = some j →
      endReady s (.baler d) j = .go →
      let c := balerCtx s d j.jobId
      exec (.balerJobEnd d i) s = .next ((beyond (balerCtxValid c) c.B j.step
        (ownReplacement (countBale (endJob s (.baler d) j) d j) d j)).modAdd Fld.BALER_STATUS_DONE d 1)) ∧
    (∀ d : PDie, EndsNow s (.token d) i j → (finishWrites s (.token d) j).job = j →
      exec (.tokenJobEnd d i) s = .next ((tokEffects (endJob s (.token d) j) d j).modAdd Fld.TOK_STATUS_DONE d 1)) ∧
    (∀ e : Fin 16, EndsNow s (.stream e) i j →
      let f := finishWrites s (.stream e) j
      exec (.streamJobEnd e i) s = .next ((countStream (endRecord f.st (.stream e) f.job) e f.job.status).modAdd
        Fld.STREAM_STATUS_DONE e 1))

/-- A write of an abort register that reaches its job ID aborts every job of the unit with the written job ID and tag whose outcome is
not final, and answers 1 and how many there were, or 2 when there was none; one that does not reach it, or that comes while the P-dies
are down, does nothing. An aborted job is over with status ABORTED (0x01), length 0 and no further writes: memory has changed in
its own writes alone, and what its end row may still write, where the host had to be asked first (log entry 36), is a part of those.
Every other job stays as it is. -/
def Obligations.EngineAborts : Prop :=
  (∀ (s : State) (u : EngUnit) (job tag : Nat), Cells.wf (fun _ => ([] : List Job)) s.eng = true → MemWf s →
    ((jobsOf s u).map Job.seq).Nodup →
    let js := abortable s u job tag
    let r := abortJobs s u job tag
    r.1 = js.length ∧ (jobsOf r.2 u).map Job.seq = (jobsOf s u).map Job.seq ∧
    (∀ j, j ∈ js ↔ j ∈ jobsOf s u ∧ leAt j.desc 4 1 = job ∧ leAt j.desc 2 2 = tag ∧ j.phase ≠ .ended) ∧
    (∀ j ∈ jobsOf s u, j ∉ js → j ∈ jobsOf r.2 u) ∧
    (∀ j ∈ js, ∃ k ∈ jobsOf r.2 u, k.seq = j.seq ∧ k.desc = j.desc ∧ k.origin = j.origin ∧ k.phase = .ended ∧ k.status = 0x01 ∧
      k.xfer = 0 ∧ k.cut = false ∧ k.inv = [] ∧ ∀ w ∈ k.writes, ∃ v ∈ j.writes, ∃ n, w = (v.1, v.2.take n)) ∧
    (∀ b, (∀ j ∈ js, ∀ v ∈ j.writes, b < v.1 ∨ v.1 + v.2.length ≤ b) → rawByte r.2 b = rawByte s b)) ∧
  (∀ (s0 : State) (a : CsrAcc) (k : StookId) (d : PDie) (e : Fin 16),
    let res (s : State) (u : EngUnit) (job tag st cnt : Fld) (i : Nat) : State :=
      let r := abortJobs s u (job.presented a) (tag.presented a)
      if job.reached a then (r.2.setFld st i (if r.1 = 0 then 2 else 1)).setFld cnt i r.1 else s
    (pdiesDown s0 = false →
      exec (.dmaAbort k a) s0 = .next (res (ungate s0 k) (.dma k) Fld.DMA_ABORT_JOB Fld.DMA_ABORT_TAG
        Fld.DMA_ABORT_RES_STATUS Fld.DMA_ABORT_RES_COUNT k) ∧
      exec (.thrAbort k a) s0 = .next (res (ungate s0 k) (.thresher k) Fld.THR_ABORT_JOB Fld.THR_ABORT_TAG
        Fld.THR_ABORT_RES_STATUS Fld.THR_ABORT_RES_COUNT k) ∧
      exec (.permAbort d a) s0 = .next (res s0 (.perm d) Fld.PERM_ABORT_JOB Fld.PERM_ABORT_TAG
        Fld.PERM_ABORT_RES_STATUS Fld.PERM_ABORT_RES_COUNT d) ∧
      (let q := res s0 (.baler d) Fld.BALER_ABORT_JOB Fld.BALER_ABORT_TAG Fld.BALER_ABORT_RES_STATUS Fld.BALER_ABORT_RES_COUNT d
       exec (.balerAbort d a) s0 =
         .next { q with outbox := q.outbox.filter (fun w => w.die ≠ d || (balerJob q d w.seq).isSome) }) ∧
      exec (.tokAbort d a) s0 = .next (res s0 (.token d) Fld.TOK_ABORT_JOB Fld.TOK_ABORT_TAG
        Fld.TOK_ABORT_RES_STATUS Fld.TOK_ABORT_RES_COUNT d) ∧
      exec (.poolAbort d a) s0 = .next (deliverEnded (res s0 (.pool d) Fld.POOL_ABORT_JOB Fld.POOL_ABORT_TAG
        Fld.POOL_ABORT_RES_STATUS Fld.POOL_ABORT_RES_COUNT d) (.pool d)) ∧
      exec (.streamAbort e a) s0 = .next (res s0 (.stream e) Fld.STREAM_ABORT_JOB Fld.STREAM_ABORT_TAG
        Fld.STREAM_ABORT_RES_STATUS Fld.STREAM_ABORT_RES_COUNT e)) ∧
    (pdiesDown s0 = true → ∀ c ∈ [Instr.dmaAbort k a, .thrAbort k a, .permAbort d a, .balerAbort d a, .tokAbort d a, .poolAbort d a,
      .streamAbort e a], exec c s0 = .next s0))

/-- A COPY, COPY2D or FILL that passes the checks of R107 and reads no bad word starts with status OK, its length and
exactly its destination writes; one that reads a bad word starts with 0x80, a part of those writes to be made; one that fails a
check starts with the check's status and no write. A PREVIEW or DECODE that fails one of checks 1 to 3 starts with that check's
status and number; one that passes all checks and meets no bad word in its headers starts with what decoding its pictures gives
(`thrDecodeRun`). A write of THR_CFG takes its RW fields, and the limits while LOCK is clear. -/
def Obligations.DmaAndThresherJobsRun : Prop :=
  (∀ (s s1 : State) (k : StookId) (j : Job) (ds : List (List Byte)),
    j.flags % 2 = 0 ∨ (jobsOf s (.dma k)).head?.elim false (fun h => h.seq == j.seq) = true →
    let u : EngUnit := .dma k
    let r := dmaRows j
    let a := leAt j.desc 0x10 8
    let n := leAt j.desc 0x18 4
    let pattern := (List.range n).map (fun i => (sliceB j.desc 0x08 8).getD ((a + i) % 8) 0)
    let fill : Started := { status := 0, xfer := n, st := s, writes := [(a, pattern)] }
    let copy : Started := { status := 0, xfer := r.len * r.rows, writes := (r.dst.map Prod.fst).zip ds, st := s1 }
    let part : Started := { status := 0x80, writes := (r.dst.map Prod.fst).zip ds, cut := true, st := s1,
                            inv := (r.src.zip r.dst).flatMap (fun e => poisonedWords s (unitMaster u) e.1 e.2) }
    (dmaCheck s j = 0 → StartsNext s u 3 8 j [] fill → exec (.dmaFill k) s = begun u j fill) ∧
    (∀ bad, dmaCheck s j = 0 → readRows s (unitMaster u) r.src = (ds, bad, s1) →
      let out := if bad then part else copy
      (StartsNext s u 1 8 j r.src out → exec (.dmaCopy k) s = begun u j out) ∧
      (StartsNext s u 2 8 j r.src out → exec (.dmaCopy2d k) s = begun u j out)) ∧
    (∀ op, dmaCheck s j ≠ 0 → StartsNext s u op 8 j [] (failWith s (dmaCheck s j)) →
      (op = 1 → exec (.dmaCopy k) s = begun u j (failWith s (dmaCheck s j))) ∧
      (op = 2 → exec (.dmaCopy2d k) s = begun u j (failWith s (dmaCheck s j))) ∧
      (op = 3 → exec (.dmaFill k) s = begun u j (failWith s (dmaCheck s j))))) ∧
  (∀ (s : State) (k : StookId) (j : Job),
    let u : EngUnit := .thresher k
    let ty := thrType j
    let pay := thrData s k j
    let st := thrStream s k j
    let starts (r : Started) : Prop := firstWaiting s u = some j ∧ phaseCount (jobsOf s u) .running < 2 ∧
      prepare s (unitMaster u) (thrReads k s j) (thrPuts s k j) = .go ∧ injFire r.st 11 (unitMaster u) = none
    let out (r : Started) : Prop := (j.op = 1 → exec (.preview k) s = begun u j r) ∧ (j.op = 2 → exec (.decode k) s = begun u j r)
    (∀ chk c, thrEarly s k j (thrInfo s k j) = (chk, c) → c ≠ 0 →
      let r := failWith s c (thrEng none chk 0 0 0 0 0)
      starts r → out r) ∧
    (∀ (v : SeqHeader) (held : List Nat) (s2 : State), thrInfo s k j = some v → thrEarly s k j (some v) = (0, 0) →
      thrReadParts s k j [(0, headersEnd ty st pay.length)] = (false, s) → thrSeqChecks s k j v = (0, 0) →
      thrReadParts s k j (scanParts ty pay st) = (false, s) →
      let hs := recordPics ty st v
      thrScanChecks s k j v hs = (0, 0) →
      thrBuffers s k j v (bufferCount (passOne hs) (thrClosure j (passOne hs))) = (.ok held, s2) →
      let r := thrDecodeRun s2 k j v hs st held
      starts r → out r)) ∧
  (∀ (s0 : State) (k : StookId) (a : CsrAcc), pdiesDown s0 = false →
    let s := ungate s0 k
    exec (.thrCfgLock k a) s0 =
      .next (s.wr .THR_CFG k (Reg.THR_CFG.applyWrite (s.flag Fld.THR_CFG_LOCK k) (s.rd .THR_CFG k) a)))

/-- For every seed, epoch and N of 1 to 2^48: the permutation of a global position's offset stays below N and no two
offsets share an index, so that it is one to one and onto. -/
def Obligations.PermutationIsOneToOne : Prop :=
  ∀ (seed : Quad) (epoch N : Nat), 1 ≤ N → N ≤ 2 ^ 48 →
    (∀ i, i < N → permIndex seed epoch N i < N) ∧
    (∀ i j, i < N → j < N → permIndex seed epoch N i = permIndex seed epoch N j → i = j)

/-- A permutation job that passes orders 1 to 4 and whose gate is open starts, when fewer than four run and no earlier held job
may, with its result: a range of entries, a replacement index with its owner, a void; one that fails an order, or whose context is
poisoned, is over with that status, one whose table is poisoned starts with 0x80; one beyond the look-ahead gate is held, and the first of those held starts when its gate opens, its first orders made. A
replacement request is answered with the outcome, with a failure where the catalog is poisoned or corrupt; a reply WRITTEN fills the slot; one that names another owner asks the
alternate, if there is one; any other failure makes the next attempt due, or after 15 the slot a void. -/
def Obligations.PermutationAndReplacementJobsRun : Prop :=
  (∀ (s s1 s2 : State) (d : PDie) (j : Job) (t : ShardTable),
    let u : EngUnit := .perm d
    let m := unitMaster u
    let c := permCtx s1 d j.jobId
    let range := permRange s2 j c t
    permChecks d s j = (0, s1) →
    (readSpans s1 m (permTables d s1 j) = (false, s2) → selectTable s2 c (permStep c j) = some t →
      gateHolds s d j = false → openedHeld s d = none →
      (StartsNext s u 1 4 j (permReads d s j) range → exec (.permOwned d) s = begun u j range) ∧
      (StartsNext s u 2 4 j (permReads d s j) range → exec (.permMap d) s = begun u j range) ∧
      (StartsNext s u 3 4 j (permReads d s j) (permReplaceRun s2 j c t) →
        exec (.permReplace d) s = begun u j (permReplaceRun s2 j c t)) ∧
      (StartsNext s u 4 4 j (permReads d s j) { status := 0, st := s2 } →
        exec (.permVoid d) s = begun u j { status := 0, st := s2 })) ∧
    (readSpans s1 m (permTables d s1 j) = (true, s2) → gateHolds s d j = false → openedHeld s d = none →
      ∀ op, StartsNext s u op 4 j (permReads d s j) (failWith s2 0x80) →
        (op = 1 → exec (.permOwned d) s = begun u j (failWith s2 0x80)) ∧
        (op = 3 → exec (.permReplace d) s = begun u j (failWith s2 0x80))) ∧
    (gateHolds s d j = true → firstWaiting s u = some j → prepare s m (permReads d s j) [] = .go → phaseCount (jobsOf s u) .held < 16 →
      let held : Answer := .next (dropHost (updateJob s1 u j.seq (fun j => { j with phase := .held })) m)
      (j.op = 1 → exec (.permOwned d) s = held) ∧ (j.op = 2 → exec (.permMap d) s = held))) ∧
  (∀ (s s2 : State) (d : PDie) (i : Nat) (j : Job) (t : ShardTable),
    let u : EngUnit := .perm d
    let c := permCtx s2 d j.jobId
    readSpans s (unitMaster u) (permTables d s j) = (false, s2) → permCtx s d j.jobId = c → selectTable s2 c (permStep c j) = some t →
    ((jobsOf s u).filter (fun j => j.phase = .held))[i]? = some j → openedHeld s d = some j →
      phaseCount (jobsOf s u) .running < 4 → prepare s (unitMaster u) (permReads d s j) [] = .go →
      j.op = 1 ∨ j.op = 2 → injFire s2 11 (unitMaster u) = none →
      exec (.lookAheadGateOpen d i) s = begun u j (permRange s2 j c t)) ∧
  (∀ (s s1 : State) (d : PDie) (j : Job) (e : Nat), permChecks d s j = (e, s1) → e ≠ 0 → firstWaiting s (.perm d) = some j →
    prepare s (unitMaster (.perm d)) (permReads d s j) [] = .go →
    let r : Answer := .next (dropHost (refuseJob (.perm d) j (failWith s1 e)) (unitMaster (.perm d)))
    (j.op = 1 → exec (.permOwned d) s = r) ∧ (j.op = 2 → exec (.permMap d) s = r) ∧
    (j.op = 3 → exec (.permReplace d) s = r) ∧ (j.op = 4 → exec (.permVoid d) s = r)) ∧
  (∀ (s s1 : State) (r : ReplRequest) (j : LoadedJob) (e : List Byte) (bad : Bool),
    s.jobs.find? (fun j => j.id == r.job.toNat) = some j → stepBeyond (leAt j.desc 0x28 4) r.step.toNat = false →
    prepare s 0x10 (requestSpans s r) [] = .go → readSpans s 0x10 (catalogSpans s j r.index.toNat) = (bad, s1) →
    let reply (t : State) (out st : Nat) : Answer := .next (dropHost (sendRepl t r.job.toNat r.serving.toNat
      (replyBytes r.job.toNat r.attempt.toNat out st r.position.toNat r.tag.toNat (moduleId t))) 0x10)
    (bad = true → ∀ o, exec (.replacementRequest r o) s = reply (anyFailure s1).2 4 (anyFailure s1).1) ∧
    (bad = false → catalogEntry s1 j r.index.toNat = none → ∀ o, exec (.replacementRequest r o) s = reply s1 3 0) ∧
    (bad = false → catalogEntry s1 j r.index.toNat = some e → entryCorrupt e = true → ∀ o,
      exec (.replacementRequest r o) s = reply (anyFailure s1).2 2 (anyFailure s1).1) ∧
    (bad = false → catalogEntry s1 j r.index.toNat = some e → entryCorrupt e = false →
      exec (.replacementRequest r .written) s = reply s1 0 0 ∧ exec (.replacementRequest r .rejected) s = reply s1 1 0 ∧
      (∀ st, isFailure st.toNat = true → exec (.replacementRequest r (.corrupt st)) s = reply s1 2 st.toNat ∧
        exec (.replacementRequest r (.refused st)) s = reply s1 4 st.toNat))) ∧
  (∀ (s : State) (r : ReplReply) (t : ReplTry), tryOf s r.job.toNat r.position.toNat = some t → t.phase = .sent →
    t.attempt = r.attempt.toNat → t.tag = r.tag.toNat →
    let fails : Answer := .next (setTry s (if t.attempt < 15
      then { t with attempt := t.attempt + 1, phase := .due, alternate := none }
      else { t with phase := .void, alternate := none }))
    (r.outcome.toNat = 0 → exec (.replacementReply r) s =
      .next { dropTry s t.job t.position with slots := s.slots ++ [⟨t.job, t.position, true⟩] }) ∧
    (r.outcome.toNat ≠ 0 → r.outcome.toNat ≠ 3 ∧ r.outcome.toNat ≠ 4 ∨ t.alternate = none →
      exec (.replacementReply r) s = fails) ∧
    (∀ alt, r.outcome.toNat = 3 ∨ r.outcome.toNat = 4 → t.alternate = some alt →
      exec (.replacementReply r) s = .next (sendRepl (setTry { s with replSeq := (s.replSeq + 1) % 2 ^ 32 }
          { t with dest := alt, alternate := none, tag := s.replSeq }) t.job alt
        (requestBytes t.job t.attempt (t.position / (permCtx s 0 t.job).B) t.position t.index (moduleId s) s.replSeq))))

/-- A job of a baler that passes its checks and whose window is open starts, when fewer than eight run and no earlier held job
may, with status OK, the length of its writes and its record, and hands exactly the writes of its consumer's ring to the RoCE
engine; with the window closed it is held, its consumer known, and the first of those held whose window opens starts so. One that
fails a check, or whose context or consumer entry is poisoned, is over with that outcome. -/
def Obligations.BalerJobsRun : Prop :=
  ∀ (s : State) (d : PDie) (j : Job),
    let u : EngUnit := .baler d
    let m := unitMaster u
    let launch (t s1 : State) : Answer :=
      let c := balerCtx t d j.jobId
      let ws := balerWrites t c (consumerEntry t c (consumerOf c j.slot)) j
      .next (balerLaunch (dropHost (startJob u j
        { status := 0, xfer := ws.foldl (fun n w => n + w.2.1.length) 0, aux := [ws.length], st := s1,
          eng := balerEng 0 (consumerOf c j.slot) ((jobMapByte j).getD 0) 0 }) m) d j)
    let rows (r : Answer) : Prop :=
      (j.op = 1 → exec (.balerImage d) s = r) ∧ (j.op = 2 → exec (.balerCopy d) s = r) ∧ (j.op = 3 → exec (.balerVoid d) s = r) ∧
      (j.op = 4 → exec (.balerClose d) s = r) ∧ (j.op = 5 → exec (.balerZero d) s = r)
    (∀ t, firstWaiting s u = some j → prepare s m (balerCheckReads s d j) [] = .go → balerChecks s d j = (none, t) →
      (∀ ds s1, windowOpen s d j = true → openHeld s d = [] → phaseCount (jobsOf s u) .running < 8 →
        prepare s m (balerReads d s j) [] = .go → readRows t m (balerSpans j) = (ds, false, s1) → injFire s1 11 m = none →
        rows (launch t s1)) ∧
      (windowOpen s d j = false → phaseCount (jobsOf s u) .held < 32 →
        rows (.next (dropHost (updateJob t u j.seq (fun j => { j with phase := .held, eng := balerEng 0 (balerConsumer s d j) 0 0 })) m)))) ∧
    (∀ r t, firstWaiting s u = some j → prepare s m (balerCheckReads s d j) [] = .go → balerChecks s d j = (some r, t) →
      rows (.next (dropHost (refuseJob u j r) m))) ∧
    (∀ i ds s1, ((jobsOf s u).filter (fun j => j.phase = .held))[i]? = some j → (openHeld s d).head? = some j →
      phaseCount (jobsOf s u) .running < 8 → prepare s m (balerReads d s j) [] = .go →
      readRows s m (balerSpans j) = (ds, false, s1) → injFire s1 11 m = none → exec (.windowGateOpen d i) s = launch s s1)

/-- A token job that is next, with fewer than 4 running, starts with its outcome: LOAD of a valid table and UNLOAD of a
slot no session names will change the slot at its end, TOKENIZE writes the tokens of its text. OPEN of a good block will put
its session in place at its end (written out for a block without stop strings, trie and bans); STEP of a session that has not
ended stores its token and releases its text, and its session takes the step's outcome at its end, with the status of its
reason (written out for a node without children); CLOSE takes the session away at its end. -/
def Obligations.TokenJobsRun : Prop :=
  ∀ (s : State) (d : PDie) (j : Job),
    let u : EngUnit := .token d
    let t := tokOf s d
    let may (op : Nat) (r : Started) : Prop := j.op = op ∧ injFire r.st 11 (unitMaster u) = none
    tokNext s d = some j → phaseCount (jobsOf s u) .running < 4 → prepare s (unitMaster u) (tokReads d s j) [] = .go →
    tokFieldsOk j = true →
    (∀ v s1, tokLoadRun s t (tokSlot j) (leAt j.desc 0x10 8) j.origin = (0, some v, s1) →
      let r : Started := { status := 0, st := withEffect s1 d { seq := j.seq, status := 0, slot := some (tokSlot j, some v) } }
      may 1 r → exec (.tokLoad d) s = begun u j r) ∧
    (let r : Started := { status := 0, st := withEffect s d { seq := j.seq, status := 0, slot := some (tokSlot j, none) } }
     (slotOf t (tokSlot j)).isSome = true → slotNamed t (tokSlot j) = false → may 2 r →
      exec (.tokUnload d) s = begun u j r) ∧
    (∀ v s1 text ts m k ls s2, slotOf t (tokSlot j) = some v →
      let a := leAt j.desc 0x10 8
      let out := leAt j.desc 0x18 8
      let r : Started := { status := 0, xfer := 4 * ts.length, eng := tokenizeEng ts.length m k 0, st := s2,
                           writes := [(out, ts.flatMap (leBytes 4))] }
      ownSpans s j.origin [(a, leAt j.desc 0x0C 4), (out, 4 * leAt j.desc 0x20 4)] = 0 →
      memRead s (unitMaster u) 3 a (leAt j.desc 0x0C 4) = ⟨text, false, s1⟩ →
      tokenize s1 v text = (ts, m, k, ls) → readLines s1 ls = (false, s2) → ts.length ≤ leAt j.desc 0x20 4 →
      may 3 r → exec (.tokTokenize d) s = begun u j r) ∧
    ((openRun d s j).status = 0 → may 4 (openRun d s j) → exec (.tokOpen d) s = begun u j (openRun d s j)) ∧
    (∀ v b s1, slotOf t (tokSlot j) = some v → sessionOf t (tokSession j) = none →
      let a := leAt j.desc 0x10 8
      let x : Session := { slot := tokSlot j, block := b }
      let r : Started := { status := 0, eng := stepEng 0xFFFFFFFF 0 0 0 0 0 0,
                           st := withEffect s1 d { seq := j.seq, status := 0, sess := some (tokSession j, some x) } }
      ownSpans s j.origin [(a, 128), (leAt j.desc 0x18 8, 4 * leAt j.desc 0x20 4)] = 0 →
      memRead s (unitMaster u) 3 a 128 = ⟨b, false, s1⟩ → ownSpans s1 j.origin (blockSpans b v.tokens) = 0 →
      stopCount b = 0 → blockOk s1 a b [] = true → trieAddr b = 0 → banAddr b = 0 →
      may 4 r → exec (.tokOpen d) s = begun u j r) ∧
    ((stepRun d s j).status = 0 → may 5 (stepRun d s j) → exec (.tokenStep d) s = begun u j (stepRun d s j)) ∧
    (∀ x v ds s1, sessionOf t (tokSession j) = some x → slotOf t x.slot = some v → x.ended = none →
      let a := leAt j.desc 0x10 8
      let n := leAt j.desc 0x0C 4
      let out := leAt j.desc 0x18 8
      let cap := leAt j.desc 0x20 4
      let cs := (List.range n).map (fun i => (leAt ds (8 * i) 4, leAt ds (8 * i + 4) 4))
      let q := stepSession s1 (unitMaster u) j.origin v x cs (leAt j.desc 0x24 4)
      let st := reasonStatus q.reason
      let r : Started :=
        { status := st, xfer := q.text.length, aux := [q.stored, q.reason],
          eng := stepEng q.token q.reason 0 q.text.length q.sess.tokens 0 q.sess.hold.length,
          writes := (if q.stored = 0 then [] else [(leAt x.block 0x38 8 + 4 * x.tokens, leBytes 4 q.token)])
            ++ (if q.text.isEmpty then [] else [(leAt x.block 0x28 8 + x.released, q.text)]),
          st := withEffect q.st d { seq := j.seq, status := st, sess := some (tokSession j, some q.sess) } }
      ownSpans s j.origin ([(a, 8 * n), (out, 4 * cap)] ++ stepSpans x.block v.tokens) = 0 →
      memRead s (unitMaster u) 3 a (8 * n) = ⟨ds, false, s1⟩ → q.bad = false → q.children = [] →
      may 5 r → exec (.tokenStep d) s = begun u j r) ∧
    (let r : Started := { status := 0, st := withEffect s d { seq := j.seq, status := 0, sess := some (tokSession j, none) } }
     (sessionOf t (tokSession j)).isSome = true → may 6 r → exec (.tokenClose d) s = begun u j r)

/-- A stream job with good input that passes checks 1 to 3 starts with what its operation gives: INFLATE and ZSTD the
decoder's output, DEFLATE the encoder's, CRC its value, ALIVE its count, RECORD its verdict; its record and its one output
write follow from that. A write of STREAM_CFG takes the fields, the limits while LOCK is clear. -/
def Obligations.StreamJobsRun : Prop :=
  (∀ (s : State) (e : Fin 16) (j : Job),
    let u : EngUnit := .stream e
    let p := strIn j
    let data := (memRead s (unitMaster u) 3 p.1 p.2).data.take p.2
    let r (q : StrRes) (chk used : Nat) : Started :=
      { status := q.status, xfer := q.out.length, eng := strEng q.value q.used (if q.status = 0 then 0 else chk) q.limit,
        writes := if q.out.isEmpty then [] else [((strOut j).1, q.out)],
        st := readInput s (unitMaster u) p none used q.met }
    strFieldsOk j = true → ownSpans s j.origin [p, strOut j] = 0 → spansMeet p (strOut j) = false →
    firstBad s p.1 p.2 = none →
    (let q := strDecode s e j data false
     (StartsNext s u 1 1 j [p] (r q 4 q.used) → exec (.streamInflate e) s = begun u j (r q 4 q.used)) ∧
     (StartsNext s u 3 1 j [p] (r q 4 q.used) → exec (.streamZstd e) s = begun u j (r q 4 q.used))) ∧
    (let q := strDeflate s e j data false
     StartsNext s u 2 1 j [p] (r q 4 q.used) → exec (.streamDeflate e) s = begun u j (r q 4 q.used)) ∧
    (let q := strCrc j data false
     StartsNext s u 4 1 j [p] (r q 4 q.used) → exec (.streamCrc e) s = begun u j (r q 4 q.used)) ∧
    (let q := aliveFrom j data (p.2 / leAt j.desc 0x4C 4) 0 0
     StartsNext s u 5 1 j [p] (r q 4 q.used) → exec (.streamAlive e) s = begun u j (r q 4 q.used)) ∧
    (let q := strRecord s e j data
     StartsNext s u 6 1 j [p] (r q.1 (8 + q.2) (32 + q.1.used)) →
      exec (.streamRecord e) s = begun u j (r q.1 (8 + q.2) (32 + q.1.used)))) ∧
  (∀ (s : State) (e : Fin 16) (a : CsrAcc), pdiesDown s = false →
    exec (.streamCfgLock e a) s =
      .next (s.wr .STREAM_CFG e (Reg.STREAM_CFG.applyWrite (s.flag Fld.STREAM_CFG_LOCK e) (s.rd .STREAM_CFG e) a)))

/-- For every container and every input: INFLATE of what DEFLATE writes at level 0, with room for the input, succeeds and
gives the input back. -/
def Obligations.StoredDeflateInflatesBack : Prop :=
  ∀ (container : Nat) (bs : List Byte), container ≤ 2 →
    let z := deflate container 0 bs
    let d := inflate container (DecIn.of z) (8 * z.length) bs.length
    d.err = none ∧ d.out.reverse = bs

/-- A valid configuration enables a disabled pool; initialisation frees every buffer and sets READY; ALLOC takes buffers
from the head of the free ring and FREE returns them, each from check to record at once; an allocation that the pool
cannot meet whole takes nothing. A poisoned line of the ring that an allocation reads ends it at check 4 with 0x80, as one
of the bitmap does a free. -/
def Obligations.PoolsGiveAndTakeBuffers : Prop :=
  (∀ (s : State) (m : Master) (p : Fin 256) (v : Word), pdiesDown s = false →
    s.flag Fld.POOL_CFG_ENABLE p = false → poolConfigOk s p (field v 0 5) (field v 16 24) = true →
    exec (.poolEnable m p (.full v)) s =
      .next (s.wr .POOL_CFG p (Reg.POOL_CFG.applyWrite false (s.rd .POOL_CFG p) (.full v)))) ∧
  (∀ (s : State) (p : Fin 256), CsrWf s → Cells.wf (fun _ => (0 : Nat)) s.poolHead = true →
    s.flag Fld.POOL_CFG_ENABLE p = true → s.flag Fld.POOL_CFG_READY p = false → pUnitFailed s (p.val / 64) 3 = false →
    prepare s (poolMaster p) [] [(poolMeta s p, 4 * poolCount s p), (poolBitmap s p, roundUp (ceilDiv (poolCount s p) 8) 64)]
      = .go →
    ∃ t, exec (.poolReady p) s = .next t ∧ poolFree t p = poolCount s p ∧ t.flag Fld.POOL_CFG_READY p = true ∧
      poolHeadOf t p = 0 ∧ poolCount t p = poolCount s p) ∧
  (∀ (s s0 s1 : State) (d : PDie) (j : Job) (as : List Nat),
    let u : EngUnit := .pool d
    let p := jobPool d j
    let n := leAt j.desc 9 1
    let sp := recordSpans s j.counter
    let q := poolSpans s d j
    (jobsOf s u).head? = some j → j.phase = .waiting → poolChecks s d j = (0, 0) →
    prepare s (unitMaster u) (sp.1 ++ q.1) (sp.2 ++ q.2) = .go → injFire s 11 (unitMaster u) = none →
    (j.op = 1 → ringReads s p n = (true, s0) →
      exec (.poolAlloc d) s = .next (jobEnd (startJob u j (failWith s0 0x80 (poolEng s0 p 0 4))) u 0 none)) ∧
    (j.op = 2 → n = 1 → bitmapReads s p [leAt (sliceB j.desc 0x18 8) 0 8] = (true, s0) →
      exec (.poolFree d) s = .next (jobEnd (startJob u j (failWith s0 0x80 (poolEng s0 p 0 4))) u 0 none)) ∧
    (j.op = 1 → ringReads s p n = (false, s0) → poolTake s0 p n = (some as, s1) →
      exec (.poolAlloc d) s = .next (jobEnd (startJob u j
        { status := 0, xfer := if n > 1 then 8 * n else 0, eng := poolEng s1 p (as.headD 0) 0, st := s1,
          writes := if n > 1 then [(leAt j.desc 0x10 8, as.flatMap (leBytes 8))] else [] }) u 0 none)) ∧
    (j.op = 2 → n = 1 → bitmapReads s p [leAt (sliceB j.desc 0x18 8) 0 8] = (false, s0) →
      poolGive s0 p [leAt (sliceB j.desc 0x18 8) 0 8] = (0, s1) →
      exec (.poolFree d) s = .next (jobEnd (startJob u j { status := 0, eng := poolEng s1 p 0 0, st := s1 }) u 0 none))) ∧
  (∀ (s : State) (p n : Nat), poolFree s p < n →
    (poolTake s p n).1 = none ∧ (poolTake s p n).2 = s.satAdd Fld.POOL_STAT_EMPTY p 1)

/-- A write of bytes of a clean line that waits for nothing stores exactly those bytes; a read of a clean line changes
nothing but its place at the home; one of a correctable line counts the correction and owes a write-back, which removes the
errors, as the merge of a partial write and a write of the whole line do; a read of an uncorrectable line stores nothing and
owes nothing: it is bad, counted and recorded as type 2, and a partial write of such a line is dropped and recorded as type 3;
a failed channel is not written; above populated DRAM an access is a class 2 violation; a refresh that is due is counted, no
other; MEM_IL changes its HASH only while LOCK is clear. -/
def Obligations.DramCommandsAct : Prop :=
  (∀ (s : State) (m : Master) (line : Fin 103079215104) (off : Fin 64) (bs : List Byte), bs ≠ [] → off.val + bs.length ≤ 64 →
    let a := line.val * 64 + off.val
    let n := bs.length
    let h := leaveHome s m.toNat a n
    pdiesDown s = false → prepare s m.toNat [] [(a, n)] = .go →
    (regionOf s a = .above → exec (.dramWrite m line off bs) s = .next (violation s 2 m.toNat a true)) ∧
    (regionOf s a = .dram → anyChanFailed s = true → lineOnFailed s line = true →
      exec (.dramWrite m line off bs) s = .next h) ∧
    (regionOf s a = .dram → dramSpecial s = false → anyChanFailed s = false →
      (errLines s a n = [] → exec (.dramWrite m line off bs) s = .next (rawWrite h a bs) ∧
        (MemWf s → ∀ t, exec (.dramWrite m line off bs) s = .next t →
          MemWf t ∧ SameOutside s t a n ∧ ∀ i, i < n → some (rawByte t (a + i)) = bs[i]?)) ∧
      (errLines s a n = [line.val] → n = 64 → exec (.dramWrite m line off bs) s =
        .next (rawWrite { setErrs h line [] with wbPend := h.wbPend.filter (· ≠ line.val) } a bs)) ∧
      (∀ ds, errLines s a n = [line.val] → n < 64 → decodeLine s line = .corrected ds → ∃ t,
        exec (.dramWrite m line off bs) s = .next t ∧ t.mem = (rawWrite s a bs).mem ∧
          t.lineErr = (setErrs s line []).lineErr ∧ line.val ∉ t.wbPend) ∧
      (errLines s a n = [line.val] → n < 64 → decodeLine s line = .uncorrectable → CsrWf s → ∃ t,
        exec (.dramWrite m line off bs) s = .next t ∧ t.mem = s.mem ∧ t.lineErr = s.lineErr ∧ t.wbPend = s.wbPend ∧
          (let ch := (dramMap s (line.val * 64)).1
           field (t.rd .DRAM_ERR_LAST ch) 52 2 = 3 ∧
           t.fld Fld.DRAM_ERR_CNT_UNCORR ch = min (2 ^ Fld.DRAM_ERR_CNT_UNCORR.width - 1) (s.fld Fld.DRAM_ERR_CNT_UNCORR ch + 1))))) ∧
  (∀ (s : State) (m : Master) (line : Fin 103079215104),
    let h := leaveHome s m.toNat (line.val * 64) 64
    let ch := (dramMap s (line.val * 64)).1
    pdiesDown s = false → prepare s m.toNat [(line.val * 64, 64)] [] = .go →
    (regionOf s (line.val * 64) = .above → exec (.dramRead m line) s = .next (violation s 2 m.toNat (line.val * 64) false)) ∧
    (regionOf s (line.val * 64) = .dram →
      (errLines s (line.val * 64) 64 = [] → exec (.dramRead m line) s = .next h) ∧
      (∀ ds, errLines s (line.val * 64) 64 = [line.val] → decodeLine s line = .corrected ds → CsrWf s →
        ∃ t, exec (.dramRead m line) s = .next t ∧ line.val ∈ t.wbPend ∧ t.mem = s.mem ∧ t.lineErr = s.lineErr ∧
          t.fld Fld.DRAM_ERR_CNT_CORRECTED ch = min (2 ^ Fld.DRAM_ERR_CNT_CORRECTED.width - 1) (s.fld Fld.DRAM_ERR_CNT_CORRECTED ch + 1)) ∧
      (errLines s (line.val * 64) 64 = [line.val] → decodeLine s line = .uncorrectable → CsrWf s →
        (memRead s m.toNat 3 (line.val * 64) 64).bad = true ∧
        ∃ t, exec (.dramRead m line) s = .next t ∧ t.wbPend = s.wbPend ∧ t.mem = s.mem ∧ t.lineErr = s.lineErr ∧
          field (t.rd .DRAM_ERR_LAST ch) 52 2 = 2 ∧
          t.fld Fld.DRAM_ERR_CNT_UNCORR ch = min (2 ^ Fld.DRAM_ERR_CNT_UNCORR.width - 1) (s.fld Fld.DRAM_ERR_CNT_UNCORR ch + 1)))) ∧
  (∀ (s : State) (m : Master) (line : Fin 103079215104) (off : Fin 64) (bs : List Byte),
    exec (.dramWrite m line off []) s = .next s ∧
    (pdiesDown s = true → exec (.dramRead m line) s = .next s ∧ exec (.dramWrite m line off bs) s = .next s)) ∧
  (∀ (s : State) (i l : Nat), (s.wbPend[i]? = none → exec (.correctedWriteback i) s = .next s) ∧
    (s.wbPend[i]? = some l → anyChanFailed s = false →
      exec (.correctedWriteback i) s = .next (setErrs { s with wbPend := s.wbPend.eraseIdx i } l []))) ∧
  (∀ (s : State) (ch : Fin 24) (rank : Fin 4) (cycles : BitVec 16) (delayed : BitVec 32),
    ((chanFailed s ch = true ∨ cycles.toNat < refreshInterval s ch) → exec (.refresh ch rank cycles delayed) s = .next s) ∧
    (chanFailed s ch = false → refreshInterval s ch ≤ cycles.toNat →
      exec (.refresh ch rank cycles delayed) s =
        .next ((s.modAdd Fld.DRAM_REFRESH_ISSUED ch 1).modAdd Fld.DRAM_REFRESH_DELAYED ch delayed.toNat))) ∧
  (∀ (s : State) (ch : Fin 24) (hot : Bool),
    exec (.dramTemperatureSensor ch hot) s = .next { s with hot := Cells.put (fun _ => false) s.hot ch hot }) ∧
  (∀ (s : State) (a : CsrAcc), awake s = true →
    exec (.memIlLock a) s =
      .next (s.wr .MEM_IL 0 (Reg.MEM_IL.applyWrite (s.flag Fld.MEM_IL_LOCK 0) (s.rd .MEM_IL 0) a)))

/-- A valid submission is accepted under the next acceptance number; a task that may start and passes its checks is
running and does its work; a finished task ends with its buffer writes, its record and its increment; an abort ends the
tasks with the written job ID and tag. A submission whose descriptor the host holds waits, and none is lost. A granule that
the map does not name reads as zeros. -/
def Obligations.FlashTasksRun : Prop :=
  (∀ (s s1 : State) (x : XDie) (w : Fin 64) (m : Master) (v : Word) (ds : List Byte),
    let ad := v.toNat % 2 ^ 52
    let n := Cells.get (fun _ => 0) s.flash.next x
    let t : FlTask := { seq := n + 1, desc := ds }
    let s2 := dropHost s1 (flashMaster x)
    xdiesUp s = true → (∀ h ∈ s.heldPuts, ∀ w m a, h ≠ .submit x w m a) → ad % 64 = 0 → flashSpan s ad 64 = 0 →
    (prepare s (flashMaster x) [(ad, 64)] [] = .stall s1 → exec (.flSubmit x w m (.full v)) s =
      .next { s1 with heldPuts := s1.heldPuts ++ [.submit x w m.toNat ad] }) ∧
    (prepare s (flashMaster x) [(ad, 64)] [] = .go →
    memRead s (flashMaster x) 3 ad 64 = ⟨ds, false, s1⟩ → t.rec_ % 32 = 0 → flashSpan s2 t.rec_ 32 = 0 →
    counterValid (leAt ds 6 2) = true → (tasksOf s2 x).length < 4096 →
    let u : State := { s2 with flash := { s2.flash with next := Cells.put (fun _ => 0) s2.flash.next x (n + 1) } }
    exec (.flSubmit x w m (.full v)) s = .next (setLast
      (noteUse (setTasks u x (tasksOf u x ++ [t])) (leAt ds 4 1) (flashUse x)) x w m.toNat 0 (some n)))) ∧
  (∀ (s : State) (x : XDie) (i : Nat) (f : NandFaults) (t : FlTask), t.phase = .waiting → flCheck s x t = (0, 0) →
    let s1 := setTask s x { t with phase := .running }
    let r := taskWork s1 x { t with phase := .running } f
    let n := (volOf r.2 x r.1.vol).rebuilt - (volOf s1 x r.1.vol).rebuilt
    let u := dropHost (setTask r.2 x { r.1 with recovered := min 255 (r.1.recovered + n) }) (flashMaster x)
    let may (op : Nat) : Prop := (proceedable s x op)[i]? = some t ∧ t.op = op ∧
      prepare s (flashMaster x) (if op = 2 then [t.span] else []) [] = .go ∧ injFire s1 11 (flashMaster x) = none
    (may 1 → exec (.flashRead x i f) s = .next u) ∧ (may 2 → exec (.flashWrite x i f) s = .next u) ∧
    (may 3 → exec (.flashTrim x i f) s = .next u) ∧ (may 4 → exec (.flashFlush x i f) s = .next u) ∧
    (may 5 → exec (.flashFormat x i f) s = .next u)) ∧
  (∀ (s : State) (x : XDie) (i : Nat) (t : FlTask), (flEndable s x)[i]? = some t →
    let m := flashMaster x
    prepare s m [] ((t.rec_, 32) :: writeSpans t.writes) = .go →
    let s1 := counterAdd (memPut (performWrites s m t.desc t.writes).st m t.rec_ (flRecord x t)) (leAt t.desc 6 2) 1
    let s2 := setTasks s1 x ((tasksOf s1 x).filter (fun u => u.seq ≠ t.seq))
    exec (.flashTaskEnd x i) s = .next (dropHost ((noteOrder s2 x t).modAdd Fld.FL_STATUS_DONE x 1) m)) ∧
  (∀ (s : State) (x : XDie) (a : CsrAcc),
    let ts := (tasksOf s x).filter (fun t => t.phase ≠ .ended && leAt t.desc 4 1 == Fld.FL_ABORT_JOB.presented a
      && leAt t.desc 2 2 == Fld.FL_ABORT_TAG.presented a)
    (xdiesUp s = false ∨ Fld.FL_ABORT_JOB.reached a = false → exec (.flAbort x a) s = .next s) ∧
    (xdiesUp s = true → Fld.FL_ABORT_JOB.reached a = true → exec (.flAbort x a) s = .next (((ts.foldl (fun s t => cutTask s x 0x01 t) s).setFld
      Fld.FL_ABORT_RES_STATUS x (if ts = [] then 2 else 1)).setFld Fld.FL_ABORT_RES_COUNT x ts.length))) ∧
  (∀ (s : State) (x : XDie) (f : NandFaults) (t : FlTask) (j : Nat), t.finished = false →
    Cells.get (fun _ => unmapped) (volOf s x t.vol).map (t.lgn + j) = unmapped →
    readGranule x f (t, s) j =
      ({ t with done := t.done + 1, writes := t.writes ++ [(t.buf + j * 16384, List.replicate 16384 0)] }, s))

/-- A map page that is read joins the map cache, counted for the tasks that wait for it when parity rebuilt it; a filled
superblock whose pages all decode is closed and its parity set released; garbage collection
starts when the free superblocks fall below LOW and moves a valid granule of its victim to the relocation stream; a key
with two different halves is loaded from the key data, which is zeroed, and CLEAR removes it; a volume that is absent or
unformatted takes its configuration and is then UNFORMATTED. While the X-die does not run these registers take nothing. -/
def Obligations.FlashUpkeepActs : Prop :=
  (∀ (s s1 : State) (x : XDie) (i v q : Nat) (f : NandFaults) (r : List Byte × Bool), (fillsOf s x)[i]? = some (v, q) →
    decodePage s x v true q (Cells.get (fun _ => unmapped) (volOf s x v).mapLoc q) (f.bad.contains 0) (f.lost.contains 0) =
      (some r, s1) →
    (mapCache s1 x).length < cacheGib s1 x * 65536 →
    let s2 := setCache s1 x (mapCache s1 x ++ [{ vol := v, q := q }])
    let u := setFills s2 x ((fillsOf s2 x).eraseIdx i)
    exec (.mapPageFill x i f) s = .next (if r.2 = false then u
      else setTasks u x ((tasksOf u x).map (fun t => if waitsFor v q t then { t with recovered := min 255 (t.recovered + 1) } else t)))) ∧
  (∀ (s : State) (x : XDie) (v : Fin 16) (i sb : Nat) (f : NandFaults),
    (((volOf s x v).sbs.filter (fun e => e.2.phase = .filled)).map Prod.fst)[i]? = some sb →
    unreadable s x v sb = [] →
    let s1 := s.satAdd Fld.FL_PARREC_PARITY x 0
    exec (.superblockVerify x v i [] f) s =
      .next (dropParity (setSb s1 x v sb { sbOf (volOf s1 x v) sb with phase := .closed }) x v sb)) ∧
  (∀ (s : State) (x : XDie) (v : Fin 16) (sb : Nat), volState s x v = 3 → (volOf s x v).gc = false →
    freeCount s x v < (gcLimits s x).1 → nextVictim s x v = some sb →
    exec (.garbageCollection x v) s = .next (setVol s x v { volOf s x v with gc := true, victim := some sb })) ∧
  (∀ (s s1 t : State) (x : XDie) (v : Fin 16) (sb pgn n : Nat) (e : Bool × Nat × Nat) (d : List Byte) (b : Bool)
      (f : NandFaults),
    (volOf s x v).victim = some sb → (validIn s x v sb).head? = some e →
    decodePage s x v e.1 e.2.1 e.2.2 (f.bad.contains 0) (f.lost.contains 0) = (some (d, b), s1) →
    writePageCounted s1 x v false { vol := v, lgn := e.2.1, isMap := e.1, data := d } f.prog.length f.damaged = (.ok pgn t, n) →
    exec (.relocateGranule x v f) s = .next (t.satAdd Fld.FL_PARREC_REDIRECT x n)) ∧
  (∀ (s : State) (x : XDie) (m : Master) (a : CsrAcc) (k : Fin 8), xdiesUp s = true → isCoreMaster m.toNat = true →
    exec (.flKeyData x k m a) s = .next (s.wr .FL_KEY_DATA (x.val * 8 + k.val)
      ((s.rd .FL_KEY_DATA (x.val * 8 + k.val) &&& ~~~(accMask a)) ||| accValue a)) ∧
    (let v := Fld.FL_KEY_CMD_VOL.presented a
     Fld.FL_KEY_CMD_LOAD.presented a = 1 → Fld.FL_KEY_CMD_CLEAR.presented a = 0 → volState s x v ≠ 2 → CsrWf s →
     (keyData s x).take 32 ≠ (keyData s x).drop 32 →
      exec (.keyLoad x m a) s = .next (setVol ((clearKeyData s x).setFld Fld.FL_KEY_CMD_RESULT x 0) x v
        { volOf s x v with key := some (keyData s x) })) ∧
    (let v := Fld.FL_KEY_CMD_VOL.presented a
     Fld.FL_KEY_CMD_LOAD.presented a = 0 → Fld.FL_KEY_CMD_CLEAR.presented a = 1 → CsrWf s →
      exec (.keyClear x m a) s =
        (let u := setVol (clearKeyData s x) x v { volOf s x v with key := none }
         .next (if s.flag Fld.FL_VOL_CFG_ENCRYPT (volKey x v) = true ∧ (volState s x v = 3 ∨ volState s x v = 4)
           then setVolState u x v 2 0 else u)))) ∧
  (∀ (s : State) (x : XDie) (v : Fin 16) (m : Master) (a : CsrAcc) (k : Fin 8), xdiesUp s = false →
    exec (.flKeyData x k m a) s = .next s ∧ exec (.keyLoad x m a) s = .next s ∧ exec (.keyClear x m a) s = .next s ∧
      exec (.flVolCfgWrite x v a) s = .next s) ∧
  (∀ (s : State) (x : XDie) (v : Fin 16) (a : CsrAcc), xdiesUp s = true → volState s x v ≤ 1 →
    let s1 := s.plainWrite .FL_VOL_CFG (volKey x v) false a
    let s2 := setVol s1 x v { volOf s1 x v with sbs := initialSbs s1 x v }
    groupCount s2 x v ≠ 0 → flashFailed s2 x = false →
    exec (.flVolCfgWrite x v a) s = .next (setVolState s2 x v 1 0))

/-- A write of PORT_CFG sets the enable bits of interfaces whose lanes work, and MODE, REPLAY and AN of a field port only
while no interface was enabled; PORT_MAC is then written, else left. An enabled interface that comes up, or one that goes
down, changes its LINK bit and posts its event; a REPLAY_REQ sends the kept frames from its number on again, each behind a preamble
with its number, where the interface is enabled; an interface that is not enabled or not up takes no frame; a poll shows the
module, selects the first Application of the port's MODE, and posts what changed. While the X-die does not run a write of
PORT_CFG and a poll change nothing, and no link comes up. -/
def Obligations.PortsAndLinks : Prop :=
  (∀ (s : State) (x : XDie) (p i : Fin 8) (q : Fin 7) (r : PortReg) (a : CsrAcc) (cmis : BitVec 3) (b : Bool) (c : CmisReport),
    xdiesUp s = false → exec (.portCfgWrite x p r a) s = .next s ∧ exec (.cmisPoll x q b cmis c) s = .next s ∧
      exec (.linkUp x p i) s = .next s) ∧
  (∀ (s : State) (x : XDie) (i : RxInfo), i.port.val ≠ 8 →
    ifEnabled s x i.port.val i.iface.val = false ∨ ifUp s x i.port.val i.iface.val = false → ingress s x i = (false, s)) ∧
  (∀ (s : State) (x : XDie) (p : Fin 8) (a : CsrAcc), CsrWf s → xdiesUp s = true →
    let c := portCopy x p
    let on := s.fld Fld.PORT_CFG_ENABLE c ≠ 0
    (∃ t, exec (.portCfgWrite x p .cfg a) s = .next t ∧ { t with csr := s.csr } = s ∧
      t.fld Fld.PORT_CFG_ENABLE c = allowedEnable t x p (s.written Fld.PORT_CFG_ENABLE c a) ∧
      (on ∨ p.val = 7 → t.fld Fld.PORT_CFG_MODE c = s.fld Fld.PORT_CFG_MODE c ∧
        t.fld Fld.PORT_CFG_REPLAY c = s.fld Fld.PORT_CFG_REPLAY c ∧ t.fld Fld.PORT_CFG_AN c = s.fld Fld.PORT_CFG_AN c) ∧
      (¬on → p.val ≠ 7 → t.fld Fld.PORT_CFG_MODE c = s.written Fld.PORT_CFG_MODE c a ∧
        t.fld Fld.PORT_CFG_REPLAY c = s.written Fld.PORT_CFG_REPLAY c a ∧
        t.fld Fld.PORT_CFG_AN c = s.written Fld.PORT_CFG_AN c a)) ∧
    (on → exec (.portCfgWrite x p .mac a) s = .next s) ∧
    (¬on → exec (.portCfgWrite x p .mac a) s = .next (s.wr .PORT_MAC c (Reg.PORT_MAC.applyWrite false (s.rd .PORT_MAC c) a)))) ∧
  (∀ (s : State) (x : XDie) (p i : Fin 8),
    let k := ifKey x p i
    (xdiesUp s = true → ifUp s x p i = false → ifEnabled s x p i = true → ifLaneFailed s x p i = false →
      let t := postEvent (setLinkBit (setPortIf s k { quiet := (portIfAt s k).quiet }) x p i true) x 0x02 p i 0 0 0
      exec (.linkUp x p i) s = .next (if p.val = 7 then ropeLink t x false else t)) ∧
    (ifUp s x p i = true →
      let t := postEvent (setLinkBit s x p i false) x 0x01 p i 0 0 0
      exec (.linkDown x p i) s = .next (if p.val = 7 then ropeLink t x true else t))) ∧
  (∀ (s : State) (x : XDie) (p i : Fin 8) (seq : BitVec 16) (pre post : List (Nat × Frame)) (f : Frame),
    replays s x p = true → (portIfAt s (ifKey x p i)).retry = pre ++ (seq.toNat, f) :: post →
    (∀ e ∈ pre, ¬(e.1 + 65536 - seq.toNat) % 65536 < 32768) → (∀ e ∈ post, (e.1 + 65536 - seq.toNat) % 65536 < 32768) →
    let again := ((seq.toNat, f) :: post).map (fun e => withPreamble (portIfAt s (ifKey x p i)) e.1 e.2)
    exec (.portReplayReq x p i seq) s = .next (if ifEnabled s x p i = true then { s with wire := s.wire ++ again } else s)) ∧
  (∀ (s : State) (x : XDie) (p : Fin 7) (cmis : BitVec 3) (present : Bool) (r : CmisReport), xdiesUp s = true →
    let c := portCopy x p
    let was := s.flag Fld.PORT_STATUS_PRESENT c
    let app := if present then selectApp s x p r.apps else 0
    let v : State := { s with cmisApp := Cells.put (fun _ => 0) s.cmisApp c app }
    let u := (v.setFld Fld.PORT_STATUS_PRESENT c (b2n present)).setFld Fld.PORT_STATUS_CMIS_STATE c cmis.toNat
    let ev (s : State) (type : Nat) : State := postEvent s x type p 0xFF 0 0 0
    let bad := r.fault = true ∨ r.alarm = true
    let out := exec (.cmisPoll x p present cmis r) s
    (present = was → ¬bad ∨ present = false → out = .next u) ∧
    (present = true → was = false → ¬bad → out = .next (ev u 0x04)) ∧
    (present = false → was = true → out = .next (ev u 0x05)) ∧
    (present = true → was = true → bad → out = .next (ev u 0x06)) ∧
    (present = true → was = false → bad → out = .next (ev (ev u 0x04) 0x06))) ∧
  (∀ (s : State) (x p i : Nat) (apps : List (BitVec 8)),
    let shows (k : Nat) : Prop := (apps.map BitVec.toNat)[k]? = some (s.fld Fld.PORT_CFG_MODE (portCopy x p))
    (shows i → (∀ k, k < i → ¬shows k) → selectApp s x p apps = i + 1) ∧
    ((∀ k, ¬shows k) → selectApp s x p apps = 0))

/-- The first waiting frame whose queue has room and that waits behind no frame of its source or queue enters its queue behind
those there; a selection serves a privileged queue whose head its deficit covers when one is eligible, else the eligible queue
with the smallest tag, the lower number among equals, else nothing; the configuration of a queue, a port shaper and a policer
is written, and a changed rate or burst empties its tokens, a frame chosen in the cycle of the write being paid for from them;
queues 60 to 63 are the cores' alone. What a selection gives to the fabric path for the engine itself is received at once. -/
def Obligations.EgressSchedulersSelect : Prop :=
  (∀ (s : State) (x : XDie) (pre post : List Frame) (f : Frame),
    let may (before : List Frame) (g : Frame) : Prop := g.x = x.val ∧
      (schedQAt s (schedKey g.x g.sched g.queue)).frames.length < 256 ∧ ∀ b ∈ before, waitsBehind g b = false
    s.egressWait = pre ++ f :: post → (∀ a g b, pre = a ++ g :: b → ¬may a g) → may pre f →
    let k := schedKey f.x f.sched f.queue
    let c := schedQAt s k
    let t := setSchedQ { s with egressWait := pre ++ post } k { c with frames := c.frames ++ [f] }
    exec (.egressEnqueue x) s = .next (if c.frames = [] then tagHead t f.x f.sched f.queue else t)) ∧
  (∀ (s : State) (x sch accept q : Nat),
    fairPick s x sch accept = some q ↔
      q < 60 ∧ eligible s x sch q accept = true ∧ ∀ r, r < 60 → eligible s x sch r accept = true →
        (schedQAt s (schedKey x sch q)).tag < (schedQAt s (schedKey x sch r)).tag ∨
          ((schedQAt s (schedKey x sch q)).tag = (schedQAt s (schedKey x sch r)).tag ∧ q ≤ r)) ∧
  (∀ (s : State) (x : XDie) (sch : Fin 9) (cycles : BitVec 32) (accept : BitVec 8),
    let u := endVisit (schedTime s x sch cycles.toNat) x sch accept.toNat
    let none_ := ∀ q, 60 ≤ q → q < 64 → eligible u x sch q accept.toNat = false
    (none_ → fairPick u x sch accept.toNat = none → exec (.frameSelect x sch cycles accept) s = .next (pumpLocal u x)) ∧
    (∀ q, none_ → fairPick u x sch accept.toNat = some q →
      exec (.frameSelect x sch cycles accept) s = .next (pumpLocal (serveQueue u x sch q) x)) ∧
    (∀ q r v, 60 ≤ q → q < 64 → eligible u x sch q accept.toNat = true →
      roundPick accept.toNat x sch 6 u = some (r, v) →
      exec (.frameSelect x sch cycles accept) s = .next (pumpLocal (serveQueue v x sch r) x) ∧ eligible v x sch r accept.toNat = true ∧
        ∃ f, headFrame v x sch r = some f ∧ frameL v f ≤ (schedQAt v (schedKey x sch r)).dq)) ∧
  (∀ (s : State) (m : Master) (x : XDie) (sch : Fin 9) (q : Fin 64) (a : CsrAcc), xdiesUp s = true →
    let k := schedKey x sch q
    let u := s.wr .SCHED_Q_CFG k (Reg.SCHED_Q_CFG.applyWrite false (s.rd .SCHED_Q_CFG k) a)
    let same := s.fld Fld.SCHED_Q_CFG_RATE k = u.fld Fld.SCHED_Q_CFG_RATE k ∧
      s.fld Fld.SCHED_Q_CFG_BURST k = u.fld Fld.SCHED_Q_CFG_BURST k
    let t := if same then u else setSchedQ u k { schedQAt u k with tokens := 0 }
    (q.val < 60 ∨ isCoreMaster m.toNat = true → exec (.schedQCfgWrite m x sch q a) s = .next t) ∧
    (60 ≤ q.val → isCoreMaster m.toNat = false →
      exec (.schedQCfgWrite m x sch q a) s = .next (violation s 1 m.toNat (regAddr .SCHED_Q_CFG k) true))) ∧
  (∀ (s v : State) (m : Master) (x : XDie) (sch : Fin 9) (q : Fin 64) (a : CsrAcc) (cycles : BitVec 32)
      (accept : Option (BitVec 8)) (c : Option (Nat × Nat)),
    xdiesUp s = true → chosenFrame (schedTime s x sch cycles.toNat) x sch accept = (c, v) →
    (let k := schedKey x sch q
     let u := v.wr .SCHED_Q_CFG k (Reg.SCHED_Q_CFG.applyWrite false (v.rd .SCHED_Q_CFG k) a)
     let same := v.fld Fld.SCHED_Q_CFG_RATE k = u.fld Fld.SCHED_Q_CFG_RATE k ∧
       v.fld Fld.SCHED_Q_CFG_BURST k = u.fld Fld.SCHED_Q_CFG_BURST k
     let l := c.elim 0 (fun e => if e.1 = q.val then e.2 else 0)
     (q.val < 60 ∨ isCoreMaster m.toNat = true → exec (.shaperWrite m x sch ⟨.queue q, cycles, accept⟩ a) s = .next (if same then u
       else setSchedQ u k { schedQAt u k with tokens := takeTokens 0 (u.fld Fld.SCHED_Q_CFG_RATE k) l })) ∧
     (60 ≤ q.val → isCoreMaster m.toNat = false →
       exec (.shaperWrite m x sch ⟨.queue q, cycles, accept⟩ a) s = .next (violation v 1 m.toNat (regAddr .SCHED_Q_CFG k) true))) ∧
    (let i := x.val * 9 + sch.val
     let u := v.wr .SCHED_PORT_SHAPE i (Reg.SCHED_PORT_SHAPE.applyWrite false (v.rd .SCHED_PORT_SHAPE i) a)
     exec (.shaperWrite m x sch ⟨.port, cycles, accept⟩ a) s =
       .next (if v.rd .SCHED_PORT_SHAPE i = u.rd .SCHED_PORT_SHAPE i then u
         else setSched u x sch { schedAt u x sch with
           tokens := takeTokens 0 (u.fld Fld.SCHED_PORT_SHAPE_RATE i) (c.elim 0 Prod.snd) }))) ∧
  (∀ (s : State) (x : XDie) (sch : Fin 9), chosenFrame s x sch none = (none, s)) ∧
  (∀ (s : State) (m : Master) (x : XDie) (sch : Fin 9) (c : Fin 8) (a : CsrAcc) (cycles : BitVec 32)
      (accept : Option (BitVec 8)),
    xdiesUp s = true → (sch.val = 8 → exec (.shaperWrite m x sch ⟨.policer c, cycles, accept⟩ a) s = .next s) ∧
    (sch.val ≠ 8 →
      let v := policeTime s x sch cycles.toNat
      let i := polCopy x sch c
      let u := v.wr .POL_CFG i (Reg.POL_CFG.applyWrite false (v.rd .POL_CFG i) a)
      exec (.shaperWrite m x sch ⟨.policer c, cycles, accept⟩ a) s =
        .next (if v.rd .POL_CFG i = u.rd .POL_CFG i then u
          else { u with polTokens := Cells.put (fun _ => 0) u.polTokens (polKey x sch c) 0 })))

/-- A descriptor that is next in its send queue and passes its checks becomes a message of which every packet is sent; one
that fails a check ends with that status; a WAIT runs and ends OK when its counter holds the target. A submitted descriptor with a
valid counter joins its queue; a packet whose RTO expires is sent again, or ends its message with DELIVERY_FAILED after
RETRY_MAX; after RNR_DELAY it is sent again; neither happens while the module may not send. A SYNC that is owed is sent; the
pacing rates of a destination and of a queue pair rise; a NOT_READY bucket is filled. A poisoned line of the address table
ends a descriptor with 0x80 at check 3; a submission that must wait for the host is kept. -/
def Obligations.FurrowSendersRun : Prop :=
  (∀ (s s0 s1 : State) (x : XDie) (q : Fin 64) (j : Job) (data : List Byte) (ds : List (Nat × Nat)) (bad : Bool),
    let m := 0x390 + x.val
    let f := furAt s0 x
    let go := (sqJobs s x q).find? (fun j => j.phase = .waiting) = some j ∧ furMay s x q j = true ∧
      prepare s m (peerSpans s x j ++ (if j.op ≤ 2 then [furLocal j] else [])) [] = .go
    let msg := furMessage f j data
    let u := setFur s1 x { f with next := (f.next + 1) % 2 ^ 32, msgs := f.msgs ++ [msg], dests := ds }
    let t := dropHost (sendAll (updateJob u (.furrow x) j.seq (fun k =>
      { k with phase := .running, eng := furEng msg.id msg.dst 0 0 0 })) x msg) m
    let sent := furCheck s x j = (0, 0) ∧ bad = false ∧ touchDest f (furDst j) (s0.fld Fld.FUR_RATE_START x) = some ds ∧
      injFire s1 11 m = none
    let every (t : State) : Prop :=
      (j.op = 1 → exec (.furrowWrite x q) s = .next t) ∧ (j.op = 2 → exec (.furrowSend x q) s = .next t) ∧
      (j.op = 3 → exec (.furrowRead x q) s = .next t) ∧ (j.op = 4 → exec (.furrowAtomicAdd x q) s = .next t) ∧
      (j.op = 5 → exec (.furrowWait x q) s = .next t)
    go → readSpans s m (peerSpans s x j) = (bad, s0) →
    (sent → memRead s0 m 3 (furLocal j).1 (furLocal j).2 = ⟨data, false, s1⟩ →
      (j.op = 1 → exec (.furrowWrite x q) s = .next t) ∧ (j.op = 2 → exec (.furrowSend x q) s = .next t)) ∧
    (sent → s1 = s0 → (j.op = 3 → data = [] → exec (.furrowRead x q) s = .next t) ∧
      (j.op = 4 → data = sliceB j.desc 0x28 8 → exec (.furrowAtomicAdd x q) s = .next t)) ∧
    (furCheck s x j = (0, 0) → bad = false → j.op = 5 → exec (.furrowWait x q) s = .next
      (updateJob s0 (.furrow x) j.seq (fun k => { k with phase := .running, eng := furEng 0 (furDst j) 0 0 0 }))) ∧
    (∀ chk st, furCheck s x j = (chk, st) →
      (chk = 1 ∨ chk = 2 → every (furFinish s x j.seq st 0 (furEng 0 (furDst j) 0 chk 0))) ∧
      (chk = 3 ∨ chk = 4 → bad = false → every (furFinish s0 x j.seq st 0 (furEng 0 (furDst j) 0 chk 0))) ∧
      (chk ≠ 1 → chk ≠ 2 → bad = true → every (furFinish s0 x j.seq 0x80 0 (furEng 0 (furDst j) 0 3 0))))) ∧
  (∀ (s : State) (x : XDie) (q : Fin 64) (j : Job),
    (sqJobs s x q).find? (fun j => j.phase = .running ∧ j.op = 5) = some j →
    exec (.waitSatisfied x q) s = .next
      (if leAt j.desc 0x20 8 ≤ counterVal s (furWaitName j) then furFinish s x j.seq 0 0 j.eng else s)) ∧
  (∀ (s s1 : State) (m : Master) (x : XDie) (v : Word) (d : List Byte) (bad : Bool),
    let a := field v 6 46 * 64
    let st (u : State) (c : Nat) : State := u.setFld Fld.FUR_SUBMIT_STATUS x c
    let out := exec (.furSubmit m x (.full v)) s
    xdiesUp s = true → (∀ h ∈ s.heldPuts, ∀ b, h ≠ .furrow x b) →
    (inDram s a 64 = false → out = .next (st s 0x07)) ∧
    (inDram s a 64 = true → prepare s (0x390 + x.val) [(a, 64)] [] = .stall s1 →
      out = .next { s1 with heldPuts := s1.heldPuts ++ [.furrow x a] }) ∧
    (inDram s a 64 = true → prepare s (0x390 + x.val) [(a, 64)] [] = .go →
     memRead s (0x390 + x.val) 3 a 64 = ⟨d, bad, s1⟩ →
      (counterValid (leAt d 6 2) = false → out = .next (st s1 0x07)) ∧
      (counterValid (leAt d 6 2) = true → queueFull s1 (.furrow x) d = true → out = .next (st s1 0x03)) ∧
      (counterValid (leAt d 6 2) = true → queueFull s1 (.furrow x) d = false →
        let u := st (enqueueJob s1 (.furrow x) d none) 0
        out = .next (if bad = true then furFinish u x s1.jobSeq 0x80 0 (furEng 0 0 0 0 0) else furDeliver u x)))) ∧
  (∀ (s : State) (m : Master) (x : XDie) (q : Fin 64) (a : CsrAcc), xdiesUp s = true →
    let c := x.val * 64 + q.val
    let priv := 60 ≤ s.written Fld.FUR_SQ_CFG_EGRESS c a ∧ Fld.FUR_SQ_CFG_EGRESS.reached a = true
    (¬priv ∨ isCoreMaster m.toNat = true →
      exec (.furSqCfgWrite m x q a) s = .next (s.wr .FUR_SQ_CFG c (Reg.FUR_SQ_CFG.applyWrite false (s.rd .FUR_SQ_CFG c) a))) ∧
    (priv → isCoreMaster m.toNat = false →
      exec (.furSqCfgWrite m x q a) s = .next (violation s 1 m.toNat (regAddr .FUR_SQ_CFG c) true))) ∧
  (∀ (s : State) (x : XDie) (a : CsrAcc), xdiesUp s = true →
    let job := Fld.FUR_ABORT_JOB.presented a
    let tag := Fld.FUR_ABORT_TAG.presented a
    let r := abortJobs s (.furrow x) job tag
    let u := (r.2.setFld Fld.FUR_ABORT_RES_STATUS x (if r.1 = 0 then 2 else 1)).setFld Fld.FUR_ABORT_RES_COUNT x r.1
    let hit := (abortable s (.furrow x) job tag).map Job.seq
    let ms := (furAt u x).msgs.filter (fun m => !m.resp && hit.contains m.seq)
    (Fld.FUR_ABORT_JOB.reached a = false → exec (.furAbort x a) s = .next (furDeliver s x)) ∧
    (Fld.FUR_ABORT_JOB.reached a = true →
      exec (.furAbort x a) s = .next (furDeliver (ms.foldl (fun s m => dropMsg s x m) u) x))) ∧
  (∀ (s : State) (x : XDie) (n k : Nat) (m : FurMsg) (t : TxPkt), msgAt s x n = some m →
    (m.pkts.find? (fun t => t.k = k && !t.acked && !t.waiting && !m.unsent) = some t →
      exec (.retransmitTimeout x n k) s = .next (if maySend s x m = false then s else if t.resent < s.fld Fld.FUR_TIMER_RETRY_MAX x
        then resendPkt s x (setPkt m k (fun t => { t with resent := t.resent + 1 })) k
        else postEvent (endMsg s x m 0x82) x 0x12 0xFF 0xFF 0x82 m.dst m.id)) ∧
    (m.pkts.find? (fun t => t.k = k && !t.acked && t.waiting) = some t →
      exec (.rnrResend x n k) s = .next (if maySend s x m = false then s
        else resendPkt s x (setPkt m k (fun t => { t with waiting := false })) k))) ∧
  (∀ (s : State) (x : XDie) (dst : BitVec 16) (e : Bool), (dst.toNat, e) ∈ (furAt s x).syncDue →
    exec (.syncSend x dst e) s = .next (sendFurrow s x { type := 0x12, dst := dst.toNat, engine := e, msg := 0 } []
      none (Config.replyDscp 0x12).toNat 0 (answerSource x))) ∧
  (∀ (s : State) (x : XDie) (id : BitVec 16) (p : Fin 9),
    (prepare s (0x390 + x.val) [(modEntryAddr s x id.toNat + 8, 8)] [] = .go →
     exec (.rateIncrease x (.dest id)) s = .next (setRate
      (readSpans s (0x390 + x.val) [(modEntryAddr s x id.toNat + 8, 8)]).2 x id.toNat (fun r =>
      min (r + s.fld Fld.FUR_RATE_INC x) (maskRate s x id.toNat)))) ∧
    (∀ i, (qpAt s x i.val).st = 1 → exec (.rateIncrease x (.qp i)) s = .next (setQp s x i { qpAt s x i with
      rate := min ((qpAt s x i).rate + s.fld Fld.FUR_RATE_INC x) (ifRate s x (qpPort (qpAt s x i).ctx)) })) ∧
    exec (.notReadyToken x p) s =
      .next { s with nrEmpty := Cells.put (fun _ => false) s.nrEmpty (x.val * 9 + p.val) false })

/-- A data packet that `rxData` accepts and that is no duplicate is served: a WRITE or READ_RESP holds its write until it is
performed, a SEND takes a slot of its receive ring, a READ_REQ is answered with its data, an ATOMIC_ADD adds; a key that does
not permit it, a queue that cannot take it, and a full entry table draw a NAK; what `rxDuplicate` gives for a duplicate is all
it does; a packet that is not accepted has no other effect. ACK and NAK act on the sender's messages, SYNC marks the entries
that its low mark has passed, and such an entry without open writes is freed after HOLD. Consumer pointers move within what was
produced. A message whose packets may not be sent, or for which no room is, waits. A header's 48 bytes are read back whole. -/
def Obligations.FurrowReceiversServe : Prop :=
  (∀ h : FurHdr, furHeaderOf (furHeaderBytes h) = some h) ∧
  (∀ (s u : State) (x : XDie) (i : RxInfo) (h : FurHdr) (pay : List Byte),
    let w := { h with type := 1 }
    (∀ v, rxData s x i w pay = .error v → exec (.rxWrite x i h pay) s = .next v) ∧
    (rxData s x i w pay = .ok u →
    (∀ v, rxDuplicate u x w = some v → exec (.rxWrite x i h pay) s = .next v) ∧
    (rxDuplicate u x w = none → keyCheck u w ≠ 0 → exec (.rxWrite x i h pay) s = .next (sendNak u x w (keyCheck u w))) ∧
    (rxDuplicate u x w = none → keyCheck u w = 0 → entryRoom u x w = false →
      exec (.rxWrite x i h pay) s = .next (sendNak u x w 0x03)) ∧
    (rxDuplicate u x w = none → keyCheck u w = 0 → entryRoom u x w = true →
      let v := keyHold (putEntry u x w id) (w.key.toNat % 4096)
      exec (.rxWrite x i h pay) s = .next (setFur v x { furAt v x with
        writes := (furAt v x).writes ++ [⟨w, i.port.val, keyTarget v w + w.offset.toNat, pay⟩] })))) ∧
  (∀ (s u : State) (x : XDie) (i : RxInfo) (h : FurHdr) (pay : List Byte) (m : FurMsg) (j : Job),
    let w := { h with type := 4 }
    (∀ v, rxData s x i w pay = .error v → exec (.rxReadResp x i h pay) s = .next v) ∧
    (rxData s x i w pay = .ok u → ∀ v, rxDuplicate u x w = some v → exec (.rxReadResp x i h pay) s = .next v) ∧
    (rxData s x i w pay = .ok u → rxDuplicate u x w = none → readOf u x w = none → exec (.rxReadResp x i h pay) s = .next u) ∧
    (rxData s x i w pay = .ok u → rxDuplicate u x w = none → readOf u x w = some m → entryRoom u x w = false →
      exec (.rxReadResp x i h pay) s = .next (sendNak u x w 0x03)) ∧
    (rxData s x i w pay = .ok u → rxDuplicate u x w = none → readOf u x w = some m → entryRoom u x w = true →
    (jobsOf u (.furrow x)).find? (fun j => j.seq = m.seq) = some j →
    let v := putEntry u x w id
    exec (.rxReadResp x i h pay) s = .next (setFur v x { furAt v x with
      writes := (furAt v x).writes ++ [⟨w, i.port.val, (furLocal j).1 + w.offset.toNat, pay⟩] }))) ∧
  (∀ (s u : State) (x : XDie) (i : RxInfo) (h : FurHdr) (pay : List Byte),
    let w := { h with type := 2 }
    let c := x.val * 64 + w.rq.toNat
    let m := 0x390 + x.val
    let used := (u.fld Fld.FUR_RQ_PTR_PROD c + 2 ^ 32 - u.fld Fld.FUR_RQ_PTR_CONS c) % 2 ^ 32
    let rq := rqCfg u x w.rq.toNat
    (∀ v, rxData s x i w pay = .error v → exec (.rxSend x i h pay) s = .next v) ∧
    (rxData s x i w pay = .ok u → ∀ v, rxDuplicate u x w = some v → exec (.rxSend x i h pay) s = .next v) ∧
    (rxData s x i w pay = .ok u → rxDuplicate u x w = none → entryRoom u x w = false →
      exec (.rxSend x i h pay) s = .next (sendNak u x w 0x03)) ∧
    (rxData s x i w pay = .ok u → rxDuplicate u x w = none → entryRoom u x w = true →
    (rq.1 = false ∨ rq.2.2.1 < pay.length + 32 → exec (.rxSend x i h pay) s = .next (sendNak u x w 0x07)) ∧
    (rq.1 = true → pay.length + 32 ≤ rq.2.2.1 → used = rq.2.1 → exec (.rxSend x i h pay) s = .next (sendNak u x w 0x03)) ∧
    (rq.1 = true → pay.length + 32 ≤ rq.2.2.1 → used ≠ rq.2.1 →
      prepare s m [] [(rqSlot s x w.rq.toNat, 32 + pay.length)] = .go →
      let v := (memPut u m (rqSlot u x w.rq.toNat) (rqHeader w ++ pay)).modAdd Fld.FUR_RQ_PTR_PROD c 1
      let z := counterAdd v (v.fld Fld.FUR_RQ_BASE_COUNTER c) 1
      exec (.rxSend x i h pay) s = .next (sendAck (putEntry z x w (fun e => { e with bitmap := 1, done := true })) x w 0)))) ∧
  (∀ (s u u1 : State) (x : XDie) (i : RxInfo) (h : FurHdr) (data : List Byte) (b : Bool),
    let w := { h with type := 3 }
    let m := 0x390 + x.val
    let n := w.total.toNat
    (∀ v, rxData s x i w [] = .error v → exec (.rxReadReq x i h) s = .next v) ∧
    (rxData s x i w [] = .ok u → ∀ v, rxDuplicate u x w = some v → exec (.rxReadReq x i h) s = .next v) ∧
    (rxData s x i w [] = .ok u → rxDuplicate u x w = none → keyCheck u w ≠ 0 →
      exec (.rxReadReq x i h) s = .next (sendNak u x w (keyCheck u w))) ∧
    (rxData s x i w [] = .ok u → rxDuplicate u x w = none → keyCheck u w = 0 → entryRoom u x w = false →
      exec (.rxReadReq x i h) s = .next (sendNak u x w 0x03)) ∧
    (prepare s m [(keyTarget s w, n)] [] = .go → rxData s x i w [] = .ok u →
    rxDuplicate u x w = none → keyCheck u w = 0 → entryRoom u x w = true →
    memRead u m 3 (keyTarget u w) n = ⟨data, b, u1⟩ →
    let v := putEntry (dropHost u1 m) x w (fun e => { e with bitmap := 1 })
    let msg : FurMsg :=
      { id := w.msg.toNat, type := 4, dst := w.src.toNat, dstEngine := w.srcEngine, seq := 0, total := n, job := w.job.toNat,
        payload := data, resp := true, pkts := (List.range (ceilDiv n 4096)).map (fun k => { k := k }) }
    exec (.rxReadReq x i h) s = .next (openMsg (sendAck v x w 0) x msg))) ∧
  (∀ (s : State) (x : Nat) (m : FurMsg) (ds : List (Nat × Nat)),
    let f := furAt s x
    (maySend s x m = false → startRoom s x m = none) ∧ (m.resp = false → 4096 ≤ inFlight s x → startRoom s x m = none) ∧
    (maySend s x m = true → m.resp = true ∨ inFlight s x < 4096 →
      startRoom s x m = touchDest f m.dst (s.fld Fld.FUR_RATE_START x)) ∧
    (startRoom s x m = some ds → openMsg s x m = sendAll (setFur s x { f with msgs := f.msgs ++ [m], dests := ds }) x m) ∧
    (startRoom s x m = none → openMsg s x m = setFur s x { f with msgs := f.msgs ++ [{ m with unsent := true }] })) ∧
  (∀ (s u u1 : State) (x : XDie) (i : RxInfo) (h : FurHdr) (pay data : List Byte) (b : Bool),
    let w := { h with type := 5 }
    let m := 0x390 + x.val
    let sp : List Span := [(keyTarget s w, 8)]
    (∀ v, rxData s x i w pay = .error v → exec (.rxAtomicAdd x i h pay) s = .next v) ∧
    (rxData s x i w pay = .ok u → ∀ v, rxDuplicate u x w = some v → exec (.rxAtomicAdd x i h pay) s = .next v) ∧
    (rxData s x i w pay = .ok u → rxDuplicate u x w = none → keyCheck u w ≠ 0 →
      exec (.rxAtomicAdd x i h pay) s = .next (sendNak u x w (keyCheck u w))) ∧
    (rxData s x i w pay = .ok u → rxDuplicate u x w = none → keyCheck u w = 0 → entryRoom u x w = false →
      exec (.rxAtomicAdd x i h pay) s = .next (sendNak u x w 0x03)) ∧
    (prepare s m sp sp = .go → rxData s x i w pay = .ok u → rxDuplicate u x w = none →
    keyCheck u w = 0 → entryRoom u x w = true → memRead u m 3 (keyTarget u w) 8 = ⟨data, b, u1⟩ →
    let v := memPut u1 m (keyTarget u w) (leBytes 8 (leNat data + leNat pay))
    let z := putEntry (dropHost v m) x w (fun e => { e with bitmap := 1, done := true, old := leNat data })
    exec (.rxAtomicAdd x i h pay) s = .next (sendAck (keyCount z (w.key.toNat % 4096)) x w (leNat data)))) ∧
  (∀ (s u : State) (x : XDie) (i : RxInfo) (h : FurHdr) (gap : BitVec 32),
    (rxAccept s x i { h with type := 0x10 } [] = .ok u → exec (.rxAck x i h gap) s =
      .next (furAck (noteLow u x { h with type := 0x10 }) x { h with type := 0x10 } gap.toNat)) ∧
    (rxAccept s x i { h with type := 0x11 } [] = .ok u → exec (.rxNak x i h) s =
      .next (furNak (noteLow u x { h with type := 0x11 }) x { h with type := 0x11 })) ∧
    (rxAccept s x i { h with type := 0x12 } [] = .ok u → exec (.rxSync x i h) s =
      .next (setFur u x { furAt u x with entries := (furAt u x).entries.map (fun e =>
        if e.src = h.src.toNat ∧ e.eng = h.srcEngine ∧ 1 ≤ (h.low.toNat + 2 ^ 32 - e.msg) % 2 ^ 32 ∧
          (h.low.toNat + 2 ^ 32 - e.msg) % 2 ^ 32 ≤ 2 ^ 31 then { e with passed := true } else e) })) ∧
    (∀ v, (rxAccept s x i { h with type := 0x10 } [] = .error v → exec (.rxAck x i h gap) s = .next v) ∧
      (rxAccept s x i { h with type := 0x11 } [] = .error v → exec (.rxNak x i h) s = .next v) ∧
      (rxAccept s x i { h with type := 0x12 } [] = .error v → exec (.rxSync x i h) s = .next v))) ∧
  (∀ (s : State) (x : XDie) (n : Nat) (w : RxWrite), (furAt s x).writes[n]? = some w →
    prepare s (0x390 + x.val) [] [(w.addr, w.data.length)] = .go →
    exec (.writePerformed x n) s = .next (afterWrite (dropHost (memPut
      (setFur s x { furAt s x with writes := (furAt s x).writes.eraseIdx n }) (0x390 + x.val) w.addr w.data)
        (0x390 + x.val)) x w)) ∧
  (∀ (s : State) (x : XDie) (n cycles : Nat) (e : RxEntry), (furAt s x).entries[n]? = some e → e.passed = true →
    (∀ w ∈ (furAt s x).writes, entryOf w.hdr e = false) → s.fld Fld.FUR_CFG_HOLD x * 1024 ≤ cycles →
    exec (.entryFree x n cycles) s = .next (setFur s x { furAt s x with entries := (furAt s x).entries.eraseIdx n })) ∧
  (∀ (s : State) (m : Master) (x : XDie) (n : Fin 64) (a : CsrAcc), xdiesUp s = true →
    let ok (prod cons : Fld) (c : Nat) : Prop :=
      (s.written cons c a + 2 ^ 32 - s.fld cons c) % 2 ^ 32 ≤ (s.fld prod c + 2 ^ 32 - s.fld cons c) % 2 ^ 32
    (let c := x.val * 64 + n.val
     exec (.furRqCons m x n a) s = .next (if ok Fld.FUR_RQ_PTR_PROD Fld.FUR_RQ_PTR_CONS c
       then s.setFld Fld.FUR_RQ_PTR_CONS c (s.written Fld.FUR_RQ_PTR_CONS c a)
       else violation s 3 m.toNat (regAddr .FUR_RQ_PTR c) true)) ∧
    exec (.furEvqCons m x a) s = .next (relevel (if ok Fld.FUR_EVQ_PTR_PROD Fld.FUR_EVQ_PTR_CONS x
      then s.setFld Fld.FUR_EVQ_PTR_CONS x (s.written Fld.FUR_EVQ_PTR_CONS x a)
      else violation s 3 m.toNat (regAddr .FUR_EVQ_PTR x) true) (384 + 64 * x.val)))

/-- REGISTER of a free index with rights, a length and a span that lies in one working memory makes a valid key with the next
generation, never 0; of an index in use it is refused. REVOKE of a valid key without packets in flight frees it, with the
event, and one with packets in flight leaves it REVOKING, so that no packet passes its check any more. While X-die 0 does not run neither does anything. -/
def Obligations.FurrowKeysAreRegisteredAndRevoked : Prop :=
  (∀ (s : State) (a : CsrAcc), xdiesUp s = false → exec (.keyRegister a) s = .next s ∧ exec (.keyRevoke a) s = .next s) ∧
  (∀ (s : State) (a : CsrAcc), xdiesUp s = true → Fld.FUR_KEY_CMD_OP.presented a = 1 →
    let u := s.wr .FUR_KEY_CMD 0 (Reg.FUR_KEY_CMD.applyWrite false (s.rd .FUR_KEY_CMD 0) a)
    let i := u.fld Fld.FUR_KEY_CMD_INDEX 0
    let k := keyAt u i
    let rights := u.fld Fld.FUR_KEY_CMD_RIGHTS 0
    let base := u.fld Fld.FUR_KEY_BASE_BASE 0
    let len := u.fld Fld.FUR_KEY_LEN_LEN 0
    let ce := u.flag Fld.FUR_KEY_CMD_COUNT_EN 0
    let cn := u.fld Fld.FUR_KEY_CMD_COUNTER 0
    (k.st ≠ 0 → exec (.keyRegister a) s = .next (u.setFld Fld.FUR_KEY_CMD_RESULT 0 1)) ∧
    (k.st = 0 → rights ≠ 0 → len ≠ 0 → keySpanOk u base len = true → ce = false ∨ counterValid cn = true →
      ∃ gen, 1 ≤ gen ∧ gen < 2 ^ 20 ∧ (k.gen + 1 < 2 ^ 20 → gen = k.gen + 1) ∧
        (let k' : FurKey := ⟨1, gen, rights, ce, cn, base, len, 0⟩
         exec (.keyRegister a) s = .next ((setKey u i k').setFld Fld.FUR_KEY_CMD_RESULT 0 0)))) ∧
  (∀ (s : State) (a : CsrAcc), xdiesUp s = true → Fld.FUR_KEY_CMD_OP.presented a = 2 →
    Cells.wf (fun _ => ({} : FurKey)) s.keys = true →
    let u := s.wr .FUR_KEY_CMD 0 (Reg.FUR_KEY_CMD.applyWrite false (s.rd .FUR_KEY_CMD 0) a)
    let i := u.fld Fld.FUR_KEY_CMD_INDEX 0
    let k := keyAt u i
    let v := (setKey u i { k with st := 2 }).setFld Fld.FUR_KEY_CMD_RESULT 0 0
    (k.st = 1 → k.inFlight ≠ 0 → exec (.keyRevoke a) s = .next v) ∧
    (k.st = 1 → k.inFlight = 0 → exec (.keyRevoke a) s =
      .next (postEvent (setKey v i { k with st := 0 }) 0 0x11 0xFF 0xFF 0 0 (k.gen * 4096 + i))) ∧
    (k.st ≠ 1 → exec (.keyRevoke a) s = .next (u.setFld Fld.FUR_KEY_CMD_RESULT 0 1))) ∧
  (∀ (s : State) (h : FurHdr), (keyAt s (h.key.toNat % 4096)).st ≠ 1 → (keyAt s (h.key.toNat % 4096)).st ≤ 2 →
    keyCheck s h = 0x07 ∨ keyCheck s h = 0x08)

/-- ACTIVATE of a queue pair in RESET with a good context enters RTS with the context's PSN and refreshed counts, of any other
is refused; RESET returns it and ends its writes with DELIVERY_FAILED. A packet that the engine does not support, or that names
no queue pair, is dropped and counted; an acknowledgement completes the requests it covers; a sequence NAK or a timeout spends
one retry and sends again from the oldest PSN, and with none left ends in ERROR; an RNR NAK waits for its timer, and with no
retry left ends in ERROR; a module that is not Ready sends no request again and ends its jobs; a fatal NAK ends in ERROR; a CNP lowers the rate once its gap has passed. -/
def Obligations.RoceQueuePairsAct : Prop :=
  (∀ (s s1 s2 s3 : State) (x : XDie) (i : Fin 2048) (c e o : List Byte) (b : Bool),
    let m := 0x392 + x.val
    let ea := ifEntryAddr s x (qpPort c) (qpIface c)
    let own := modEntryAddr s x (moduleId s)
    let psn := leAt c 4 4 % 2 ^ 24
    prepare s m [(qpCtxAddr s x i, 128)] [] = .go → memRead s m 3 (qpCtxAddr s x i) 128 = ⟨c, false, s1⟩ →
    prepare s m [(ea, 16), (own, 64)] [] = .go → memRead s1 m 3 ea 16 = ⟨e, false, s2⟩ → memRead s2 m 3 own 64 = ⟨o, b, s3⟩ →
    ((qpAt s x i).st ≠ 0 → exec (.qpActivate x i) s = .next (s2.setFld Fld.ROCE_QP_CMD_RESULT x 1)) ∧
    ((qpAt s x i).st = 0 → xUnitFailed s x 2 = false → qpCtxOk c = true → leAt e 6 1 % 2 = 1 →
    exec (.qpActivate x i) s = .next ((setQp s3 x i
      { st := 1, ctx := c, mac := e.take 6,
        src := sliceB o (if x = 1 then 0x20 else 0x10) (if leAt c 0x18 1 % 2 = 1 then 16 else 4), psn := psn, una := psn, rate := s.fld Fld.FUR_RATE_START x,
        retry := leAt c 0x1B 1 % 8, rnr := bits (leAt c 0x1B 1) 3 3 }).setFld Fld.ROCE_QP_CMD_RESULT x 0))) ∧
  (∀ (s : State) (x : XDie) (i : Fin 2048),
    exec (.qpReset x i) s = .next (pumpUnsent (((qpAt s x i).reqs.foldl (fun s r => stopBale s r.die r.seq 0x82)
      (setQp (dropWaiting s (qpSource x i)) x i {})).setFld Fld.ROCE_QP_CMD_RESULT x 0) x)) ∧
  (∀ (s0 s : State) (x : XDie) (p : RoceRx) (psn : BitVec 24) (k : FatalKind) (cycles : BitVec 32),
    (ingress s0 x p.info = (true, s) → p.bad = true ∨ roceKnown p = false ∨ qpOfQpn x p.qpn.toNat = none →
      rxRoce s0 x p = .error (s.satAdd Fld.ROCE_CNT_DROPPED x 1)) ∧
    (rxRoce s0 x p = .error s → ∀ c ∈ [Instr.roceAck x p psn, .psnSequenceErrorNak x p, .rnrNak x p, .fatalNak x p k,
      .cnp x p cycles], exec c s0 = .next s)) ∧
  (∀ (s0 s : State) (x : XDie) (p : RoceRx) (psn : BitVec 24) (i : Nat), rxRoce s0 x p = .ok (i, s) →
    let q := qpAt s x i
    let d := (psn.toNat + 2 ^ 24 - q.una) % 2 ^ 24
    q.st = 1 → d < (q.psn + 2 ^ 24 - q.una) % 2 ^ 24 →
    let acked (r : RoceReq) : Bool := decide ((r.psn + r.count + 2 ^ 24 - q.una) % 2 ^ 24 ≤ d + 1)
    let t := setQp s x i { q with una := (psn.toNat + 1) % 2 ^ 24, reqs := q.reqs.filter (fun r => !acked r),
                                  retry := leAt q.ctx 0x1B 1 % 8, rnr := bits (leAt q.ctx 0x1B 1) 3 3 }
    exec (.roceAck x p psn) s0 = .next (pumpUnsent (pumpBales
      ((q.reqs.filter acked).foldl (fun s r => ackBale (countAcked s r.die r.data.length) r.die r.seq) t)) x)) ∧
  (∀ (s : State) (x i : Nat), moduleReady s = false →
    goBackN s x i = (qpAt s x i).reqs.foldl (fun s r => stopBale s r.die r.seq 0x0D) s) ∧
  (∀ (s : State) (x : XDie) (i : Fin 2048),
    let q := qpAt s x i
    let less (s : State) : State := goBackN (setQp s x i { q with retry := q.retry - 1 }) x i
    q.st = 1 →
    (q.reqs ≠ [] → q.retry ≠ 0 → exec (.ackTimeout x i) s = .next (pumpUnsent (less s) x)) ∧
    (q.reqs ≠ [] → q.retry = 0 → exec (.ackTimeout x i) s = .next (pumpUnsent (qpError s x i 0x82 true) x)) ∧
    (q.rnrWait = true → exec (.rnrTimerExpiry x i) s =
      .next (pumpUnsent (goBackN (setQp s x i { q with rnrWait := false }) x i) x))) ∧
  (∀ (s0 s : State) (x : XDie) (p : RoceRx) (i : Nat), rxRoce s0 x p = .ok (i, s) →
    let q := qpAt s x i
    let n := s.satAdd Fld.ROCE_CNT_NAK x 1
    let less (s : State) : State := goBackN (setQp s x i { q with retry := q.retry - 1 }) x i
    q.st = 1 →
    (q.retry ≠ 0 → exec (.psnSequenceErrorNak x p) s0 = .next (pumpUnsent (less n) x)) ∧
    (q.retry = 0 → exec (.psnSequenceErrorNak x p) s0 = .next (pumpUnsent (qpError n x i 0x82 true) x)) ∧
    (q.rnr ≠ 0 → bits (leAt q.ctx 0x1B 1) 3 3 ≠ 7 →
      exec (.rnrNak x p) s0 = .next (pumpUnsent (setQp n x i { q with rnr := q.rnr - 1, rnrWait := true }) x)) ∧
    (q.rnr = 0 → bits (leAt q.ctx 0x1B 1) 3 3 ≠ 7 → exec (.rnrNak x p) s0 = .next (pumpUnsent (qpError n x i 0x82 true) x)) ∧
    (bits (leAt q.ctx 0x1B 1) 3 3 = 7 → exec (.rnrNak x p) s0 = .next (pumpUnsent (setQp n x i { q with rnrWait := true }) x)) ∧
    exec (.fatalNak x p .remoteAccess) s0 = .next (pumpUnsent (qpError n x i 0x07 true) x) ∧
    exec (.fatalNak x p .invalidRequest) s0 = .next (pumpUnsent (qpError n x i 0x82 true) x) ∧
    exec (.fatalNak x p .remoteOperational) s0 = .next (pumpUnsent (qpError n x i 0x82 true) x) ∧
    (∀ cycles : BitVec 32, CsrWf s →
      let r := q.rate - q.rate * s.fld Fld.FUR_RATE_DEC x / 256
      let c := s.satAdd Fld.ROCE_CNT_CNP x 1
      exec (.cnp x p cycles) s0 = .next (pumpUnsent (if s.fld Fld.FUR_RATE_GAP_DEC_GAP x ≤ cycles.toNat
        then setQp c x i { q with rate := max (s.fld Fld.FUR_RATE_MIN x) r } else c) x)))

/-- A link that trains comes up at the width its lanes reach, with fresh credits; one that loses lock retrains, or goes down.
A good payload flit in order advances the expected number, hands on its acknowledgement and credits, and its slots arrive; one
received before, an idle flit and a replay request hand on what they carry; one that fails its CRC counts a failure and asks
for a replay, after which flits are discarded. A replay request and an ACK timeout resend the kept flits from their number on,
with the acknowledgement of now. A link that goes down has width 0, no device request outstanding, and its reads complete
poisoned, where nothing held takes them at once; with both links down no line is tracked. The 256 bytes of a flit that the device sends carry its header, its CRC and its
message where a receiver reads them. -/
def Obligations.HostLinkFlitLayer : Prop :=
  (∀ (s : State) (x : XDie) (ok16 lo hi rev : Bool),
    let narrow := s.fld Fld.PWR_STATUS_STATE 0 == 2
    let w := trainedWidth (ok16 && !narrow) lo (hi && !narrow)
    let held := s.fld Fld.PWR_STATUS_STATE 0 = 3 ∧ s.fld Fld.PWR_STATUS_PHASE 0 ≠ 3
    (awake s = false ∨ linkUp s x = true ∨ held → exec (.hostLinkTrain x ok16 lo hi rev) s = .next s) ∧
    (awake s = true → linkUp s x = false → ¬held →
    (linkFailed s x = true ∨ w = 0 → exec (.hostLinkTrain x ok16 lo hi rev) s = .next s) ∧
    (linkFailed s x = false → w ≠ 0 → exec (.hostLinkTrain x ok16 lo hi rev) s =
      .next (pumpLink (setWidth ((setLink s x freshLink).setFld Fld.HL_STATUS_REVERSED x (b2n rev)) x w) x)))) ∧
  (∀ (s : State) (x : XDie) (ok16 lo hi rev : Bool),
    let narrow := s.fld Fld.PWR_STATUS_STATE 0 == 2
    let d := detect s 10
    let w := trainedWidth (ok16 && !narrow) lo (hi && !narrow)
    linkUp s x = true → linkUp d x = true →
    (linkFailed d x = false → w ≠ 0 → exec (.lossOfLock x ok16 lo hi rev) s =
      .next (pumpLink (setWidth (d.setFld Fld.HL_STATUS_REVERSED x (b2n rev)) x w) x)) ∧
    (linkFailed d x = true ∨ w = 0 → exec (.lossOfLock x ok16 lo hi rev) s = .next (hostLinkDown d x))) ∧
  (∀ (s : State) (x : XDie) (flit : List Byte),
    let f := (flitFec flit).1
    let u := s.satAdd Fld.HL_CNT_FEC_CORR x (flitFec flit).2
    let h := leAt f 0 4
    let good := crc64 (f.take 244) = leAt f 244 8
    let next := bits h 10 2 = 0 ∧ bits h 0 10 = (linkAt s x).rxExpect
    linkUp s x = true → flit.length = 256 → injFire u 9 x = none →
    (good → next →
      let v := setLink u x { linkAt s x with
        rxExpect := (bits h 0 10 + 1) % 1024, rxAny := true, discarding := false, ackDue := true }
      exec (.hostFlit x flit) s = .next (takeSlots (pumpLink (flitCredits (flitAck v x h) x h) x) x (sliceB f 4 240))) ∧
    (good → ¬next → (linkAt s x).discarding = true → exec (.hostFlit x flit) s = .next u) ∧
    (good → ¬next → (linkAt s x).discarding = false →
      (bits h 10 2 = 0 → exec (.hostFlit x flit) s = .next (pumpLink (flitAck u x h) x)) ∧
      (bits h 10 2 = 1 → exec (.hostFlit x flit) s = .next (pumpLink (flitCredits (flitAck u x h) x h) x)) ∧
      (bits h 10 2 = 2 → exec (.hostFlit x flit) s = .next (pumpLink (replayFrom (flitCredits u x h) x (bits h 12 10)) x))) ∧
    (¬good → exec (.hostFlit x flit) s = .next (flitFailed u x))) ∧
  (∀ (s : State) (x : XDie) (seq : BitVec 10) (pre post : List HostFlit) (f : HostFlit),
    linkUp s x = true → (linkAt s x).retry = pre ++ f :: post → f.seq = seq.toNat →
    (∀ e ∈ pre, ¬(e.seq + 1024 - seq.toNat) % 1024 < 512) → (∀ e ∈ post, (e.seq + 1024 - seq.toNat) % 1024 < 512) →
    let again := (f :: post).map (fun f => { f with ack := linkAck (linkAt s x) })
    let t := { s.satAdd Fld.HL_CNT_REPLAY x 1 with hostOut := s.hostOut ++ again }
    exec (.flitReplayReq x seq) s = .next t ∧ (pre = [] → exec (.flitAckTimeout x) s = .next t)) ∧
  (∀ (s : State) (x : XDie), CsrWf s → linkUp s x = true →
    ∃ t, exec (.hostLinkDown x) s = .next t ∧ t.fld Fld.HL_STATUS_WIDTH x = 0 ∧ (∀ r ∈ t.devReq, r.link ≠ x.val) ∧
      (NothingHeld s → ∀ r ∈ s.devReq, r.link = x.val → r.opcode = 0x03 →
        ({ master := r.master, line := r.line, poison := true, data := [] } : HostLine) ∈ t.hostBuf) ∧
      (linkUp s (1 - x.val) = false → t.snoop = [] ∧ t.snps = [])) ∧
  (∀ (f : HostFlit) (m : HostMsg), f.msg = some m → m.link = f.link → isOpcode m.opcode = true → f.seq < 1024 → f.type < 4 →
    m.tag < 2 ^ 12 → m.addr % 64 = 0 → m.addr < 2 ^ 52 → m.granted < 4 → m.mask < 256 → m.status < 256 →
    m.data.length = (if carriesLine m.opcode = true then 64 else 0) →
    let b := flitBytes f
    b.length = 256 ∧ crc64 (b.take 244) = leAt b 244 8 ∧ bits (leAt b 0 4) 0 10 = f.seq ∧ bits (leAt b 0 4) 10 2 = f.type ∧
      parseSlots f.link 15 (sliceB b 4 240) = ([m], []))

/-- Of a request that none waits before on its link: a coherent read of populated DRAM grants the line and tracks it, or waits,
the oldest way of a full set being snooped first; outside DRAM it is answered with ACCESS_DENIED, in M2 and M3 with NOT_READY; a
writeback stores its line and frees the entry; an eviction frees it; an uncached read or write of DRAM, SRAM or one CSR qword is
performed and answered; each performed request returns its credit. A request behind others waits in order, and one for a line
whose home another access came to first, or that is snooped, keeps its place there. A snoop response
ends its snoop and lets what waits go on; data for a device read is received, poisoned or not, and a completion ends a device
write. -/
def Obligations.HostRequestsAreAnswered : Prop :=
  (∀ (s : State) (x : XDie) (tag : BitVec 12) (line : BitVec 46),
    let a := line.toNat * 64
    let n := line.toNat
    let msg (op : Nat) : HostMsg := { link := x, opcode := op, tag := tag.toNat, addr := a }
    let back (t : State) : Answer := .next (creditBack t x)
    let err (c : Nat) : Answer := back (answerErr s x tag.toNat n c)
    let wait (t : State) (op : Nat) : Answer := .next (waitAtHome (enqueueReq t (msg op)) (msg op))
    let ahead := homeAhead s n (1 + x.val)
    linkUp s x = true → (linkAt s x).rxQueue = [] → (∀ p ∈ s.snps, p.line = n → p.wbWait = false) →
    (inDram s a 64 = false → exec (.rdShared x tag line) s = err 0x07 ∧ exec (.rdOwn x tag line) s = err 0x07 ∧
      exec (.evictClean x tag line) s = err 0x07 ∧ ∀ p d, exec (.wbLine x tag line p d) s = err 0x07) ∧
    (inDram s a 64 = true → asleep s = true → exec (.rdShared x tag line) s = err 0x0D ∧
      exec (.rdOwn x tag line) s = err 0x0D ∧ exec (.evictClean x tag line) s = err 0x0D ∧
      ∀ p d, exec (.wbLine x tag line p d) s = err 0x0D) ∧
    (inDram s a 64 = true → asleep s = false → partialReset s = true ∨ snooping s n = true ∨ ahead = true →
      exec (.rdShared x tag line) s = wait s 1 ∧ exec (.rdOwn x tag line) s = wait s 2) ∧
    (inDram s a 64 = true → asleep s = false → partialReset s = false → snooping s n = false → ahead = false →
      (∀ data bad s1, tracked s n = true ∨ (sameSet s n).length < 16 → dramRead s a 64 = ⟨data, bad, s1⟩ →
        exec (.rdShared x tag line) s = back (answerData (track s1 n false) x tag.toNat n 1 bad data) ∧
        exec (.rdOwn x tag line) s = back (answerData (track s1 n true) x tag.toNat n 2 bad data)) ∧
      (∀ e r, tracked s n = false → 16 ≤ (sameSet s n).length → sameSet s n = e :: r →
        exec (.rdShared x tag line) s = wait (sendSnoop s 0x21 e.line (some x.val)) 1 ∧
        exec (.rdOwn x tag line) s = wait (sendSnoop s 0x21 e.line (some x.val)) 2)) ∧
    (inDram s a 64 = true → asleep s = false →
      exec (.evictClean x tag line) s = back (answer (untrack s n) x 0x32 tag.toNat n 0))) ∧
  (∀ (s : State) (x : XDie) (tag : BitVec 12) (line : BitVec 46) (mask : BitVec 8) (poison : Bool) (data : List Byte),
    let msg (op : Nat) : HostMsg := { link := x, opcode := op, tag := tag.toNat, addr := line.toNat * 64 }
    let data' (op : Nat) : HostMsg := { msg op with poison := poison, data := data }
    linkUp s x = true → (linkAt s x).rxQueue ≠ [] →
    exec (.rdShared x tag line) s = .next (enqueueReq s (msg 1)) ∧ exec (.rdOwn x tag line) s = .next (enqueueReq s (msg 2)) ∧
    exec (.rdUc x tag line mask) s = .next (enqueueReq s { msg 3 with mask := mask.toNat }) ∧
    exec (.wrUc x tag line mask poison data) s = .next (enqueueReq s { data' 5 with mask := mask.toNat }) ∧
    exec (.evictClean x tag line) s = .next (enqueueReq s (msg 6)) ∧
    (snooping s line.toNat = false → exec (.wbLine x tag line poison data) s = .next (enqueueReq s (data' 4)))) ∧
  (∀ (s : State) (x : XDie) (tag : BitVec 12) (line : BitVec 46) (mask : BitVec 8) (poison : Bool) (data : List Byte),
    let m : HostMsg := { link := x, opcode := 3, tag := tag.toNat, addr := line.toNat * 64, mask := mask.toNat }
    let w : HostMsg := { m with opcode := 5, poison := poison, data := data }
    linkUp s x = true → (linkAt s x).rxQueue = [] → asleep s = false → regionOf s (line.toNat * 64) = .dram →
    partialReset s = true ∨ snooping s line.toNat = true ∨ homeAhead s line.toNat (1 + x.val) = true →
    exec (.rdUc x tag line mask) s = .next (waitAtHome (enqueueReq s m) m) ∧
      exec (.wrUc x tag line mask poison data) s = .next (waitAtHome (enqueueReq s w) w)) ∧
  (∀ (s : State) (x : XDie) (tag : BitVec 12) (line : BitVec 46) (poison : Bool) (data : List Byte),
    let a := line.toNat * 64
    let n := line.toNat
    let u := memPut s (1 + x.val) a (sliceB data 0 64)
    let done (u : State) : State := if poison then poisonLine u n else u
    let w := creditBack (answer (untrack (done u) n) x 0x32 tag.toNat n 0) x
    linkUp s x = true → (linkAt s x).rxQueue = [] ∨ snooping s n = true → asleep s = false → inDram s a 64 = true →
    partialReset s = false →
    (w.snps.find? (fun p => p.line == n && p.wbWait) = none → exec (.wbLine x tag line poison data) s = .next w) ∧
    (∀ p, w.snps.find? (fun p => p.line == n && p.wbWait) = some p →
      exec (.wbLine x tag line poison data) s = .next (snoopDone w p)) ∧
    (snooping s n = false → homeAhead s n (1 + x.val) = false → regionOf s a = .dram →
      let put (u : State) : Answer := .next (creditBack (answer (done u) x 0x32 tag.toNat n 0) x)
      exec (.wrUc x tag line 0xFF poison data) s = put u ∧
      (∀ (mask : BitVec 8) q, oneQword mask.toNat = some q →
        exec (.wrUc x tag line mask poison data) s = put (memPut s (1 + x.val) (a + 8 * q) (sliceB data (8 * q) 8))) ∧
      ∀ d bad s1 mask, dramRead s a 64 = ⟨d, bad, s1⟩ →
        exec (.rdUc x tag line mask) s = .next (creditBack (answerData s1 x tag.toNat n 0 bad d) x))) ∧
  (∀ (s : State) (x : XDie) (tag : BitVec 12) (line : BitVec 46) (k : Nat) (d data : List Byte),
    let a := line.toNat * 64
    let back (t : State) : Answer := .next (creditBack t x)
    linkUp s x = true → (linkAt s x).rxQueue = [] → asleep s = false → regionOf s a = .tile k ∨ regionOf s a = .stook k →
    (∀ bad s1, memRead s (1 + x.val) 3 a 64 = ⟨d, bad, s1⟩ → ∀ mask,
      exec (.rdUc x tag line mask) s = back (answerData s1 x tag.toNat line.toNat 0 bad d)) ∧
    exec (.wrUc x tag line 0xFF false data) s =
      back (answer (memPut s (1 + x.val) a (sliceB data 0 64)) x 0x32 tag.toNat line.toNat 0) ∧
    exec (.wrUc x tag line 0xFF true data) s =
      back (answer (memWrite s (1 + x.val) 3 a (sliceB data 0 64) true).st x 0x32 tag.toNat line.toNat 0)) ∧
  (∀ (s s1 : State) (x : XDie) (tag : BitVec 12) (line : BitVec 46) (mask : BitVec 8) (q v : Nat) (data : List Byte),
    let a := line.toNat * 64
    let off := a - csrBase + 8 * q
    let back (t : State) : Answer := .next (creditBack t x)
    let err (c : Nat) : Answer := back (answerErr s x tag.toNat line.toNat c)
    linkUp s x = true → (linkAt s x).rxQueue = [] → regionOf s a = .csr →
    (oneQword mask.toNat = none →
      exec (.rdUc x tag line mask) s = err 0x07 ∧ ∀ poison, exec (.wrUc x tag line mask poison data) s = err 0x07) ∧
    (oneQword mask.toNat = some q → asleep s = true → pdieCsr off = true →
      exec (.rdUc x tag line mask) s = err 0x0D ∧ ∀ poison, exec (.wrUc x tag line mask poison data) s = err 0x0D) ∧
    (asleep s = false ∨ pdieCsr off = false → oneQword mask.toNat = some q →
      (csrLoad s (1 + x.val) off 8 = (v, s1) → exec (.rdUc x tag line mask) s =
        back (answerData s1 x tag.toNat line.toNat 0 false
          (List.replicate (8 * q) 0 ++ leBytes 8 v ++ List.replicate (56 - 8 * q) 0))) ∧
      ∀ poison, exec (.wrUc x tag line mask poison data) s =
        back (answer (settleDebug (csrStore s (1 + x.val) off 8 (leAt data (8 * q) 8))) x 0x32 tag.toNat line.toNat 0))) ∧
  (∀ (s : State) (x : XDie) (tag : BitVec 12) (p : Snoop), snoopOf s x tag.toNat = some p →
    let gone (s : State) : State := { s with snps := s.snps.filter (fun q => !(q.link == p.link && q.tag == p.tag)) }
    let go (t : State) : Answer := .next (hostSettle (gone t) (p.waiter.getD 0))
    exec (.rspI x tag) s = go (untrack s p.line) ∧
    exec (.rspS x tag) s = go (if tracked s p.line then track s p.line false else s) ∧
    (∀ poison data, exec (.rspDataM x tag poison data) s =
      (let u := storeLine s (1 + x.val) p.line poison data
       go (if p.opcode = 0x21 then untrack u p.line else track u p.line false))) ∧
    (tracked s p.line = false → exec (.rspIWb x tag) s = go s) ∧
    (let v : State := { s with snps := s.snps.map (fun q =>
       if q.link = p.link ∧ q.tag = p.tag then { q with wbWait := true } else q) }
     let come := (queuedReturn v p.line 0).or (queuedReturn v p.line 1)
     (tracked s p.line = true → come = none → exec (.rspIWb x tag) s = .next v) ∧
     (∀ m t w, tracked s p.line = true → come = some (m, t) → performReq t m = .done w →
       exec (.rspIWb x tag) s = .next (endWbWait (creditBack w m.link) m)) ∧
     (∀ m t w, tracked s p.line = true → come = some (m, t) → performReq t m = .wait w →
       exec (.rspIWb x tag) s = .next (enqueueReq w m)))) ∧
  (∀ (s : State) (x : Nat), NothingHeld s → s.tagWait = [] → s.homeQ = [] → (∀ y, (linkAt s y).rxQueue = []) →
    hostSettle s x = s) ∧
  (∀ (s : State) (x : XDie) (tag : BitVec 12) (r : DevReq),
    s.devReq.find? (fun r => r.link == x.val && r.tag == tag.toNat) = some r →
    let u := { s with devReq := s.devReq.filter (fun q => !(q.link == x.val && q.tag == tag.toNat)) }
    let line (poison : Bool) (d : List Byte) : State :=
      { u with hostBuf := s.hostBuf ++ [{ master := r.master, line := r.line, poison := poison, data := d }] }
    let go (t : State) : Answer := .next (hostSettle t x)
    exec (.hostComp x tag) s = go u ∧
    (r.opcode = 0x03 → (∀ poison d, exec (.hostData x tag poison d) s = go (line poison d)) ∧
      ∀ st, exec (.hostErr x tag st) s = go (line true [])) ∧
    (r.opcode ≠ 0x03 → (∀ st, exec (.hostErr x tag st) s = go u) ∧
      ∀ poison d, exec (.hostData x tag poison d) s = go u))

/-- A core binds a channel while the lock is clear; the sender's send fills an empty channel and rings the receiver's
doorbell, and of a full one is a violation; the receiver's pop empties it, leaves the reply and rings the sender's; doorbells
clear where 1 is written and hardware does not set; a doorbell's request line follows its bit and mask. Sources pend on their
rise and withdraw; a claim by the target's master returns the lowest pending, unmasked source of the target, clears it and
starts its hold-off; completion ends a level source's service, which pends again while its block requests; any other master's
is a violation. While the module does not run nothing of this happens. -/
def Obligations.MailboxesAndInterruptsAct : Prop :=
  (∀ (s : State) (m : Master) (n : Fin 64) (a : CsrAcc), awake s = true →
    (coreMaster m.toNat = true →
      exec (.mboxBind m n a) s = .next (s.wr .MBOX_BIND n
        (Reg.MBOX_BIND.applyWrite (s.flag Fld.MBOX_LOCK_LOCK 0) (s.rd .MBOX_BIND n) a)) ∧
      exec (.mboxLock m a) s = .next (s.wr .MBOX_LOCK 0 (Reg.MBOX_LOCK.applyWrite false (s.rd .MBOX_LOCK 0) a))) ∧
    (coreMaster m.toNat = false →
      exec (.mboxBind m n a) s = .next (violation s 1 m.toNat (regAddr .MBOX_BIND n) true) ∧
      exec (.mboxLock m a) s = .next (violation s 1 m.toNat (regAddr .MBOX_LOCK 0) true))) ∧
  (∀ (s : State) (m : Master) (n : Fin 64) (a : CsrAcc) (hw : BitVec 32) (src : BitVec 10), awake s = false →
    exec (.mboxBind m n a) s = .next s ∧ exec (.mboxTxSend m n a) s = .next s ∧ exec (.mboxRxPop m n a) s = .next s ∧
      exec (.mboxDbClear a hw) s = .next s ∧ exec (.interruptRaise src) s = .next s ∧ exec (.withdrawal src) s = .next s) ∧
  (∀ (s : State) (m : Master) (n : Fin 64) (a : CsrAcc), awake s = true →
    (isSender s m.toNat n = true → Fld.MBOX_TX_SEND_LEN.reached a = false → exec (.mboxTxSend m n a) s = .next s) ∧
    (isReceiver s m.toNat n = true → Fld.MBOX_RX_POP_REPLY.reached a = false → exec (.mboxRxPop m n a) s = .next s) ∧
    (isReceiver s m.toNat n = true → s.flag Fld.MBOX_CH_STAT_FULL n = false → exec (.mboxRxPop m n a) s = .next s)) ∧
  (∀ (s : State) (m : Master) (n : Fin 64) (a : CsrAcc), awake s = true →
    (isSender s m.toNat n = false → exec (.mboxTxSend m n a) s =
      .next (violation s 1 m.toNat (regAddr .MBOX_TX_SEND n) true)) ∧
    (isSender s m.toNat n = true → Fld.MBOX_TX_SEND_LEN.reached a = true → s.flag Fld.MBOX_CH_STAT_FULL n = true → exec (.mboxTxSend m n a) s =
      .next (violation (s.setFld Fld.MBOX_CH_STAT_DROPPED n 1) 3 m.toNat (regAddr .MBOX_TX_SEND n) true)) ∧
    (isSender s m.toNat n = true → Fld.MBOX_TX_SEND_LEN.reached a = true → s.flag Fld.MBOX_CH_STAT_FULL n = false → CsrWf s →
      ∃ t, exec (.mboxTxSend m n a) s = .next t ∧ SameButIntc s t ∧
        (let d := 64 + s.fld Fld.MBOX_BIND_RX_DB n
         lineOf t d = levelRequest t d) ∧
        t.fld Fld.MBOX_RX_ADDR_ADDR n = s.fld Fld.MBOX_TX_ADDR_ADDR n ∧
        t.fld Fld.MBOX_RX_LEN_LEN n = Fld.MBOX_TX_SEND_LEN.presented a ∧
        t.flag Fld.MBOX_CH_STAT_FULL n = true ∧
        t.fld Fld.MBOX_DB_DB 0 = (s.fld Fld.MBOX_DB_DB 0 ||| 2 ^ s.fld Fld.MBOX_BIND_RX_DB n)) ∧
    (isReceiver s m.toNat n = true → Fld.MBOX_RX_POP_REPLY.reached a = true → s.flag Fld.MBOX_CH_STAT_FULL n = true → CsrWf s →
      ∃ t, exec (.mboxRxPop m n a) s = .next t ∧ SameButIntc s t ∧
        (let d := 64 + s.fld Fld.MBOX_BIND_TX_DB n
         lineOf t d = levelRequest t d) ∧
        t.flag Fld.MBOX_CH_STAT_FULL n = false ∧
        t.fld Fld.MBOX_CH_STAT_REPLY n = Fld.MBOX_RX_POP_REPLY.presented a ∧
        t.fld Fld.MBOX_DB_DB 0 = (s.fld Fld.MBOX_DB_DB 0 ||| 2 ^ s.fld Fld.MBOX_BIND_TX_DB n)) ∧
    (isReceiver s m.toNat n = false → exec (.mboxRxPop m n a) s =
      .next (violation s 1 m.toNat (regAddr .MBOX_RX_POP n) true))) ∧
  (∀ (s : State) (v : Word) (hw : BitVec 32), CsrWf s →
    awake s = true → ∃ t, exec (.mboxDbClear (.full v) hw) s = .next t ∧ SameButIntc s t ∧
      (∀ d, d < 32 → lineOf t (64 + d) = levelRequest t (64 + d)) ∧
      t.fld Fld.MBOX_DB_DB 0 = ((BitVec.ofNat 32 (s.fld Fld.MBOX_DB_DB 0) &&& ~~~(v.setWidth 32)) ||| hw).toNat) ∧
  (∀ (s : State) (src : BitVec 10), awake s = true → isSource src.toNat = true →
    let n := src.toNat
    (isLevel n = false → exec (.interruptRaise src) s = .next (hwPend s n true)) ∧
    (isLevel n = true → levelRequest s n = true → lineOf s n = false → exec (.interruptRaise src) s =
      .next (if serviceOf (setLine s n true) n = 0 then hwPend (setLine s n true) n true else setLine s n true)) ∧
    (isLevel n = true → levelRequest s n = false → lineOf s n = true →
      exec (.withdrawal src) s = .next (hwPend (setLine s n false) n false))) ∧
  (∀ (s : State) (g : Fin 32) (a : CsrAcc), awake s = true →
    let u := s.wr .INTC_GCTL g (Reg.INTC_GCTL.applyWrite false (s.rd .INTC_GCTL g) a)
    exec (.intcPendWrite g a) s =
      .next (refreshIntc (s.wr .INTC_PEND g (Reg.INTC_PEND.applyWrite false (s.rd .INTC_PEND g) a))) ∧
    exec (.intcGctlWrite g a) s =
      .next (if s.flag Fld.INTC_GCTL_HOLD g = true ∧ u.flag Fld.INTC_GCTL_HOLD g = false then applyHeld u g else u) ∧
    exec (.holdoffExpiry g) s = .next (refreshIntc (s.setFld Fld.INTC_GCTL_TIMER g 0))) ∧
  (∀ (s : State) (t : Fin 6), awake s = true →
    let m : Master := BitVec.ofNat 10 (targetMaster t)
    let mine (src : Nat) : Prop := src ∈ pendingSources s ∧ routeOf s src = t.val ∧ maskedOf s src = false
    (∀ src, mine src → (∀ r, mine r → src ≤ r) →
      let u := setPend s src false
      let v := if isLevel src then setService u src (t.val + 1) else u
      let w := v.setFld Fld.INTC_GCTL_TIMER (src / 32) (v.fld Fld.INTC_GCTL_HOLDOFF (src / 32))
      exec (.intcClaim m t) s = .next ((refreshIntc w).wr .INTC_CLAIM t (BitVec.ofNat 64 (src + 1024)))) ∧
    ((∀ src, ¬mine src) →
      let u := if t.val < 2 then s.setFld Fld.INTC_HADDR_ARMED t 0 else s
      exec (.intcClaim m t) s = .next (u.wr .INTC_CLAIM t (BitVec.ofNat 64 2047))) ∧
    (∀ (a : CsrAcc),
      let src := Fld.INTC_COMPLETE_ID.presented a
      Fld.INTC_COMPLETE_ID.reached a = true → isLevel src = true → serviceOf s src = t.val + 1 →
      exec (.intcComplete m t a) s = .next (if levelRequest s src then hwPend (setService s src 0) src true
        else setService s src 0)) ∧
    (∀ (o : Master) (a : CsrAcc), o.toNat ≠ targetMaster t →
      exec (.intcClaim o t) s = .next (violation s 1 o.toNat (regAddr .INTC_CLAIM t) false) ∧
      exec (.intcComplete o t a) s = .next (violation s 1 o.toNat (regAddr .INTC_COMPLETE t) true)))

/-- At a lead its own DISCOVER that has gone around seats the seconds and sends ASSIGN, one too long or after the west branch
began is the fault LENGTH, one of another lead DUAL_LEAD; the lead keeps an ID it holds; a second notes its position (log entry 137 for
one that holds an ID) and hands DISCOVER on, or raises LENGTH; ASSIGN gives it its module ID and forms the rope, or is the fault of a
conflicting ID; with NO_ROPE neither does anything; a JOIN of a seated member is noted with its staging buffer,
one of a conflict unseats it, and one that grants insertion moves a second's bypass; a second applies a RING_STATE and hands it
on. After FORM_WAIT the rope forms open. A packet for a live member leaves by the other rope port, any other is dropped. -/
def Obligations.RopeForms : Prop :=
  (∀ (s u : State) (x : XDie) (i : RxInfo) (h : RopeHdr) (pay : List Byte), rxRope s x 0x20 i h pay = .ok u →
    let serial := (pay.drop 0x10).take 16
    (isLead u = true → (leAt pay 0 1).testBit 0 = false → exec (.ropeDiscover x i h pay) s = .next u) ∧
    (isLead u = true → (leAt pay 0 1).testBit 0 = true →
      (serial = u.fuses.serial → forming u = false → exec (.ropeDiscover x i h pay) s = .next u) ∧
      (serial = u.fuses.serial → forming u = true → u.rope.west = true ∨ 32 < h.hop.toNat →
        exec (.ropeDiscover x i h pay) s = .next (raiseSource (u.setFld Fld.ROPE_STATUS_FAULT 0 2) 33)) ∧
      (serial ≠ u.fuses.serial → u.fld Fld.ROPE_STATUS_FAULT 0 = 0 → exec (.ropeDiscover x i h pay) s =
        .next (raiseSource (u.setFld Fld.ROPE_STATUS_FAULT 0 1) 33)) ∧
      (serial = u.fuses.serial → forming u = true → u.rope.west = false → h.hop.toNat ≤ 32 → u.rope.size = 0 →
        exec (.ropeDiscover x i h pay) s =
          .next (assignRing u ((List.range (h.hop.toNat - 1)).map (· + 1)) h.hop.toNat false))) ∧
    (isLead u = false → u.flag Fld.BRINGUP_CFG_NO_ROPE 0 = true → exec (.ropeDiscover x i h pay) s = .next u) ∧
    (isLead u = false → u.flag Fld.BRINGUP_CFG_NO_ROPE 0 = false →
      let west := (leAt pay 0 1).testBit 1
      let hop := discoverHop u west h.hop.toNat
      let pos := if west then 32 - hop else hop
      let v := { u with rope := { u.rope with seen := pos, west := west, await := true } }
      (hop = 0 ∨ 31 < hop ∨ (u.rope.west ≠ west ∧ u.rope.await = true) → exec (.ropeDiscover x i h pay) s =
        .next (raiseSource (u.setFld Fld.ROPE_STATUS_FAULT 0 2) 33)) ∧
      (1 ≤ hop → hop ≤ 31 → u.rope.await = false ∨ u.rope.west = west → exec (.ropeDiscover x i h pay) s =
        .next (sendHop (v.setFld Fld.ROPE_STATUS_POSITION 0 pos) (1 - x.val) { type := 0x20, hop := hop + 1, nonce := 0 } pay)))) ∧
  (∀ (s : State) (ps : List Nat) (size : Nat) (o : Bool), CsrWf s → s.flag Fld.ROPE_STATUS_ID_VALID 0 = true →
    moduleId (assignRing s ps size o) = moduleId s) ∧
  (∀ (s u : State) (x : XDie) (i : RxInfo) (h : RopeHdr) (pay : List Byte), rxRope s x 0x21 i h pay = .ok u → CsrWf u →
    let base := leAt pay 0 2 % 2048 * 32
    let v := { u with rope := { u.rope with await := false } }
    (isLead u = true ∨ u.rope.seen = 0 ∨ u.flag Fld.BRINGUP_CFG_NO_ROPE 0 = true → exec (.ropeAssign x i h pay) s = .next u) ∧
    (isLead u = false → u.rope.seen ≠ 0 → u.flag Fld.BRINGUP_CFG_NO_ROPE 0 = false → u.flag Fld.ROPE_STATUS_ID_VALID 0 = true → moduleId u ≠ base + u.rope.seen →
      exec (.ropeAssign x i h pay) s = .next (sendJoin (sendHop (raiseSource (v.setFld Fld.ROPE_STATUS_FAULT 0 3) 33) (1 - x.val)
        { type := 0x21, hop := h.hop.toNat + 1, nonce := h.nonce.toNat } pay) base h.nonce.toNat 1)) ∧
    (isLead u = false → u.rope.seen ≠ 0 → u.flag Fld.BRINGUP_CFG_NO_ROPE 0 = false → u.flag Fld.ROPE_STATUS_ID_VALID 0 = false →
      ∃ t, exec (.ropeAssign x i h pay) s = .next t ∧
        t.fld Fld.ROPE_STATUS_MODULE_ID 0 = (leAt pay 0 2 % 2048 * 32 + u.rope.seen) % 2 ^ 16 ∧
        t.flag Fld.ROPE_STATUS_ID_VALID 0 = true ∧ t.flag Fld.ROPE_STATUS_FORMED 0 = true)) ∧
  (∀ (s u : State) (x : XDie) (i : RxInfo) (h : RopeHdr) (pay : List Byte), rxRope s x 0x22 i h pay = .ok u →
    let p := h.pos.toNat
    let fl := leAt pay 0 1
    (isLead u = false → exec (.ropeJoin x i h pay) s = .next (if fl.testBit 2 then insertBypass u else u)) ∧
    (isLead u = true → fl.testBit 0 = true → 1 ≤ p → p < 32 →
      let v := setMember u p 0 0
      exec (.ropeJoin x i h pay) s =
        .next (checkFormed (v.setFld Fld.ROPE_STATUS_MEMBERS 0 (((List.range 32).filter (livePos v)).length)))) ∧
    (isLead u = true → fl.testBit 0 = false → fl.testBit 1 = false → 1 ≤ p → p < 32 → livePos u p = true →
    exec (.ropeJoin x i h pay) s = .next (checkFormed { u with rope := { u.rope with
      joined := if u.rope.joined.contains p then u.rope.joined else u.rope.joined ++ [p],
      staging := Cells.put (fun _ => {}) u.rope.staging p ⟨leAt pay 4 4, leAt pay 8 4⟩ } }))) ∧
  (∀ (s u : State) (x : XDie) (i : RxInfo) (h : RopeHdr) (pay : List Byte), rxRope s x 0x26 i h pay = .ok u →
    (isLead u = true → exec (.ringState x i h pay) s = .next u) ∧
    (isLead u = false →
      let base := moduleId u / 32
      let st (n : Nat) : Nat := leAt pay (8 + n) 1
      let v := (List.range 32).foldl (fun s n => seatMember s base n (st n)) u
      let w := ((List.range 32).filter (fun n => st n == 3)).foldl (fun s n => abandonTo s (base * 32 + n)) v
      let y := w.setFld Fld.ROPE_ROUTE_WEST 0 (leAt pay (0x28 + 4 * ownPos w) 4)
      let z := { y with rope := { y.rope with ringGen := h.seq.toNat, segDown := leAt pay 0 4 } }
      exec (.ringState x i h pay) s = .next (sendHop z (1 - x.val)
        { type := 0x26, seq := h.seq.toNat, hop := h.hop.toNat + 1, nonce := z.rope.nonce } pay))) ∧
  (∀ (s : State) (east west : BitVec 5), awake s = true → forming s = true → s.rope.west = false → s.rope.size = 0 →
    let e := east.toNat
    let w := west.toNat
    let u := sendDiscover { s with rope := { s.rope with west := true } } 1
    (32 ≤ e + w → exec (.formWaitExpiry east west) s = .next (raiseSource (u.setFld Fld.ROPE_STATUS_FAULT 0 2) 33)) ∧
    (e + w ≤ 31 →
      let gap := (List.range (32 - w - e)).foldl (fun m k => m + 2 ^ (e + k)) 0
      exec (.formWaitExpiry east west) s = .next (assignRing { u with rope := { u.rope with segDown := gap } }
        ((List.range e).map (· + 1) ++ (List.range w).map (fun k => 31 - k)) 32 true))) ∧
  (∀ (s u : State) (x : XDie) (i : RxInfo) (h : FurHdr) (k : RopeHdr) (d : List Byte), ingress s x i = (true, u) →
    let out (dst : Nat) (eng : Bool) (q : Nat) (p : Packet) : Answer :=
      .next (sendPacket u { x := x, dst := dst, engine := eng, route := .onward i.srcIp i.dstIp i.sport.toNat i.ce, queue := some q,
                            dscp := i.dscp.toNat, n := 0, pkt := p, source := onwardSource x })
    (memberLive u h.dst.toNat = true → h.src.toNat ≠ moduleId u → ifUp u (1 - x.val) 7 0 = true →
      exec (.ropeForward x i (.furrow h d)) s =
        out h.dst.toNat h.dstEngine (min 59 (u.fld Fld.ROPE_CFG_FWD_QUEUE 0)) (.furrow h d)) ∧
    (memberLive u k.dst.toNat = true → k.src.toNat ≠ moduleId u → ifUp u (1 - x.val) 7 0 = true →
      exec (.ropeForward x i (.rope k d)) s = out k.dst.toNat k.dstEngine (ropeQueue k.type.toNat) (.rope k d)) ∧
    (memberLive u h.dst.toNat = false ∨ h.src.toNat = moduleId u ∨ ifUp u (1 - x.val) 7 0 = false →
      exec (.ropeForward x i (.furrow h d)) s = .next (u.satAdd Fld.FUR_CNT_DROPPED x 1)) ∧
    (memberLive u k.dst.toNat = false ∨ k.src.toNat = moduleId u ∨ ifUp u (1 - x.val) 7 0 = false →
      exec (.ropeForward x i (.rope k d)) s = .next (u.satAdd Fld.FUR_CNT_DROPPED x 1)))

/-- HB_PERIOD sends a heartbeat, and firmware then acts on what it has been told, a free value (log entry 123): an expulsion ordered,
a wish to be inserted, an image to distribute; silence makes a member SUSPECT at the lead and the lead lost at a second, and a heartbeat
ends the suspicion. SETTLE then expels or grants; the expelled member is marked; EXPEL moves the bypass to THROUGH, and
INSERT moves it back only while not EXPELLED; the move ends once settled. A CAIRN tells the lead what is delivered; a TABLE
is checked and acknowledged, and an acknowledgement is noted. A margin record is written to the lead. -/
def Obligations.RopeMembersAreWatched : Prop :=
  (∀ (s : State), awake s = true → s.fld Fld.ROPE_TIMER_HB_PERIOD 0 ≠ 0 → s.flag Fld.ROPE_STATUS_FORMED 0 = true →
    let m : RopeMsg := { type := 0x27, seq := s.rope.hbCount, hop := 1, nonce := s.rope.nonce }
    let u := { s with rope := { s.rope with hbCount := (s.rope.hbCount + 1) % 2 ^ 32, periods := s.rope.periods + 1 } }
    let t := if isLead s then sendNext (sendNext u 0 m (heartbeatBytes u)) 1 m (heartbeatBytes u)
      else sendUni u (leadId u) m (heartbeatBytes u)
    exec .heartbeatPeriod s = .next (periodWork { t with free := t.free + 1 } (Config.periodNews t.free)) ∧
    (∀ (p : Fin 32) (e : Bool), isLead s = false → s.flag Fld.ROPE_STATUS_LEAD_LOST 0 = false →
      exec (.heartbeatMiss p e) s = .next (raiseSource (s.setFld Fld.ROPE_STATUS_LEAD_LOST 0 1) 34)) ∧
    (∀ (p : Fin 32) (e : Bool), isLead s = true → p ≠ 0 → exec (.heartbeatMiss p e) s =
      .next (if e then beginExpel (suspect s p 1) p 1 else suspect s p 1))) ∧
  (∀ s : State,
    let news (o : List (Fin 32 × Fin 6)) (i : Bool) (g : Option FwGive) : PeriodNews := ⟨[], [], [], o, i, g⟩
    periodWork s (news [] false none) = s ∧
    (∀ p : Fin 32, isLead s = true → p ≠ 0 → periodWork s (news [(p, 5)] false none) = beginExpel s p 5) ∧
    (isLead s = false → periodWork s (news [] true none) = sendJoin s (leadId s) s.rope.nonce 2) ∧
    (∀ g, periodWork s (news [] false (some g)) = fwGive s g) ∧
    (∀ (seg : Fin 32) (down : Bool), isLead s = true → s.flag Fld.ROPE_STATUS_FORMED 0 = true → s.rope.segDown.testBit seg ≠ down →
      periodWork s ⟨[], [], [(seg, down)], [], false, none⟩ =
        publishRing { s with rope := { s.rope with segDown := putBits s.rope.segDown seg 1 (b2n down) } }) ∧
    (∀ id : BitVec 16, periodWork s ⟨[id], [], [], [], false, none⟩ =
      (s.repl.filter (fun t => t.phase = .sent ∧ t.dest = id.toNat)).foldl failTry s) ∧
    (∀ j : Fin 64, periodWork s ⟨[], [j], [], [], false, none⟩ = stopJob s j 0x81)) ∧
  (∀ (s u : State) (x : XDie) (i : RxInfo) (h : RopeHdr) (pay : List Byte), rxRope s x 0x27 i h pay = .ok u →
    isLead u = true → h.pos.toNat < 32 →
    let p := h.pos.toNat
    exec (.ropeHeartbeat x i h pay) s = .next (if u.fld Fld.ROPE_MEMBER_STATE p = 2 ∧ (causesOf u p).contains 1 = true
      then setCauses u p ((causesOf u p).filter (· ≠ 1)) else u)) ∧
  (∀ (s : State) (n c : Nat), livePos s n = true →
    let cs := Cells.put (fun _ => []) s.rope.causes n ((causesOf s n).filter (· ≠ c) ++ [c])
    suspect s n c = setMember { s with rope := { s.rope with causes := cs } } n 2 c) ∧
  (∀ (s : State) (p : Fin 32) (e : Planned), awake s = true → s.rope.planned.find? (fun e => e.pos == p.val) = some e →
    let u := { s with rope := { s.rope with planned := s.rope.planned.filter (fun k => k.pos != p.val) } }
    let dst := s.fld Fld.ROPE_CFG_ID_BASE 0 * 32 + p.val
    let v := { u with rope := { u.rope with expulsions := u.rope.expulsions ++ [ropeStep u],
                                            expelling := u.rope.expelling ++ [p.val] } }
    exec (.settleExpiry p) s = .next (if e.expel
      then sendUni (v.satAdd Fld.ROPE_COUNT_EXPELLED 0 1) dst { type := 0x28, seq := ropeStep u, nonce := s.rope.nonce }
        (leBytes 1 e.cause ++ leBytes 7 0)
      else sendUni u dst { type := 0x22, nonce := s.rope.nonce } (leBytes 1 4 ++ leBytes 31 0))) ∧
  (∀ (s : State) (p : Fin 32), awake s = true → p.val ∈ s.rope.expelling →
    let u := { s with rope := { s.rope with expelling := s.rope.expelling.filter (· ≠ p.val) } }
    let v := setMember (markSegments u p false) p 3 0
    exec (.memberExpelled p) s = .next ((v.repl.filter (fun t =>
      t.phase = .sent ∧ t.dest = s.fld Fld.ROPE_MEMBER_MODULE_ID p)).foldl failTry v)) ∧
  (∀ (s u : State) (x : XDie) (i : RxInfo) (h : RopeHdr) (pay : List Byte), rxRope s x 0x28 i h pay = .ok u →
    exec (.ropeExpel x i h pay) s = .next (u.jobs.foldl (fun s j => stopJob s j.id 0x10)
      (moveBypass (u.setFld Fld.ROPE_BYPASS_EXPELLED 0 1) 0))) ∧
  (∀ (s : State) (m : Master) (v : Word), awake s = true → ropeMaster m.toNat = true →
    (s.flag Fld.ROPE_BYPASS_EXPELLED 0 = true → exec (.ropeBypassInsert m (.full v)) s = .next s) ∧
    (s.flag Fld.ROPE_BYPASS_EXPELLED 0 = false → field v 2 1 = 1 → exec (.ropeBypassInsert m (.full v)) s =
      .next (moveBypass (s.setFld Fld.ROPE_BYPASS_INSERT 0 1) 1)) ∧
    (s.flag Fld.ROPE_BYPASS_EXPELLED 0 = false → field v 2 1 = 0 → exec (.ropeBypassInsert m (.full v)) s =
      .next (s.setFld Fld.ROPE_BYPASS_INSERT 0 0)) ∧
    (s.fld Fld.ROPE_BYPASS_STATE 0 = 2 → exec .opticalPathSettled s =
      .next ((s.setFld Fld.ROPE_BYPASS_STATE 0 s.rope.moveTo).modAdd Fld.ROPE_BYPASS_MOVES 0 1))) ∧
  (∀ (s u : State) (x : XDie) (i : RxInfo) (h : RopeHdr) (pay table : List Byte) (place : Word),
    rxRope s x 0x23 i h pay = .ok u → isLead u = true → h.pos.toNat < 32 →
    let job := h.image.toNat % 256
    let v := noteDelivered u job h.pos.toNat (leAt pay 0 4)
    exec (.ropeCairn x i h pay [] place) s = .next v ∧
    (cairnPrep s h table place.toNat = .go → exec (.ropeCairn x i h pay table place) s = .next (issueTable v job place.toNat table))) ∧
  (∀ (s u : State) (x : XDie) (i : RxInfo) (h : RopeHdr) (pay data : List Byte) (place : Word) (bad : Bool) (t : State),
    let job := h.image.toNat % 256
    let st := tableStatus (dropHost t 0x10) job h.seq.toNat (leAt pay 0 4) (h.spec.toNat % 2 ^ 32) data
    let v := if st = 0 then installTable (dropHost t 0x10) job place.toNat data else dropHost t 0x10
    let w := sendUni v (leadId v) { type := 0x25, seq := h.seq.toNat, image := job, nonce := v.rope.nonce }
      (leBytes 1 st ++ leBytes 3 0 ++ leBytes 4 (counterVal v (deliveredName job)))
    tablePrep s h pay place.toNat = .go → rxRope s x 0x24 i h pay = .ok u → isLead u = false →
    memRead u 0x10 3 (tableSpan u h).1 (tableSpan u h).2 = ⟨data, bad, t⟩ →
    exec (.ropeTable x i h pay place) s = .next (if st = 0x81 then tableLate w job else w)) ∧
  (∀ (s u : State) (x : XDie) (i : RxInfo) (h : RopeHdr) (pay : List Byte), rxRope s x 0x25 i h pay = .ok u →
    isLead u = true → h.pos.toNat < 32 →
    let job := h.image.toNat % 256
    let v := noteDelivered u job h.pos.toNat (leAt pay 4 4)
    (leAt pay 0 1 = 0 → exec (.tableAck x i h pay) s = .next (tableAcked v job h.seq.toNat h.pos.toNat)) ∧
    (leAt pay 0 1 = 0x81 → exec (.tableAck x i h pay) s = .next (tableLate v job))) ∧
  (∀ (s : State) (g : Margin) (q : Nat), awake s = true → s.fld Fld.ROPE_TIMER2_MARGIN_PERIOD 0 ≠ 0 →
    s.flag Fld.ROPE_STATUS_FORMED 0 = true → marginQueue s = some q →
    let u := { s with rope := { s.rope with marginSeq := (s.rope.marginSeq + 1) % 2 ^ 32 } }
    let v := firmwareWrite u q (leadId s) s.rope.marginKey (64 * ownPos s) (marginBytes s g)
    exec (.marginPeriod g) s = .next (if isLead v then readMargins v else v))

/-- A new image chunk at a second is kept until the manifest is signed; a new manifest chunk is kept and handed on; a FW_NACK
for chunks that are held is answered with each of them; FW_WAIT asks again, 17 times, then fails the image; ACTIVATE installs
a verified image and DISCARD forgets it. -/
def Obligations.RopeFirmwareSpreads : Prop :=
  (∀ (s u : State) (x : XDie) (i : RxInfo) (h : RopeHdr) (pay : List Byte) (k : Bool),
    let n := h.seq.toNat
    let f : FwDist := { u.rope.fw with nacks := 0, asked := u.rope.fw.asked.filter (fun e => e != (k, n)) }
    let g := f.store k n pay
    rxRope s x (if k then 0x2A else 0x29) i h pay = .ok u → isLead u = false → fwState u = 1 → f.image = h.image.toNat →
    pay ≠ [] → h.spec.toNat.testBit 1 = false → f.count k ≠ 0 → n < f.count k → f.chunk k n = [] →
    f.signed = false → fwMissing (setFw u g) k n = [] →
    (k = true → exec (.fwChunk x i h pay) s = .next (setFw u g)) ∧
    (k = false → g.manifestHeld = false →
      exec (.fwManifest x i h pay) s = .next (fwPay (fwForward (setFw u g) false n) false n))) ∧
  (∀ (s u : State) (x : XDie) (i : RxInfo) (h : RopeHdr) (pay : List Byte), rxRope s x 0x2B i h pay = .ok u →
    let k := decide (leAt pay 0 1 = 1)
    let ns := ((List.range 256).filter (fun j => (leAt pay 8 32).testBit j)).map (· + h.seq.toNat)
    u.rope.fw.image = h.image.toNat → fwState u = 1 ∨ fwState u = 2 → (∀ n ∈ ns, u.rope.fw.ready k n = true) →
    exec (.fwNack x i h pay) s = .next (ns.foldl (fun s n =>
      sendUni s h.src.toNat (chunkMsg s k n true) (s.rope.fw.chunk k n)) u)) ∧
  (∀ (s : State), awake s = true → fwState s = 1 →
    (17 ≤ s.rope.fw.nacks → exec .fwWaitExpiry s = .next (fwFail s)) ∧
    (s.rope.fw.nacks < 17 →
      let u := setFw s { s.rope.fw with nacks := s.rope.fw.nacks + 1 }
      let v := sendFwNack u false (fwMissing u false (max 1 s.rope.fw.nManifest))
      exec .fwWaitExpiry s = .next (sendFwNack v true (fwMissing v true s.rope.fw.nChunks)))) ∧
  (∀ (s : State) (m : Master) (a : CsrAcc), awake s = true → ropeMaster m.toNat = true →
    (Fld.ROPE_FW_CMD_ACTIVATE.presented a = 1 → Fld.ROPE_FW_CMD_DISCARD.presented a = 0 → fwState s = 2 →
      exec (.fwActivate m a) s = .next (installImage s 3 s.rope.fw.whole (s.rope.fw.chunk true))) ∧
    (Fld.ROPE_FW_CMD_ACTIVATE.presented a = 0 → Fld.ROPE_FW_CMD_DISCARD.presented a = 1 →
      exec (.fwDiscard m a) s = .next ((setFw s {}).setFld Fld.ROPE_FW_STATUS_STATE 0 0)))

/-- A write of the next step's number by a master that may starts it and does its work: failing units are marked in the
floor plan, lanes checked, DRAM tested and mapped, flash mounted, the rope begun, SRAM cleared, READY set. A write of step 1 out
of order is a violation. A step that ends records its status and time, and counts as done if OK; the rope step ends by FORMED or
FAULT. A write of a floor plan word sets bits, a P-die's with both its die-to-die links, and starts what their units' failure
brings; FP_GEN grows by one. -/
def Obligations.BringUpStepsRun : Prop :=
  (∀ (s : State) (m : Master) (a : CsrAcc),
    let may (n : Nat) : Prop := StepStarts s m.toNat n a
    let u (n : Nat) : State := stepBegun s n
    (∀ ref pll, may 1 → exec (.bringupClocks m a ref pll) s = .next (setStatus
      (remarkCores (markFloor (u 1) 14 (pll.toNat % 16 * 2 ^ 32))) (if ref = false ∨ 16 ≤ pll.toNat then 0x10 else 0))) ∧
    (∀ errs, may 2 → exec (.bringupTrain m a errs) s = .next (storePhys (errs.foldl (fun s e =>
      markFloor s (trainBit e).1 (2 ^ (trainBit e).2)) (u 2)))) ∧
    (∀ lanes d2d, may 3 → exec (.bringupLanecheck m a lanes d2d) s = .next (d2dCheck (laneCheck (u 3) lanes) d2d)) ∧
    (∀ lost, may 4 → exec (.bringupMemtest m a lost []) s = .next (loseDram (markFloor (u 4) 11 lost.toNat)) ∧
      ∀ r, exec (.bringupMemtest m a lost [r]) s = .next (loseDram (markFloor (memTestRead (u 4) r) 11 lost.toNat))) ∧
    (∀ dimms, may 5 → exec (.bringupMemmap m a dimms) s = .next (memMap (u 5) dimms)) ∧
    (∀ r, may 6 → exec (.bringupFlash m a r) s = .next (mountFlash (u 6) r)) ∧
    (∀ k b l, may 7 → (u 7).flag Fld.BRINGUP_CFG_NO_ROPE 0 = true → exec (.bringupRope m a k b l) s = .next (u 7)) ∧
    (∀ k b l, may 7 → (u 7).flag Fld.BRINGUP_CFG_NO_ROPE 0 = false →
      exec (.bringupRope m a k b l) s = .next (ropeBegin (u 7) k.toNat b.toNat l.toNat)) ∧
    (∀ fails, may 8 →
      let v := fails.foldl (fun s (e : Fin 48 × Word) => markFloor s e.1 e.2.toNat) (u 8)
      exec (.bringupUnittest m a fails) s = .next { v with mem := Cells.drop (fun a => stookBase ≤ a) v.mem, badPar := [] }) ∧
    (may 9 → exec (.bringupReady m a) s = .next (pumpAll { (u 9).setFld Fld.BRINGUP_STEP_READY 0 1 with everReady := true }))) ∧
  (∀ (s : State) (m : Master) (v : Word), awake s = true → bringupMaster m.toNat = true → field v 0 4 ≠ s.fld Fld.BRINGUP_STEP_DONE 0 + 1 →
    field v 0 4 = 1 → s.stepDue = false → ∀ ref pll,
    exec (.bringupClocks m (.full v) ref pll) s = .next (violation s 4 m.toNat (regAddr .BRINGUP_STEP 0) true)) ∧
  (∀ (s : State) (u : TrainUnit), awake s = true → running s = 2 →
    exec (.trainingTimeout u) s = .next (dropPhy (markFloor s (trainBit u).1 (2 ^ (trainBit u).2)) u)) ∧
  (∀ (s : State) (x : XDie) (p l : Fin 8), awake s = true → running s = 3 → laneChecks s (portNumber x p) l = true →
    laneRes s (portNumber x p) l = 0 → exec (.prbsLockTimeout x p l) s = .next (setLaneRes s (portNumber x p) l 3)) ∧
  (∀ (s : State), awake s = true → running s = 7 → s.flag Fld.BRINGUP_CFG_NO_ROPE 0 = false → s.flag Fld.ROPE_STATUS_FORMED 0 = false →
    exec .ropeWaitExpiry s = .next (endStep s 0x0D (max 1 (s.fld Fld.BRINGUP_CFG_ROPE_WAIT 0) * 100000))) ∧
  (∀ (s : State) (elapsed : BitVec 32), CsrWf s → awake s = true → running s ≠ 0 → running s ≠ 7 → s.stepDue = false → s.stepStatus < 256 →
    ∃ t, exec (.bringupStepEnd elapsed) s = .next t ∧ running t = 0 ∧ t.fld Fld.BRINGUP_STEP_STATUS 0 = s.stepStatus ∧
      t.fld Fld.BRINGUP_STEP_ELAPSED 0 = elapsed.toNat ∧
      t.fld Fld.BRINGUP_STEP_DONE 0 = (if s.stepStatus = 0 then running s else s.fld Fld.BRINGUP_STEP_DONE 0)) ∧
  (∀ (s : State) (elapsed : BitVec 32), awake s = true → running s = 7 → s.stepDue = false → s.flag Fld.BRINGUP_CFG_NO_ROPE 0 = false →
    (s.fld Fld.ROPE_STATUS_FAULT 0 ≠ 0 → exec (.bringupStepEnd elapsed) s = .next (endStep s 0x81 elapsed.toNat)) ∧
    (s.fld Fld.ROPE_STATUS_FAULT 0 = 0 → s.flag Fld.ROPE_STATUS_FORMED 0 = true →
      exec (.bringupStepEnd elapsed) s = .next (endStep s 0 elapsed.toNat))) ∧
  (∀ (s : State) (m : Master) (w : Fin 48) (a : CsrAcc), awake s = true → bringupMaster m.toNat = true →
    let old := (s.rd .FLOOR w).toNat
    let given := (accValue a).toNat
    let bits := if w.val = 14 then given ||| cutOff (old ||| (given &&& floorBits 14)) else given
    let new := (bits &&& floorBits w) &&& (old ^^^ (2 ^ 64 - 1))
    (∀ d, d < 4 → (cutOff old).testBit (32 + d) = (old.testBit (16 + 2 * d) && old.testBit (17 + 2 * d))) ∧
    (new = 0 → exec (.floorWrite m w a) s = .next s) ∧
    (new ≠ 0 →
      let v := s.wr .FLOOR w (BitVec.ofNat 64 (old ||| new))
      let u := (if w.val = 47 then (maskBits new).foldl markStook v else v).modAdd Fld.FP_GEN_GEN 0 1
      exec (.floorWrite m w a) s = .next (stopFailedJobs ((maskBits new).foldl (fun s n => floorEffect s w n)
        (detect (raiseSource u 1) 12)))))

/-- A full reset clears registers, memory and contexts and keeps fuses, NAND pages and boot store; a partial reset runs through
its four states; an entry is refused with its failing check or begins with DRAIN, or CUT for M1; DRAIN narrows the links; CUT
ends in the new state; an abort ends the entry; an exit returns to M0, marking the units that have not come back; a request or a sense crossing wakes; a stook at rest is gated in M1 and ungated. -/
def Obligations.ResetsAndPowerStatesAct : Prop :=
  (∀ (s : State) (m : Master) (v : Word), awake s = true → bringupMaster m.toNat = true →
    (field v 0 1 = 1 → exec (.resetFull m (.full v)) s = .next (fullReset s)) ∧
    (field v 0 1 = 0 → field v 1 1 = 1 → 7 ≤ s.fld Fld.BRINGUP_STEP_DONE 0 → s.fld Fld.BRINGUP_STEP_RUNNING 0 = 0 →
      partialReset s = false → exec (.resetPdie m (.full v)) s = .next (startPartial s))) ∧
  (∀ s : State, (fullReset s).csr = [] ∧ (fullReset s).mem = [] ∧ (fullReset s).ctx = [] ∧ (fullReset s).fuses = s.fuses ∧
    (fullReset s).flash.pages = s.flash.pages ∧ (fullReset s).flash.logs = s.flash.logs ∧
    (fullReset s).anchor.store = s.anchor.store ∧
    (fullReset s).pins.inReset = true ∧ (fullReset s).pending = s.pending) ∧
  (∀ s : State,
    (s.fld Fld.RESET_CTL_PSTATE 0 = 1 → s.snoop = [] → s.snps = [] →
      exec .resetHeld s = .next (s.setFld Fld.RESET_CTL_PSTATE 0 2)) ∧
    (s.fld Fld.RESET_CTL_PSTATE 0 = 1 → s.snoop ≠ [] ∨ s.snps ≠ [] → exec .resetHeld s =
      .next ((s.snoop.map SnoopEntry.line).foldl (fun s l => sendSnoop s 0x21 l none) s)) ∧
    (s.fld Fld.RESET_CTL_PSTATE 0 = 2 → exec .resetRestore s = .next (s.setFld Fld.RESET_CTL_PSTATE 0 3)) ∧
    (∀ errs, s.fld Fld.RESET_CTL_PSTATE 0 = 3 →
      exec (.partialResetComplete errs) s = .next (hostSettle (raiseSource ((((d2dCheck s (errs.map BitVec.toNat)).setFld
        Fld.RESET_CTL_PSTATE 0 0).setFld Fld.BRINGUP_STEP_DONE 0 7).modAdd Fld.RESET_CTL_PCOUNT 0 1) 0) 0))) ∧
  (∀ (s : State) (m : Master) (t : Nat) (v : Word), awake s = true → powerMaster m.toNat t = true → lifecycle s ≠ 4 →
    Fld.PWR_REQ_TARGET.presented (.full v) = t →
    let r : Answer := .next (match entryCheck s t with | some (chk, id) => refuseEntry s t chk id | none => beginEntry s t)
    (t = 0 → pwrPhase s = 1 → s.pwr.aborting = false →
      exec (.requestM0 m (.full v)) s = .next (abortEntry s m.toNat)) ∧
    (t = 0 → pwrPhase s = 0 → 1 ≤ pwrState s → pwrState s ≤ 3 →
      exec (.requestM0 m (.full v)) s = .next (startExit (requestCause s m.toNat).2 (requestCause s m.toNat).1 0)) ∧
    (t = 0 → pwrPhase s = 0 → pwrState s = 0 → exec (.requestM0 m (.full v)) s = .next s) ∧
    (t = 0 → (pwrPhase s = 1 ∧ s.pwr.aborting = true) ∨ pwrPhase s = 3 → exec (.requestM0 m (.full v)) s = .next (refuseEntry s 0 1 0x3FF)) ∧
    (t = 0 → pwrPhase s = 2 → s.pwr.held = none →
      let cause := if isCoreMaster m.toNat then 2 else 1
      let c := requestCause s m.toNat
      (wakesFrom s cause s.pwr.target = true →
        exec (.requestM0 m (.full v)) s = .next { c.2 with pwr := { s.pwr with held := some (c.1, 0) } }) ∧
      (wakesFrom s cause s.pwr.target = false → exec (.requestM0 m (.full v)) s = .next (refuseEntry s 0 1 0x3FF))) ∧
    (1 ≤ t → t ≤ pwrState s → s.flag Fld.PWR_STATUS_BUSY 0 = false → (t = 1 → exec (.requestM1 m (.full v)) s = .next s) ∧
      (t = 2 → exec (.requestM2 m (.full v)) s = .next s) ∧ (t = 3 → exec (.requestM3 m (.full v)) s = .next s)) ∧
    (pwrState s < t ∨ s.flag Fld.PWR_STATUS_BUSY 0 = true → (t = 1 → exec (.requestM1 m (.full v)) s = r) ∧ (t = 2 → exec (.requestM2 m (.full v)) s = r) ∧
      (t = 3 → exec (.requestM3 m (.full v)) s = r) ∧ (t = 4 → exec (.requestM4 m (.full v)) s = r))) ∧
  (∀ (s : State) (m : Master) (t : Nat) (v : Word), awake s = true → powerMaster m.toNat t = false ∨ lifecycle s = 4 →
    Fld.PWR_REQ_TARGET.presented (.full v) = t →
    let r : Answer := .next (violation s 1 m.toNat (regAddr .PWR_REQ 0) true)
    (t = 0 → exec (.requestM0 m (.full v)) s = r) ∧ (t = 1 → exec (.requestM1 m (.full v)) s = r) ∧
    (t = 2 → exec (.requestM2 m (.full v)) s = r) ∧ (t = 3 → exec (.requestM3 m (.full v)) s = r) ∧
    (t = 4 → exec (.requestM4 m (.full v)) s = r)) ∧
  (∀ s : State,
    (pwrPhase s = 1 → s.pwr.aborting = false → s.snoop = [] → s.snps = [] → s.pwr.target < 3 →
      let ok := Config.freeValue 2 s.free
      exec .drainEnd s = .next ((narrowLinks { s with free := s.free + 1 } [ok.getLsbD 0, ok.getLsbD 1]).setFld
        Fld.PWR_STATUS_PHASE 0 2)) ∧
    (pwrPhase s = 1 → s.pwr.aborting = false → s.snoop ≠ [] ∨ s.snps ≠ [] → exec .drainEnd s = .next (snoopTracked s)) ∧
    (pwrPhase s = 1 → s.pwr.aborting = false → s.snoop = [] → s.snps = [] → 3 ≤ s.pwr.target →
      let ok := Config.freeValue 2 s.free
      let u := narrowLinks { s with free := s.free + 1 } [ok.getLsbD 0, ok.getLsbD 1]
      (flushWaits u = true → exec .drainEnd s = .next u) ∧
      (flushWaits u = false → ∀ v, flashFlushAll u = .wait v → exec .drainEnd s = .next v) ∧
      (flushWaits u = false → ∀ n v, flashFlushAll u = .ok n v → exec .drainEnd s = .next (v.setFld Fld.PWR_STATUS_PHASE 0 2)) ∧
      (flushWaits u = false → ∀ x v, flashFlushAll u = .fail x v → exec .drainEnd s = .next (abortEntry v (0x380 + x)))) ∧
    (pwrPhase s = 2 → s.pwr.target = 1 → s.pwr.held = none → exec .cutEnd s = .next (raiseSource
      { (((s.setFld Fld.PWR_STATUS_STATE 0 1).setFld Fld.PWR_STATUS_BUSY 0 0).setFld Fld.PWR_STATUS_PHASE 0 0) with
        pwr := { s.pwr with target := 0, held := none } } 8)) ∧
    (pwrPhase s = 2 → s.pwr.target = 2 → s.pwr.held = none →
      let u := pdieReset (portsDown s false)
      exec .cutEnd s = .next (raiseSource
        { (((u.setFld Fld.PWR_STATUS_STATE 0 2).setFld Fld.PWR_STATUS_BUSY 0 0).setFld Fld.PWR_STATUS_PHASE 0 0) with
          pwr := { u.pwr with target := 0, held := none } } 8)) ∧
    (pwrPhase s = 2 → 3 ≤ s.pwr.target → s.pwr.target ≤ 4 → (standby s).pwr.held = none →
      let u := standby s
      let v := if s.pwr.target = 3 then u else { u with mc := [], pins := { u.pins with offReqN := false } }
      exec .cutEnd s = .next (raiseSource
        { (((v.setFld Fld.PWR_STATUS_STATE 0 s.pwr.target).setFld Fld.PWR_STATUS_BUSY 0 0).setFld Fld.PWR_STATUS_PHASE 0 0) with
          pwr := { u.pwr with target := 0, held := none } } 8)) ∧
    (s.pwr.aborting = true → exec .abortSettled s = .next (pumpAll
      { ((s.setFld Fld.PWR_STATUS_BUSY 0 0).setFld Fld.PWR_STATUS_PHASE 0 0) with
        pwr := { s.pwr with target := 0, aborting := false, held := none } })) ∧
    (pwrPhase s = 3 →
      let n := Config.exitNews s.free
      let d : State := { s with free := s.free + 1 }
      let clear := (List.range 48).foldl (fun (s : State) w => s.wr .FLOOR w 0) d
      let u : State := if s.pwr.exitFrom = 2 then widenLinks (d2dCheck d (n.d2d.map BitVec.toNat)) [n.train0, n.train1] false
        else if s.pwr.exitFrom = 3 then widenLinks
          (((clear.setFld Fld.BRINGUP_STEP_DONE 0 0).setFld Fld.BRINGUP_STEP_READY 0 0).wr .MEM_IL 0 0) [n.train0, n.train1] true
        else { d with gated := 0 }
      let v := n.lost.foldl (fun s e => markFloor s e.1 e.2.toNat) u
      exec .exitComplete s = .next (pumpAll (raiseSource
        { (((v.setFld Fld.PWR_STATUS_STATE 0 0).setFld Fld.PWR_STATUS_BUSY 0 0).setFld Fld.PWR_STATUS_PHASE 0 0) with
          pwr := {} } 8))) ∧
    (awake s = true → let u := raiseSource { s with pins := { s.pins with wakeSense := true } } 10
     exec .wakeSense s = .next (if inService u ∨ lifecycle u = 4 then u else wakeEvent u 5 0 0x3FF))) ∧
  (∀ (s t : State) (x : XDie) (i : RxInfo) (dst pay : List Byte), ingress s x i = (true, t) → i.port.val ≠ 8 →
    ifEnabled s x i.port.val i.iface = true →
    exec (.wakeFrame x i dst pay) s = .next (furDrop (if isWakeFrame t x i.port.val i.iface dst pay
      then wakeEvent t 4 (wakePort x i.port.val) (0x390 + x.val) else t) x)) ∧
  (∀ (s : State) (k : StookId),
    (mayGate s k = true → s.gated.testBit k = false →
      exec (.stookGate k) s = .next { s with gated := s.gated + 2 ^ k.val }) ∧
    (∃ t, exec (.stookUngate k) s = .next t ∧ t.gated.testBit k = false ∧ { t with gated := s.gated } = s))

/-- At boot a decommissioned module burns its secrets and goes to standby; else the identity key is made and the verified active
image, else the verified other one, else recovery boots; of a slot that fails, segments before the failing chunk are loaded. A write of ANCHOR_CMD is ignored while BUSY, and a violation from a
master without the right. A command whose reads wait for the host stays BUSY and works later; else EXTEND, REPORT, INSTALL,
LOAD_SEG, LC, COMMIT_SVN, REVOKE, RECOVER and RCV do what is written below when their conditions hold, and fail when not. The end
of a command gives the status (0x10 for a fuse that reads back short, 0x11 for a slot that does not), clears BUSY, changes the active slot and raises
source 3. -/
def Obligations.AnchorActs : Prop :=
  (∀ (s : State),
    let u := s.setFld Fld.ANCHOR_BOOT_MIN_SVN 0 s.fuses.minSvn
    let w := bootIdentity u
    let k := w.anchor.active
    let m := slotManifest w k
    let v := slotFails w k m
    let n := slotManifest v (1 - k)
    (s.anchor.booted = true ∨ s.pins.inReset = true → exec .anchorBoot s = .next s) ∧
    (s.anchor.booted = false → s.pins.inReset = false →
      (lifecycle u = 4 → exec .anchorBoot s =
        .next (burnSecrets { (u.setFld Fld.PWR_STATUS_STATE 0 3) with anchor := { u.anchor with booted := true } })) ∧
      (lifecycle u ≠ 4 → w.anchor.recoverNext = true →
        exec .anchorBoot s = .next (bootRecovery { w with anchor := { w.anchor with recoverNext := false } })) ∧
      (lifecycle u ≠ 4 → w.anchor.recoverNext = false →
        (verifyImage w m (slotChunk w k m) = 0 → exec .anchorBoot s = .next (bootImage w k m)) ∧
        (verifyImage w m (slotChunk w k m) ≠ 0 → verifyImage v n (slotChunk v (1 - k) n) = 0 →
          exec .anchorBoot s = .next (bootImage v (1 - k) n)) ∧
        (verifyImage w m (slotChunk w k m) ≠ 0 → verifyImage v n (slotChunk v (1 - k) n) ≠ 0 →
          exec .anchorBoot s = .next (bootRecovery (slotFails v (1 - k) n)))))) ∧
  (∀ (s : State) (slot : Nat) (m : List Byte), verifyManifest s m ≠ 0 → slotFails s slot m = detect s 14) ∧
  (∀ (s : State) (slot k : Nat) (m : List Byte), verifyManifest s m = 0 → k < manChunks m →
    shake256 (slotChunk s slot m k) ≠ chunkDigest m k → (∀ j < k, shake256 (slotChunk s slot m j) = chunkDigest m j) →
    slotFails s slot m = detect (loadSegments s slot m k) 14) ∧
  (∀ (s : State) (m : Master) (a : CsrAcc) (p : Nat × (Master → CsrAcc → Instr)), p ∈ [(1, Instr.anchorExtend), (2, .anchorReport),
      (3, .anchorInstall), (4, .anchorLoadSeg), (5, .anchorLc), (6, .anchorCommitSvn), (7, .anchorRevoke), (8, .anchorRecover),
      (9, .anchorRcv)] → Fld.ANCHOR_CMD_OP.presented a = p.1 → awake s = true →
    let u := s.plainWrite .ANCHOR_CMD 0 false a
    (s.flag Fld.ANCHOR_CMD_BUSY 0 = true → exec (p.2 m a) s = .next s) ∧
    (s.flag Fld.ANCHOR_CMD_BUSY 0 = false → anchorMaster p.1 m.toNat = false →
      exec (p.2 m a) s = .next (violation s 1 m.toNat (regAddr .ANCHOR_CMD 0) true)) ∧
    (∀ t, s.flag Fld.ANCHOR_CMD_BUSY 0 = false → anchorMaster p.1 m.toNat = true → p.1 ≠ 9 ∨ s.anchor.recovery = true →
      prepare u anchorId (anchorReads u p.1 (u.fld Fld.ANCHOR_CMD_INDEX 0)) [] = .stall t →
      exec (p.2 m a) s = .next { setBusy t p.1 0 0 with anchor := { (setBusy t p.1 0 0).anchor with due := true } })) ∧
  (∀ (s : State) (m : Master) (a : CsrAcc), awake s = true → s.flag Fld.ANCHOR_CMD_BUSY 0 = false →
    let op := Fld.ANCHOR_CMD_OP.presented a
    let u := s.plainWrite .ANCHOR_CMD 0 false a
    let i := u.fld Fld.ANCHOR_CMD_INDEX 0
    let d := anchorArg u
    anchorMaster op m.toNat = true → prepare u anchorId (anchorReads u op i) [] = .go →
      (op = 1 → exec (.anchorExtend m a) s =
        .next (if 2 ≤ i ∧ i ≤ 7 then setBusy (extendMeas u i (anchorData u)) 1 0 0 else failBusy u 1)) ∧
      (op = 2 →
        let body := reportBody u
        let sig := if lifecycle u = 0 ∨ lifecycle u = 4 then List.replicate 1280 0
          else sliceB (Config.falconSign (idSeed u) body u.anchor.reports) 0 1280
        let v := devPut u anchorId d (body ++ sig)
        exec (.anchorReport m a) s = .next (if d % 64 = 0 ∧ (inDram u d 1648 = true ∨ inHostWindow d 1648 = true)
          then setBusy { v with anchor := { v.anchor with reports := v.anchor.reports + 1 } } 2 0 0 else failBusy u 2)) ∧
      (op = 3 → inDram u d (installLength u d) = false → exec (.anchorInstall m a) s = .next (failBusy u 3)) ∧
      (op = 3 → inDram u d (installLength u d) = true →
        let r := memRead u anchorId 3 d (installLength u d)
        let t := manifestOf r.data
        let chunk := fun k => (r.data.drop (imageStart t + 4096 * k)).take 4096
        let b := 1 - r.st.anchor.active
        (verifyImage r.st t chunk = 0 → exec (.anchorInstall m a) s = .next (setBusy ((List.range (manChunks t)).foldl (fun s k =>
          storePut s b (imageStart t + 4096 * k) (chunk k)) (storePut r.st b 0 t)) 3 0 (b + 1))) ∧
        (verifyImage r.st t chunk ≠ 0 →
          exec (.anchorInstall m a) s = .next (setBusy (detect r.st 14) 3 (verifyImage r.st t chunk) 0))) ∧
      (∀ g : Segment, op = 4 → (manSegments u.anchor.manifest)[i]? = some g →
        exec (.anchorLoadSeg m a) s = .next (if g.target = 4 ∧ inDram u d (4096 * g.count) = true
          then setBusy ((List.range g.count).foldl (fun s c =>
            devPut s anchorId (d + 4096 * c) (slotChunk s s.anchor.runSlot u.anchor.manifest (g.first + c))) u) 4 0 0
          else failBusy u 4)) ∧
      (op = 4 → (manSegments u.anchor.manifest)[i]? = none → exec (.anchorLoadSeg m a) s = .next (failBusy u 4)) ∧
      (op = 5 →
        let ok := if lcNeedsToken u i then tokenValid (readToken u).2 (readToken u).1 && leAt (readToken u).1 4 1 == 3
          else lcAllowed u i
        let v := if lcNeedsToken u i then (readToken u).2 else u
        (ok = true → exec (.anchorLc m a) s = .next (setBurnt
          ({ v with fuses := { v.fuses with lifecycle := i } }.setFld Fld.ANCHOR_LC_PENDING 0 i) 5 v.fuses.lifecycle)) ∧
        (ok = false → exec (.anchorLc m a) s = .next (setBusy (if lcNeedsToken u i then detect v 14 else v) 5 0x82 0))) ∧
      (op = 6 →
        let v := max u.fuses.minSvn (u.fld Fld.ANCHOR_BOOT_SVN 0)
        exec (.anchorCommitSvn m a) s = .next (setBurnt
          ({ u with fuses := { u.fuses with minSvn := v } }.setFld Fld.ANCHOR_BOOT_MIN_SVN 0 v) 6 u.fuses.minSvn)) ∧
      (op = 7 →
        let t := (readToken u).1
        let v := (readToken u).2
        let f := v.fuses.flags ||| 2 ^ (3 * i + 2)
        (i ≤ 3 ∧ tokenValid v t = true ∧ leAt t 4 1 = 4 ∧ leAt t 6 2 = i → exec (.anchorRevoke m a) s = .next (setBurnt
          ({ v with fuses := { v.fuses with flags := f } }.setFld Fld.ANCHOR_LC_FLAGS 0 f) 7 v.fuses.flags)) ∧
        (¬(i ≤ 3 ∧ tokenValid v t = true ∧ leAt t 4 1 = 4 ∧ leAt t 6 2 = i) →
          exec (.anchorRevoke m a) s = .next (failBusy (detect v 14) 7))) ∧
      (op = 8 → exec (.anchorRecover m a) s = .next (setBusy { u with anchor := { u.anchor with recoverNext := true } } 8 0 0)) ∧
      (op = 9 → s.anchor.recovery = false →
        exec (.anchorRcv m a) s = .next (violation s 7 m.toNat (regAddr .ANCHOR_CMD 0) true)) ∧
      (op = 9 → s.anchor.recovery = true →
        let c := rcvChunk u
        let t := u.anchor.rcvManifest
        let len := manLength (max 1 (min 3840 (manChunks (t ++ c))))
        let n := (t ++ c).take len
        let w (m : List Byte) : State := { u with anchor := { u.anchor with rcvManifest := m } }
        let whole := 0x800 ≤ t.length ∧ manFieldsOk t = true ∧ manLength (manChunks t) ≤ t.length
        (i = 0 → (t ++ c).length < len →
          exec (.anchorRcv m a) s = .next (setBusy (w (t ++ c)) 9 0 0)) ∧
        (i = 0 → len ≤ (t ++ c).length →
          (verifyManifest u n ≠ 0 → exec (.anchorRcv m a) s = .next (setBusy (detect (w []) 14) 9 (verifyManifest u n) 0)) ∧
          (verifyManifest u n = 0 → exec (.anchorRcv m a) s =
            .next (setBusy (storePut { u with anchor := { u.anchor with rcvManifest := n, rcvChunks := 0 } } 0 0 n) 9 0 0))) ∧
        (i ≠ 0 → ¬whole → exec (.anchorRcv m a) s = .next (failBusy u 9)) ∧
        (i ≠ 0 → whole → shake256 c ≠ chunkDigest t u.anchor.rcvChunks →
          exec (.anchorRcv m a) s = .next (setBusy (detect u 14) 9 0x11 0)) ∧
        (i ≠ 0 → whole → shake256 c = chunkDigest t u.anchor.rcvChunks →
          let v := storePut { u with anchor := { u.anchor with rcvChunks := u.anchor.rcvChunks + 1 } } 0
            (imageStart t + 4096 * u.anchor.rcvChunks) c
          exec (.anchorRcv m a) s = .next (setBusy v 9 0 (if u.anchor.rcvChunks + 1 = manChunks t then 1 else 0))))) ∧
  (∀ s : State, awake s = true →
    let ended (t : State) (st act : Nat) : Answer :=
      let u := (t.setFld Fld.ANCHOR_CMD_STATUS 0 st).setFld Fld.ANCHOR_CMD_BUSY 0 0
      .next (raiseSource { u with anchor := { u.anchor with
        cmd := none, was := none, active := if act = 0 then u.anchor.active else act - 1 } } 3)
    (s.anchor.cmd = none → exec .anchorCommandEnd s = .next s) ∧
    (∀ op st act, s.anchor.cmd = some (op, st, act) →
      (s.anchor.due = true → exec .anchorCommandEnd s = .next (runAnchor s op)) ∧
      (s.anchor.due = false → s.anchor.was = none →
        (op ≠ 3 ∨ act = 0 ∨ slotMatches s (act - 1) = true → exec .anchorCommandEnd s = ended s st act) ∧
        (op = 3 → act ≠ 0 → slotMatches s (act - 1) = false → exec .anchorCommandEnd s = ended (detect s 14) 0x11 0)) ∧
      (∀ old, s.anchor.due = false → s.anchor.was = some old →
        let v := (Config.freeValue 64 s.free).toNat
        let u : State := { s with free := s.free + 1 }
        let fit (new : Nat) : Nat := max old (min v new)
        let f := s.fuses
        (op = 5 → exec .anchorCommandEnd s = if fit f.lifecycle = f.lifecycle then ended u 0 act
          else ended (setLifecycle u (fit f.lifecycle)) 0x10 act) ∧
        (op = 6 → exec .anchorCommandEnd s = if fit f.minSvn = f.minSvn then ended u 0 act
          else ended (setMinSvn u (fit f.minSvn)) 0x10 act) ∧
        (op = 7 → exec .anchorCommandEnd s = if v = f.flags ∨ old = f.flags then ended u 0 act
          else ended (setFlags u old) 0x10 act))))

/-- NEW records a fresh challenge and its writer; each token write appends 8 bytes; SUBMIT by that writer starts verification,
which sets level and owner or counts a failure, eight of which lock out; LOCK lowers the level; a refused write is a violation of
class 6 and nothing else. A step or resumption tests the KIND 0 comparators unless a match made the hold. The owner at level FULL
halts, resumes and steps the selected target and reads and writes its registers (scalar registers and the PC are shown) and memory;
any other master's write of DBG_CTL is a violation of class 6. -/
def Obligations.DebugModuleActs : Prop :=
  (∀ (s : State) (m : Master) (a : CsrAcc), awake s = true → CsrWf s →
    let u := s.plainWrite .DBG_UNLOCK 0 false a
    let only (n b l : Nat) : Prop := Fld.DBG_UNLOCK_NEW.presented a = n ∧ Fld.DBG_UNLOCK_SUBMIT.presented a = b ∧
      Fld.DBG_UNLOCK_LOCK.presented a = l
    (only 1 0 0 → u.flag Fld.DBG_LEVEL_LOCKOUT 0 = true → exec (.dbgNew m a) s = .next u) ∧
    (only 1 0 0 → u.flag Fld.DBG_LEVEL_LOCKOUT 0 = false →
      let ch := leBytes 32 (u.fresh 256).1.toNat
      let v := (u.fresh 256).2
      exec (.dbgNew m a) s = .next { setChallenge v ch with unlock := { challenge := some ch, writer := m.toNat, target := v.fld Fld.DBG_UNLOCK_TARGET 0, token := [], verifying := false } }) ∧
    (only 0 1 0 → m.toNat = s.unlock.writer →
      exec (.dbgSubmit m a) s = .next { u with unlock := { u.unlock with verifying := true } }) ∧
    (only 0 1 0 → m.toNat ≠ s.unlock.writer →
      exec (.dbgSubmit m a) s = .next (violation s 6 m.toNat (regAddr .DBG_UNLOCK 0) true)) ∧
    (only 0 0 1 → dbgOwner s m.toNat = false → isCoreMaster m.toNat = false →
      exec (.dbgLock m a) s = .next (violation s 6 m.toNat (regAddr .DBG_UNLOCK 0) true)) ∧
    (only 0 0 1 → dbgOwner s m.toNat = true ∨ isCoreMaster m.toNat = true →
      let t := u.fld Fld.DBG_UNLOCK_TARGET 0
      exec (.dbgLock m a) s = .next (if dbgLevel u ≤ t then u else extendMeas (setLevel u t) 0 (leBytes 32 t)))) ∧
  (∀ (s : State) (m : Master) (v : Word) (h : Half), awake s = true →
    (m.toNat = s.unlock.writer → exec (.dbgToken m (.full v)) s =
      .next { s with unlock := { s.unlock with token := s.unlock.token ++ leBytes 8 v.toNat } }) ∧
    (m.toNat ≠ s.unlock.writer → exec (.dbgToken m (.full v)) s =
      .next (violation s 6 m.toNat (regAddr .DBG_TOKEN 0) true)) ∧
    exec (.dbgToken m (.low h)) s = .next (violation s 0 m.toNat (regAddr .DBG_TOKEN 0) true)) ∧
  (∀ (s : State), CsrWf s → awake s = true → s.unlock.verifying = true → ∃ t, exec .unlockVerified s = .next t ∧
    t.unlock.challenge = none ∧ t.unlock.verifying = false ∧
    (unlockPasses s = true → t.fld Fld.DBG_LEVEL_LEVEL 0 = s.unlock.target ∧
      t.fld Fld.DBG_LEVEL_OWNER 0 = s.unlock.writer % 1024 ∧ t.fld Fld.DBG_UNLOCK_STATUS 0 = 0) ∧
    (unlockPasses s = false → t.fld Fld.DBG_UNLOCK_STATUS 0 ≠ 0 ∧
      (7 ≤ s.fld Fld.DBG_LEVEL_FAILS 0 → t.flag Fld.DBG_LEVEL_LOCKOUT 0 = true) ∧
      t.fld Fld.DBG_LEVEL_LEVEL 0 = s.fld Fld.DBG_LEVEL_LEVEL 0)) ∧
  (∀ (s : State) (m : Master) (a : CsrAcc), awake s = true →
    let only (h r p : Nat) : Prop := Fld.DBG_CTL_HALT.presented a = h ∧ Fld.DBG_CTL_RESUME.presented a = r ∧
      Fld.DBG_CTL_STEP.presented a = p
    (dbgOwner s m.toNat = false → only 1 0 0 →
      exec (.dbgHalt m a) s = .next (violation s 6 m.toNat (regAddr .DBG_CTL 0) true)) ∧
    (dbgOwner s m.toNat = true → 2 ≤ dbgLevel s →
      (∀ c, dbgTarget s = some (false, c) → pdiesDown s = false → only 1 0 0 → (ctxAt s c).st = .running ∨
        (ctxAt s c).st = .waiting → exec (.dbgHalt m a) s = .next (holdCtx s c)) ∧
      (∀ c, dbgTarget s = some (false, c) → pdiesDown s = false → only 1 0 0 →
        ((ctxAt s c).st = .replaying →
          exec (.dbgHalt m a) s = .next (setCtx s c { ctxAt s c with stopReq := true, haltReq := true })) ∧
        ((ctxAt s c).st = .stopped → (ctxAt s c).held = false →
          exec (.dbgHalt m a) s = .next (raiseSource (setCtx s c { ctxAt s c with held := true, byMatch := false }) 4))) ∧
      (∀ k, dbgTarget s = some (true, k) → only 1 0 0 → (mcAt s k).inReset = false → (mcAt s k).held = false →
        exec (.dbgHalt m a) s = .next (holdMc (setMc s k { mcAt s k with waiting := none }) k)) ∧
      (∀ c, dbgTarget s = some (false, c) → pdiesDown s = false → only 0 1 0 → (ctxAt s c).held = true →
        exec (.dbgResume m a) s = .next (resumeCtx s c)) ∧
      (∀ k, dbgTarget s = some (true, k) → only 0 1 0 → (mcAt s k).held = true →
        exec (.dbgResume m a) s = .next (setMc s k { mcAt s k with held := false, skipBp := (mcAt s k).byMatch })) ∧
      (∀ c, dbgTarget s = some (false, c) → pdiesDown s = false → only 0 0 1 → (ctxAt s c).held = true → s.dbg = [] →
        let x := ctxAt s c
        let t := ctxIssue (setCtx s c { x with
          st := .running, cause := 0, badaddr := 0, held := false, skipBp := true, quantumEnd := false }) c (ctxOpAt s c)
        let u := reholdCtx t c
        let hit := bpHit s (tileOf c) [0] (some (c % 4)) [x.pc.toNat]
        (x.byMatch = false → hit = true → (matchCtx s c).dbg = [] → exec (.dbgStep m a) s = .next (matchCtx s c)) ∧
        (x.byMatch = true ∨ hit = false → (ctxAt t c).st ≠ .running ∨ ((ctxAt t c).reread ≠ 1 ∧ (ctxAt t c).skipBp = false) → u.dbg = [] →
        exec (.dbgStep m a) s =
          .next (setCtx u c { ctxAt u c with quantumEnd := x.quantumEnd || (ctxAt u c).quantumEnd }))) ∧
      (∀ k, dbgTarget s = some (true, k) → only 0 0 1 → (mcAt s k).held = true → s.dbg = [] →
        let t := mcIssue (setMc s k { mcAt s k with held := false, skipBp := true, waiting := none }) k (mcOpAt s k)
        let hit := bpHit s (512 + k) [0] none [(mcAt s k).pc.toNat]
        ((mcAt s k).byMatch = false → hit = true → (matchMc s k).dbg = [] → exec (.dbgStep m a) s = .next (matchMc s k)) ∧
        ((mcAt s k).byMatch = true ∨ hit = false → (mcAt t k).held = false → (mcAt t k).skipBp = false → t.dbg = [] →
          exec (.dbgStep m a) s = .next (holdMc (setMc t k { mcAt t k with waiting := none }) k))))) ∧
  (∀ (s : State) (m : Master) (v : Word), awake s = true → dbgOwner s m.toNat = true → 2 ≤ dbgLevel s →
    let i := s.fld Fld.DBG_REG_SEL_INDEX 0
    (∀ c, dbgTarget s = some (false, c) → pdiesDown s = false → (ctxAt s c).held = true →
      exec (.dbgRegData m none) s = .next (s.wr .DBG_REG_DATA 0 (ctxRegRead s c)) ∧
      (s.fld Fld.DBG_REG_SEL_FILE 0 = 0 → i < 32 → ctxRegRead s c = ctxS s c (Fin.ofNat 32 i) ∧
        exec (.dbgRegData m (some (.full v))) s = .next (setCtxS s c (Fin.ofNat 32 i) v)) ∧
      (s.fld Fld.DBG_REG_SEL_FILE 0 = 3 → ctxRegRead s c = (ctxAt s c).pc ∧
        exec (.dbgRegData m (some (.full v))) s = .next (setCtxPc s c (v &&& ~~~3#64)))) ∧
    (∀ k, dbgTarget s = some (true, k) → (mcAt s k).held = true → s.fld Fld.DBG_REG_SEL_FILE 0 = 0 → i < 32 →
      exec (.dbgRegData m none) s = .next (s.wr .DBG_REG_DATA 0 (mcS s k (Fin.ofNat 32 i))) ∧
      exec (.dbgRegData m (some (.full v))) s = .next (setMcS s k (Fin.ofNat 32 i) v))) ∧
  (∀ (s : State) (m : Master) (a : CsrAcc), awake s = true → dbgOwner s m.toNat = true → s.flag Fld.DBG_MEM_CMD_BUSY 0 = false → s.dbg = [] →
    let op := Fld.DBG_MEM_CMD_OP.presented a
    let u := s.plainWrite .DBG_MEM_CMD 0 false a
    let w := u.setFld Fld.DBG_MEM_CMD_BUSY 0 1
    let d := w.fld Fld.DBG_MEM_ADDR_ADDR 0
    let n := if w.flag Fld.DBG_MEM_CMD_SIZE 0 then 8 else 4
    let odd : Prop := u.fld Fld.DBG_MEM_ADDR_ADDR 0 % (if u.flag Fld.DBG_MEM_CMD_SIZE 0 then 8 else 4) ≠ 0
    (op = 1 → odd → exec (.dbgMemRead m a) s = .next (u.setFld Fld.DBG_MEM_CMD_STATUS 0 0x07)) ∧
    (op = 1 → ¬odd → dbgAsleep w d = true → exec (.dbgMemRead m a) s = .next (memDone w n (some 0))) ∧
    (op = 2 → ¬odd → 2 ≤ dbgLevel s → dbgAsleep w d = true → exec (.dbgMemWrite m a) s = .next (memDone w n none)) ∧
    (∀ (data : List Byte) (t : State), op = 1 → ¬odd → dbgAsleep w d = false → prepare w dbgMaster [(d, n)] [] = .go →
      busRead w dbgMaster 3 d n = ⟨data, false, t⟩ → t.dbg = [] → exec (.dbgMemRead m a) s =
        .next (memDone (dropHost t dbgMaster) n (some (BitVec.ofNat 64 (leNat data))))) ∧
    (∀ (bad : Bool) (t : State), op = 2 → ¬odd → 2 ≤ dbgLevel s → dbgAsleep w d = false →
      prepare w dbgMaster [] [(d, n)] = .go → busWrite w dbgMaster 3 d (leBytes n (w.rd .DBG_MEM_DATA 0).toNat) = ⟨bad, t⟩ →
      t.dbg = [] → exec (.dbgMemWrite m a) s = .next (memDone (dropHost t dbgMaster) n none)))

/-- While the TAP answers, EXTEST, EXTEST_PULSE, EXTEST_TRAIN, CLAMP and HIGHZ hold the module in full reset and the others
end the hold; IDCODE and SAMPLE shift what the rules say; TRST brings the debug module to its reset level; while it does not
answer they do nothing. Power, SYS_RST_N and the thermal trip assert a full reset, FULL_RESET_RELEASE ends one and samples MODE_LEAD.
ERR_SUMMARY bits clear where 1 is written unless hardware sets them; ERR_INJ arms a detector that waits for an event, and names a
violation where no unit is; a PLL that loses lock after Ready marks its P-die failed or resets the module. -/
def Obligations.TapPinsAndErrors : Prop :=
  (∀ (s : State), tapOn s = false → ∀ c ∈ [Instr.tapExtest, .tapExtestPulse, .tapExtestTrain, .tapClamp, .tapHighz, .tapIdcode,
    .tapBypass, .tapTrst], exec c s = .next s) ∧
  (∀ (s : State), tapOn s = true →
    let u := fullReset s
    let hold (ir : Nat) : Answer := .next { u with tap := { u.tap with ir := ir, dr := 0, holds := true } }
    exec .tapExtest s = hold 0x00 ∧ exec .tapExtestPulse s = hold 0x03 ∧ exec .tapExtestTrain s = hold 0x04 ∧
    exec .tapClamp s = hold 0x05 ∧ exec .tapHighz s = hold 0x06 ∧
    (∃ dr, exec .tapIdcode s = .next { s with tap := { s.tap with ir := 0x01, dr := dr, holds := false } } ∧ dr % 2 = 1 ∧
      dr / 2 ^ 12 % 2 ^ 16 = 0x7240 ∧ dr < 2 ^ 32) ∧
    exec .tapBypass s = .next { s with tap := { s.tap with ir := 0xFF, dr := 0, holds := false } } ∧
    (∀ cells, exec (.tapSamplePreload cells) s = .next { s with tap := { s.tap with
      ir := 0x02, holds := false, cells := cells.map (fun e => e.level && !(e.dataPin && sampleRestricted s)),
      latch := cells.map ScanCell.load } }) ∧
    (CsrWf s → ∃ t, exec .tapTrst s = .next t ∧ t.tap = {} ∧ t.bp = [] ∧
      t.fld Fld.DBG_LEVEL_LEVEL 0 = resetLevel (lifecycleNow s) ∧ t.fld Fld.DBG_LEVEL_OWNER 0 = 0x3FF ∧
      t.fld Fld.DBG_LEVEL_FAILS 0 = s.fld Fld.DBG_LEVEL_FAILS 0) ∧
    (s.pins.inReset = true → ∀ (i : BitVec 9) (wr : Bool) (x : Word), exec (.dbgAccess i wr x) s =
      .next { s with tap := { s.tap with ir := 0x10, dr := s.tap.prev.toNat, holds := false } }) ∧
    (s.pins.inReset = false → s.dbg = [] → ∀ (i : BitVec 9) (d v : Nat) (w t : State) (x : Word),
      let u := { s with tap := { s.tap with ir := 0x10, dr := s.tap.prev.toNat, holds := false } }
      d = 0x50000 + 8 * i.toNat →
      (csrLoad u dbgMaster d 8 = (v, w) → exec (.dbgAccess i false x) s =
        .next { w with tap := { w.tap with prev := BitVec.ofNat 64 v } }) ∧
      (csrStore u dbgMaster d 8 x.toNat = t → t.dbg = [] → exec (.dbgAccess i true x) s = .next t))) ∧
  (∀ (s : State),
    (s.pins.vin = true → s.pins.pwrGood = true → exec .powerUp s = .next s) ∧
    (s.pins.vin = true → s.pins.pwrGood = false → s.pins.trip = true → exec .powerUp s = .next s) ∧
    (s.pins.vin = false ∨ (s.pins.pwrGood = false ∧ s.pins.trip = false) → exec .powerUp s =
      .next { s with pins := { s.pins with vin := true, pwrGood := true, trip := false, inReset := true } }) ∧
    (∀ vin, ∃ t, exec (.powerLoss vin) s = .next t ∧ t.pins.pwrGood = false ∧ t.pins.inReset = true ∧
      t.pins.vin = (s.pins.vin && !vin) ∧ t.csr = [] ∧ t.mem = []) ∧
    (s.fld Fld.PWR_STATUS_STATE 0 ≠ 4 →
      exec (.sysRstN false true) s = .next { fullReset s with pins := { (fullReset s).pins with sysRstN := false } }) ∧
    (∀ p, p = false ∨ s.fld Fld.PWR_STATUS_STATE 0 = 4 →
      exec (.sysRstN false p) s = .next { s with pins := { s.pins with sysRstN := false } }) ∧
    (∀ p, exec (.sysRstN true p) s = .next { s with pins := { s.pins with sysRstN := true } }) ∧
    (∀ lead, mayRelease s = false → exec (.fullResetRelease lead) s = .next s) ∧
    (∀ lead, mayRelease s = true → s.fuses.lifecycle < 8 → ∃ t, exec (.fullResetRelease lead) s = .next t ∧
      t.pins.inReset = false ∧ t.flag Fld.ROPE_STATUS_LEAD 0 = lead ∧ lifecycle t = s.fuses.lifecycle ∧
      t.fld Fld.DBG_LEVEL_LEVEL 0 = resetLevel s.fuses.lifecycle ∧ t.mem = [] ∧ t.ctx = [] ∧ t.eng = []) ∧
    (∀ hot, s.pins.trip = true → exec (.thermN hot) s = .next s) ∧
    (∀ hot, s.pins.trip = false → exec (.thermN hot) s = .next { s with pins := { s.pins with thermN := !hot } }) ∧
    (∃ t, exec .thermalTrip s = .next t ∧ t.pins.trip = true ∧ t.pins.pwrGood = false ∧ t.pins.thermN = false ∧
      t.pins.inReset = true ∧ t.csr = []) ∧
    (∀ (die : Fin 6), awake s = true → readyBit s = false → exec (.pllLossOfLock die) s = .next s) ∧
    (∀ (die : Fin 6), awake s = true → readyBit s = true → exec (.pllLossOfLock die) s = .next (if die.val < 4
      then markFloor (detect s 15) 14 (2 ^ (32 + die.val)) else fullReset (detect s 15))) ∧
    (∀ (die : Fin 6) (n : BitVec 32), max 100 (s.fld Fld.GAUGE_CFG_PERIOD die) ≤ n.toNat →
      exec (.gaugeSamplingPeriod die n) s =
        .next (((List.range 9).filter (gaugeShown die)).foldl (fun s cls => sampleGauge s die cls) s))) ∧
  (∀ (s : State) (a : CsrAcc) (hw : BitVec 16), awake s = true → CsrWf s → ∃ t, exec (.errSummaryClear a hw) s = .next t ∧
    ∀ b, b < 16 → (t.rd .ERR_SUMMARY 0).getLsbD b =
      (((s.rd .ERR_SUMMARY 0).getLsbD b && !(accValue a).getLsbD b) || hw.getLsbD b)) ∧
  (∀ (s : State) (m : Master) (v : Word), awake s = true → isCoreMaster m.toNat = true → CsrWf s →
    let det := s.written Fld.ERR_INJ_DETECTOR 0 (.full v)
    let tgt := s.written Fld.ERR_INJ_TARGET 0 (.full v)
    let prm := s.written Fld.ERR_INJ_PARAM 0 (.full v)
    (Fld.ERR_INJ_ARM.presented (.full v) = 1 → injectionOk det tgt prm = false →
      exec (.errInj m (.full v)) s = .next (violation s 4 m.toNat (regAddr .ERR_INJ 0) true)) ∧
    (Fld.ERR_INJ_ARM.presented (.full v) = 1 → injectionOk det tgt prm = true → det ≠ 3 → det ≠ 4 → det ≠ 10 → det ≠ 15 →
      s.written Fld.ERR_INJ_MODE 0 (.full v) = 1 ∨ s.written Fld.ERR_INJ_MODE 0 (.full v) = 2 →
      ∃ t, exec (.errInj m (.full v)) s = .next t ∧ t.flag Fld.ERR_INJ_ARMED 0 = true ∧ t.fld Fld.ERR_INJ_DETECTOR 0 = det ∧
        t.fld Fld.ERR_INJ_TARGET 0 = tgt))

/-- A write of a wrong size or alignment is a violation; where no register answers nothing changes; a plain register takes
the written bits that its access codes let (the ones named). An access to an address of no region is a violation of class 2. A
violation sets its class, counts and keeps the first. A counter that is no loaded job's DELIVERED takes the value plus the
increments of that cycle, and no other counter changes. HQ_CFG ignores an invalid enable. Firmware answers a job notice with
its status, and with OK after placing it; a poisoned line of a table gives a free failure status (log entry 129). -/
def Obligations.CsrWritesCountersAndJobs : Prop :=
  (∀ (s : State) (m : Master) (off : BitVec 28) (size : BitVec 8) (v : Word), s.dbg = [] →
    let o := off.toNat
    (csrSilent s o = true → exec (.csrWrite m off size v) s = .next s) ∧
    (csrSilent s o = false → csrSized o size.toNat = false →
      exec (.csrWrite m off size v) s = .next (violation s 0 m.toNat (csrBase + o) true)) ∧
    (csrSilent s o = false → csrSized o size.toNat = true → Reg.at? (o / 8 * 8) = none →
      exec (.csrWrite m off size v) s = .next (csrUngate s o)) ∧
    (∀ (r : Reg) (i : Nat), r ∈ [Reg.CQ_TABLE, .HQ_BASE, .INTC_HADDR, .INTC_HDATA, .ERR_IRQ_EN, .ANCHOR_ARG,
        .ANCHOR_DATA] → csrSilent s o = false → o % 8 = 0 → size = 8 → Reg.at? o = some (r, i) →
      exec (.csrWrite m off size v) s = .next ((csrUngate s o).plainWrite r i false (.full v)))) ∧
  (∀ (s : State) (m : Master) (addr : BitVec 52) (w : Bool), awake s = true → regionOf s addr.toNat = .unmapped →
    exec (.unmappedAccess m addr w) s = .next (violation s 2 m.toNat addr.toNat w)) ∧
  (∀ (s : State) (cls m addr : Nat) (w : Bool), CsrWf s → cls < 8 →
    let t := violation s cls m addr w
    t.fld Fld.ERR_VIOL_CLASS 0 = s.fld Fld.ERR_VIOL_CLASS 0 ||| 2 ^ cls ∧
    t.fld Fld.ERR_VIOL_COUNT 0 = min (2 ^ Fld.ERR_VIOL_COUNT.width - 1) (s.fld Fld.ERR_VIOL_COUNT 0 + 1) ∧
    (t.rd .ERR_SUMMARY 0).getLsbD 13 = true ∧
    (s.fld Fld.ERR_VIOL_CLASS 0 ≠ 0 → t.rd .ERR_VIOL_FIRST 0 = s.rd .ERR_VIOL_FIRST 0)) ∧
  (∀ (s : State) (name : BitVec 16) (v : Word) (inc : BitVec 8), counterValid name.toNat = true → CsrWf s →
    (∀ j ∈ s.jobs, deliveredName j.id ≠ name.toNat) →
    (if name.toNat < 0x4000 then pdiesDown s = false else xdiesUp s = true) →
    ∃ t, exec (.counterWrite name (.full v) inc) s = .next t ∧
      counterVal t name.toNat = (v.toNat + inc.toNat) % 2 ^ 64 ∧
      (∀ n, counterValid n = true → n ≠ name.toNat → counterVal t n = counterVal s n)) ∧
  (∀ (s : State) (q : Fin 32) (a : CsrAcc), xdiesUp s = true →
    let lg := s.written Fld.HQ_CFG_LOG2_ENTRIES q a
    let ok : Prop := inHostWindow (s.fld Fld.HQ_BASE_BASE q * 64) 64 = true ∧ 6 ≤ lg ∧ lg ≤ 15 ∧
      counterValid (s.written Fld.HQ_CFG_COUNTER q a) = true
    (ok ∨ s.written Fld.HQ_CFG_ENABLE q a ≠ 1 → exec (.hqCfgWrite q a) s = .next (s.plainWrite .HQ_CFG q false a)) ∧
    (¬ok → s.written Fld.HQ_CFG_ENABLE q a = 1 → exec (.hqCfgWrite q a) s = .next s)) ∧
  (∀ (s : State) (k : Fin 4) (n : Fin 64) (plan : JobPlan), (mcAt s k).inReset = false → isReceiver s (0x10 + k.val) n = true →
    s.flag Fld.MBOX_CH_STAT_FULL n = true → pdiesDown s = false →
    let a := s.fld Fld.MBOX_RX_ADDR_ADDR n
    let m := 0x10 + k.val
    let r := memRead s m 3 a 256
    let d := r.data
    let w := readSpans r.st m ((jobTables s d).filter (fun p => inDram s p.1 p.2))
    let u := w.2
    (inDram s a 256 = false → exec (.jobLoad k n plan) s = .next (popChannel s n 0x07)) ∧
    (inDram s a 256 = true → prepare s m [(a, 256)] [] = .go →
      prepare s m ((jobReads s d).filter (fun p => inDram s p.1 p.2)) (jobWrites s d) = .go →
      (r.bad = true ∨ w.1 = true → exec (.jobLoad k n plan) s = .next (popChannel (anyFailure u).2 n (anyFailure u).1)) ∧
      (r.bad = false → w.1 = false →
        (jobStatus u a d ≠ 0 → exec (.jobLoad k n plan) s = .next (popChannel u n (jobStatus u a d))) ∧
        (jobStatus u a d = 0 → placeAll u plan d = none → exec (.jobLoad k n plan) s = .next (popChannel u n 0x03)) ∧
        (∀ p, jobStatus u a d = 0 → placeAll u plan d = some p →
          exec (.jobLoad k n plan) s = .next (popChannel (installJob u plan m a d p) n 0)))))

/-- A write of HQ_POST whose new value is further from DONE, modulo 2^32, than the ring's 2^LOG2_ENTRIES entries leaves POST and
sets the summary's sticky bit; any other sets POST. A write of HQ_DONE further from the old DONE than POST is leaves DONE
and sets the same bit; an accepted one sets DONE and adds the difference modulo 2^32 to the named counter. -/
def Obligations.HandoffQueuePointers : Prop :=
  (∀ (s : State) (m : Master) (q : Fin 32) (a : CsrAcc), CsrWf s → xdiesUp s = true →
    let new := s.written Fld.HQ_POST_POST q a
    let far : Prop := (new + 2 ^ 32 - s.fld Fld.HQ_DONE_DONE q) % 2 ^ 32 > 2 ^ s.fld Fld.HQ_CFG_LOG2_ENTRIES q
    ∃ t, exec (.hqPost m q a) s = .next t ∧
      (far → t.fld Fld.HQ_POST_POST q = s.fld Fld.HQ_POST_POST q ∧ (t.rd .ERR_SUMMARY 0).getLsbD 13 = true) ∧
      (¬far → t.fld Fld.HQ_POST_POST q = new)) ∧
  (∀ (s : State) (m : Master) (q : Fin 32) (a : CsrAcc), CsrWf s → xdiesUp s = true →
    let new := s.written Fld.HQ_DONE_DONE q a
    let old := s.fld Fld.HQ_DONE_DONE q
    let n := (new + 2 ^ 32 - old) % 2 ^ 32
    let far : Prop := n > (s.fld Fld.HQ_POST_POST q + 2 ^ 32 - old) % 2 ^ 32
    let name := s.fld Fld.HQ_CFG_COUNTER q
    ∃ t, exec (.hqDone m q a) s = .next t ∧
      (far → t.fld Fld.HQ_DONE_DONE q = old ∧ (t.rd .ERR_SUMMARY 0).getLsbD 13 = true) ∧
      (¬far → t.fld Fld.HQ_DONE_DONE q = new) ∧
      (¬far → counterValid name = true → counterVal t name = (counterVal s name + n) % 2 ^ 64))

/-- Right after reset no command waits, every CSR reads its reset value, memory lists nothing, contexts are IDLE, the
management cores are held in reset, nothing of an engine, queue, key or message exists, and the canonical forms hold. The
values of registers and memory without a reset value are the model's choice (log entries 1 and 3). -/
def Obligations.ResetValues : Prop :=
  State.reset.pending = [] ∧ (∀ (r : Reg) (i : Nat), i < 65536 → State.reset.rd r i = r.reset i) ∧
  State.reset.mem = [] ∧ (∀ c, (ctxAt State.reset c).st = .idle) ∧ (∀ k, (mcAt State.reset k).inReset = true) ∧
  State.reset.eng = [] ∧ State.reset.keys = [] ∧ State.reset.qps = [] ∧ State.reset.hostOut = [] ∧ State.reset.jobs = [] ∧
  State.reset.fld Fld.DBG_LEVEL_OWNER 0 = 0x3FF ∧ StoresWf State.reset

/-- From any state, one that a run reaches or not, in which memory, the CSRs, the contexts and cores with their registers, parked
instances' registers, the barriers, accumulators, request lines, engine queues, pool heads, keys, slice lists and flash pages are in
canonical form (keys rise strictly, no entry equals what an unlisted one reads as), every step that answers a next state leaves them
so: equal stores stay equal data, and a read returns what was last written. It holds right after reset (ResetValues). -/
def Obligations.EveryStepKeepsTheCanonicalForms : Prop :=
  ∀ s t : State, StoresWf s → step s = .next t → StoresWf t

/-- For every instruction that the tables of chapter 04 encode, of every format, with every register, predicate, type, flag and
immediate value its fields hold: its two words fit in 32 bits, the second is 0 for a short instruction, and decoding them
gives the instruction again. -/
def Obligations.EncodedInstructionsDecodeBack : Prop :=
  ∀ o : VOp, o.encodable = true →
    (encodeV o).1 < 2 ^ 32 ∧ (encodeV o).2 < 2 ^ 32 ∧ (o.isLong = false → (encodeV o).2 = 0) ∧
      decodeV (encodeV o).1 (encodeV o).2 = o
end

