-- ==== Sys2Proof/Laws/Cells.lean ====
section
/-!
SUPPORT. Sparse maps: reading after writing, and that every operation keeps the canonical form.
-/
namespace Sys2Proof.Machine

variable {α : Type} [DecidableEq α] (d : Nat → α)

/-- A key written reads as the value written. -/
@[simp] theorem Cells.get_put_same (m : Cells α) (a : Nat) (x : α) (h : Cells.wf d m = true) :
    Cells.get d (Cells.put d m a x) a = x := by
  suffices H : ∀ lo, Cells.wfFrom d lo m = true → Cells.get d (Cells.put d m a x) a = x from H 0 h
  clear h
  induction m with
  | nil => intro lo _; unfold Cells.put; split <;> simp_all [Cells.get]
  | cons e r ih =>
    obtain ⟨k, v⟩ := e
    intro lo h
    simp only [Cells.wfFrom, Bool.and_eq_true, decide_eq_true_eq] at h
    unfold Cells.put
    by_cases h1 : a < k
    · rw [if_pos h1]; split
      · subst_vars; simp [Cells.get, h1, Nat.ne_of_lt h1]
      · simp [Cells.get]
    · rw [if_neg h1]
      by_cases h2 : a = k
      · subst h2
        rw [if_pos rfl]; split
        · subst_vars
          have hw := h.2
          cases r with
          | nil => rfl
          | cons e r =>
            obtain ⟨k, w⟩ := e
            simp only [Cells.wfFrom, Bool.and_eq_true, decide_eq_true_eq] at hw
            have : a < k := hw.1.1
            simp [Cells.get, this, Nat.ne_of_lt this]
        · simp [Cells.get]
      · rw [if_neg h2]
        simp only [Cells.get, h2, h1, if_false]
        exact ih _ h.2

/-- A map whose keys all lie above `a` reads as the default at `a`. -/
theorem Cells.get_below (m : Cells α) (lo a : Nat) (h : Cells.wfFrom d lo m = true) (ha : a < lo) :
    Cells.get d m a = d a := by
  cases m with
  | nil => rfl
  | cons e r =>
    obtain ⟨k, v⟩ := e
    simp only [Cells.wfFrom, Bool.and_eq_true, decide_eq_true_eq] at h
    have : a < k := Nat.lt_of_lt_of_le ha h.1.1
    simp [Cells.get, this, Nat.ne_of_lt this]

/-- Every other key reads as before. -/
theorem Cells.get_put_other (m : Cells α) (a b : Nat) (x : α) (h : Cells.wf d m = true) (hb : b ≠ a) :
    Cells.get d (Cells.put d m a x) b = Cells.get d m b := by
  suffices H : ∀ lo, Cells.wfFrom d lo m = true → Cells.get d (Cells.put d m a x) b = Cells.get d m b from H 0 h
  clear h
  induction m with
  | nil => intro lo _; unfold Cells.put; split <;> simp_all [Cells.get]
  | cons e r ih =>
    obtain ⟨k, v⟩ := e
    intro lo h
    simp only [Cells.wfFrom, Bool.and_eq_true, decide_eq_true_eq] at h
    unfold Cells.put
    by_cases h1 : a < k
    · rw [if_pos h1]; split
      · rfl
      · rw [Cells.get, if_neg hb]
        by_cases h3 : b < a
        · rw [if_pos h3]
          have : b < k := Nat.lt_trans h3 h1
          simp [Cells.get, this, Nat.ne_of_lt this]
        · rw [if_neg h3]
    · rw [if_neg h1]
      by_cases h2 : a = k
      · subst h2
        rw [if_pos rfl]; split
        · by_cases h4 : b < a
          · rw [Cells.get_below d r (a + 1) b h.2 (Nat.lt_succ_of_lt h4)]
            simp [Cells.get, hb, h4]
          · simp [Cells.get, hb, h4]
        · simp [Cells.get, hb]
      · rw [if_neg h2]
        simp only [Cells.get]
        split
        · rfl
        · split
          · rfl
          · exact ih _ h.2

/-- The canonical form from a lower bound holds from every smaller one. -/
theorem Cells.wfFrom_mono (m : Cells α) (lo lo' : Nat) (h : Cells.wfFrom d lo m = true) (hl : lo' ≤ lo) :
    Cells.wfFrom d lo' m = true := by
  cases m with
  | nil => rfl
  | cons e r =>
    simp only [Cells.wfFrom, Bool.and_eq_true, decide_eq_true_eq] at h ⊢
    exact ⟨⟨Nat.le_trans hl h.1.1, h.1.2⟩, h.2⟩

/-- Writing keeps the canonical form above a bound that is not above the key. -/
theorem Cells.put_wfFrom (m : Cells α) (a lo : Nat) (x : α) (h : Cells.wfFrom d lo m = true) (ha : lo ≤ a) :
    Cells.wfFrom d lo (Cells.put d m a x) = true := by
  induction m generalizing lo with
  | nil => unfold Cells.put; split <;> simp_all [Cells.wfFrom]
  | cons e r ih =>
    obtain ⟨k, v⟩ := e
    have h0 := h
    simp only [Cells.wfFrom, Bool.and_eq_true, decide_eq_true_eq] at h
    unfold Cells.put
    by_cases h1 : a < k
    · rw [if_pos h1]; split
      · exact h0
      · simp only [Cells.wfFrom, Bool.and_eq_true, decide_eq_true_eq]
        exact ⟨⟨ha, ‹_›⟩, ⟨⟨h1, h.1.2⟩, h.2⟩⟩
    · rw [if_neg h1]
      by_cases h2 : a = k
      · subst h2
        rw [if_pos rfl]; split
        · exact Cells.wfFrom_mono d r (a + 1) lo h.2 (by omega)
        · simp only [Cells.wfFrom, Bool.and_eq_true, decide_eq_true_eq]
          exact ⟨⟨ha, ‹_›⟩, h.2⟩
      · rw [if_neg h2]
        simp only [Cells.wfFrom, Bool.and_eq_true, decide_eq_true_eq]
        exact ⟨h.1, ih (k + 1) h.2 (by omega)⟩

/-- Writing keeps the canonical form. -/
theorem Cells.put_wf (m : Cells α) (a : Nat) (x : α) (h : Cells.wf d m = true) : Cells.wf d (Cells.put d m a x) = true :=
  Cells.put_wfFrom d m a 0 x h (Nat.zero_le _)

/-- Removing entries keeps the canonical form. -/
theorem Cells.drop_wf (p : Nat → Bool) (m : Cells α) (h : Cells.wf d m = true) : Cells.wf d (Cells.drop p m) = true := by
  suffices H : ∀ lo, Cells.wfFrom d lo m = true → Cells.wfFrom d lo (Cells.drop p m) = true from H 0 h
  clear h
  induction m with
  | nil => intro lo h; exact h
  | cons e r ih =>
    intro lo h
    simp only [Cells.wfFrom, Bool.and_eq_true, decide_eq_true_eq] at h
    unfold Cells.drop at ih ⊢
    rw [List.filter_cons]
    split
    · simp only [Cells.wfFrom, Bool.and_eq_true, decide_eq_true_eq]
      exact ⟨h.1, ih _ h.2⟩
    · exact ih _ (Cells.wfFrom_mono d r (e.1 + 1) lo h.2 (by omega))

/-- Changing listed values keeps the canonical form. -/
theorem Cells.mapVal_wf (f : Nat → α → α) (m : Cells α) : Cells.wf d (Cells.mapVal d f m) = true := by
  unfold Cells.mapVal
  suffices H : ∀ acc : Cells α, Cells.wf d acc = true →
      Cells.wf d (m.foldl (fun acc e => Cells.put d acc e.1 (f e.1 e.2)) acc) = true from H [] rfl
  induction m with
  | nil => intro acc h; exact h
  | cons e r ih => intro acc h; exact ih _ (Cells.put_wf d acc e.1 _ h)

/-- A removed key reads as its default, a kept one as before. -/
theorem Cells.get_drop (p : Nat → Bool) (m : Cells α) (a : Nat) (h : Cells.wf d m = true) :
    Cells.get d (Cells.drop p m) a = if p a then d a else Cells.get d m a := by
  suffices H : ∀ lo, Cells.wfFrom d lo m = true →
      Cells.get d (Cells.drop p m) a = if p a then d a else Cells.get d m a from H 0 h
  clear h
  induction m with
  | nil => intro lo _; simp [Cells.drop, Cells.get]
  | cons e r ih =>
    obtain ⟨k, v⟩ := e
    intro lo h
    simp only [Cells.wfFrom, Bool.and_eq_true, decide_eq_true_eq] at h
    have hr := ih (k + 1) h.2
    by_cases hk : p k = true
    · have hd : Cells.drop p ((k, v) :: r) = Cells.drop p r := by simp [Cells.drop, hk]
      rw [hd, hr]
      by_cases hp : p a = true
      · simp [hp]
      · have hne : a ≠ k := fun e => hp (e ▸ hk)
        rw [if_neg hp, if_neg hp, Cells.get, if_neg hne]
        split
        · exact Cells.get_below d r (k + 1) a h.2 (by omega)
        · rfl
    · have hd : Cells.drop p ((k, v) :: r) = (k, v) :: Cells.drop p r := by simp [Cells.drop, hk]
      rw [hd, Cells.get, hr]
      by_cases h1 : a = k
      · subst h1; simp [hk, Cells.get]
      · rw [if_neg h1]
        by_cases h2 : a < k
        · rw [if_pos h2]; simp [Cells.get, h1, h2]
        · rw [if_neg h2]; simp [Cells.get, h1, h2]

end Sys2Proof.Machine
end

