-- ==== Sys2Proof/Laws/State.lean ====
section
/-!
SUPPORT. One lemma for each field and each elementary update of the state: what the update leaves as it is. The update of a
CSR leaves every field but `csr`, and so on.
-/
namespace Sys2Proof.Machine

@[simp] theorem wr_pending (s : State) (r : Reg) (i : Nat) (v : Word) : (s.wr r i v).pending = s.pending := rfl
@[simp] theorem wr_free (s : State) (r : Reg) (i : Nat) (v : Word) : (s.wr r i v).free = s.free := rfl
@[simp] theorem wr_mem (s : State) (r : Reg) (i : Nat) (v : Word) : (s.wr r i v).mem = s.mem := rfl
@[simp] theorem wr_memGen (s : State) (r : Reg) (i : Nat) (v : Word) : (s.wr r i v).memGen = s.memGen := rfl
@[simp] theorem wr_badPar (s : State) (r : Reg) (i : Nat) (v : Word) : (s.wr r i v).badPar = s.badPar := rfl
@[simp] theorem wr_lineErr (s : State) (r : Reg) (i : Nat) (v : Word) : (s.wr r i v).lineErr = s.lineErr := rfl
@[simp] theorem wr_wbPend (s : State) (r : Reg) (i : Nat) (v : Word) : (s.wr r i v).wbPend = s.wbPend := rfl
@[simp] theorem wr_markCnt (s : State) (r : Reg) (i : Nat) (v : Word) : (s.wr r i v).markCnt = s.markCnt := rfl
@[simp] theorem wr_hot (s : State) (r : Reg) (i : Nat) (v : Word) : (s.wr r i v).hot = s.hot := rfl
@[simp] theorem wr_ctx (s : State) (r : Reg) (i : Nat) (v : Word) : (s.wr r i v).ctx = s.ctx := rfl
@[simp] theorem wr_fetchOld (s : State) (r : Reg) (i : Nat) (v : Word) : (s.wr r i v).fetchOld = s.fetchOld := rfl
@[simp] theorem wr_sliceOut (s : State) (r : Reg) (i : Nat) (v : Word) : (s.wr r i v).sliceOut = s.sliceOut := rfl
@[simp] theorem wr_acc (s : State) (r : Reg) (i : Nat) (v : Word) : (s.wr r i v).acc = s.acc := rfl
@[simp] theorem wr_wbuf (s : State) (r : Reg) (i : Nat) (v : Word) : (s.wr r i v).wbuf = s.wbuf := rfl
@[simp] theorem wr_bar (s : State) (r : Reg) (i : Nat) (v : Word) : (s.wr r i v).bar = s.bar := rfl
@[simp] theorem wr_mc (s : State) (r : Reg) (i : Nat) (v : Word) : (s.wr r i v).mc = s.mc := rfl
@[simp] theorem wr_mcMem (s : State) (r : Reg) (i : Nat) (v : Word) : (s.wr r i v).mcMem = s.mcMem := rfl
@[simp] theorem wr_bp (s : State) (r : Reg) (i : Nat) (v : Word) : (s.wr r i v).bp = s.bp := rfl
@[simp] theorem wr_eng (s : State) (r : Reg) (i : Nat) (v : Word) : (s.wr r i v).eng = s.eng := rfl
@[simp] theorem wr_jobSeq (s : State) (r : Reg) (i : Nat) (v : Word) : (s.wr r i v).jobSeq = s.jobSeq := rfl
@[simp] theorem wr_lines (s : State) (r : Reg) (i : Nat) (v : Word) : (s.wr r i v).lines = s.lines := rfl
@[simp] theorem wr_inServ (s : State) (r : Reg) (i : Nat) (v : Word) : (s.wr r i v).inServ = s.inServ := rfl
@[simp] theorem wr_holdRec (s : State) (r : Reg) (i : Nat) (v : Word) : (s.wr r i v).holdRec = s.holdRec := rfl
@[simp] theorem wr_outHigh (s : State) (r : Reg) (i : Nat) (v : Word) : (s.wr r i v).outHigh = s.outHigh := rfl
@[simp] theorem wr_hostOut (s : State) (r : Reg) (i : Nat) (v : Word) : (s.wr r i v).hostOut = s.hostOut := rfl
@[simp] theorem wr_devReq (s : State) (r : Reg) (i : Nat) (v : Word) : (s.wr r i v).devReq = s.devReq := rfl
@[simp] theorem wr_hostBuf (s : State) (r : Reg) (i : Nat) (v : Word) : (s.wr r i v).hostBuf = s.hostBuf := rfl
@[simp] theorem wr_heldPuts (s : State) (r : Reg) (i : Nat) (v : Word) : (s.wr r i v).heldPuts = s.heldPuts := rfl
@[simp] theorem wr_snoop (s : State) (r : Reg) (i : Nat) (v : Word) : (s.wr r i v).snoop = s.snoop := rfl
@[simp] theorem wr_snps (s : State) (r : Reg) (i : Nat) (v : Word) : (s.wr r i v).snps = s.snps := rfl
@[simp] theorem wr_tally (s : State) (r : Reg) (i : Nat) (v : Word) : (s.wr r i v).tally = s.tally := rfl
@[simp] theorem wr_phy (s : State) (r : Reg) (i : Nat) (v : Word) : (s.wr r i v).phy = s.phy := rfl
@[simp] theorem wr_tagWait (s : State) (r : Reg) (i : Nat) (v : Word) : (s.wr r i v).tagWait = s.tagWait := rfl
@[simp] theorem wr_homeQ (s : State) (r : Reg) (i : Nat) (v : Word) : (s.wr r i v).homeQ = s.homeQ := rfl
@[simp] theorem wr_snoopSeq (s : State) (r : Reg) (i : Nat) (v : Word) : (s.wr r i v).snoopSeq = s.snoopSeq := rfl
@[simp] theorem wr_link (s : State) (r : Reg) (i : Nat) (v : Word) : (s.wr r i v).link = s.link := rfl
@[simp] theorem wr_images (s : State) (r : Reg) (i : Nat) (v : Word) : (s.wr r i v).images = s.images := rfl
@[simp] theorem wr_poolHead (s : State) (r : Reg) (i : Nat) (v : Word) : (s.wr r i v).poolHead = s.poolHead := rfl
@[simp] theorem wr_jobs (s : State) (r : Reg) (i : Nat) (v : Word) : (s.wr r i v).jobs = s.jobs := rfl
@[simp] theorem wr_jobUse (s : State) (r : Reg) (i : Nat) (v : Word) : (s.wr r i v).jobUse = s.jobUse := rfl
@[simp] theorem wr_parked (s : State) (r : Reg) (i : Nat) (v : Word) : (s.wr r i v).parked = s.parked := rfl
@[simp] theorem wr_jobEnds (s : State) (r : Reg) (i : Nat) (v : Word) : (s.wr r i v).jobEnds = s.jobEnds := rfl
@[simp] theorem wr_repl (s : State) (r : Reg) (i : Nat) (v : Word) : (s.wr r i v).repl = s.repl := rfl
@[simp] theorem wr_slots (s : State) (r : Reg) (i : Nat) (v : Word) : (s.wr r i v).slots = s.slots := rfl
@[simp] theorem wr_replSeq (s : State) (r : Reg) (i : Nat) (v : Word) : (s.wr r i v).replSeq = s.replSeq := rfl
@[simp] theorem wr_schedQ (s : State) (r : Reg) (i : Nat) (v : Word) : (s.wr r i v).schedQ = s.schedQ := rfl
@[simp] theorem wr_sched (s : State) (r : Reg) (i : Nat) (v : Word) : (s.wr r i v).sched = s.sched := rfl
@[simp] theorem wr_polTokens (s : State) (r : Reg) (i : Nat) (v : Word) : (s.wr r i v).polTokens = s.polTokens := rfl
@[simp] theorem wr_egressWait (s : State) (r : Reg) (i : Nat) (v : Word) : (s.wr r i v).egressWait = s.egressWait := rfl
@[simp] theorem wr_cmisApp (s : State) (r : Reg) (i : Nat) (v : Word) : (s.wr r i v).cmisApp = s.cmisApp := rfl
@[simp] theorem wr_portIf (s : State) (r : Reg) (i : Nat) (v : Word) : (s.wr r i v).portIf = s.portIf := rfl
@[simp] theorem wr_wire (s : State) (r : Reg) (i : Nat) (v : Word) : (s.wr r i v).wire = s.wire := rfl
@[simp] theorem wr_nrEmpty (s : State) (r : Reg) (i : Nat) (v : Word) : (s.wr r i v).nrEmpty = s.nrEmpty := rfl
@[simp] theorem wr_qps (s : State) (r : Reg) (i : Nat) (v : Word) : (s.wr r i v).qps = s.qps := rfl
@[simp] theorem wr_keys (s : State) (r : Reg) (i : Nat) (v : Word) : (s.wr r i v).keys = s.keys := rfl
@[simp] theorem wr_fur (s : State) (r : Reg) (i : Nat) (v : Word) : (s.wr r i v).fur = s.fur := rfl
@[simp] theorem wr_outbox (s : State) (r : Reg) (i : Nat) (v : Word) : (s.wr r i v).outbox = s.outbox := rfl
@[simp] theorem wr_baleBytes (s : State) (r : Reg) (i : Nat) (v : Word) : (s.wr r i v).baleBytes = s.baleBytes := rfl
@[simp] theorem wr_rope (s : State) (r : Reg) (i : Nat) (v : Word) : (s.wr r i v).rope = s.rope := rfl
@[simp] theorem wr_pwr (s : State) (r : Reg) (i : Nat) (v : Word) : (s.wr r i v).pwr = s.pwr := rfl
@[simp] theorem wr_stepStatus (s : State) (r : Reg) (i : Nat) (v : Word) : (s.wr r i v).stepStatus = s.stepStatus := rfl
@[simp] theorem wr_stepDue (s : State) (r : Reg) (i : Nat) (v : Word) : (s.wr r i v).stepDue = s.stepDue := rfl
@[simp] theorem wr_gated (s : State) (r : Reg) (i : Nat) (v : Word) : (s.wr r i v).gated = s.gated := rfl
@[simp] theorem wr_everReady (s : State) (r : Reg) (i : Nat) (v : Word) : (s.wr r i v).everReady = s.everReady := rfl
@[simp] theorem wr_pins (s : State) (r : Reg) (i : Nat) (v : Word) : (s.wr r i v).pins = s.pins := rfl
@[simp] theorem wr_fuses (s : State) (r : Reg) (i : Nat) (v : Word) : (s.wr r i v).fuses = s.fuses := rfl
@[simp] theorem wr_anchor (s : State) (r : Reg) (i : Nat) (v : Word) : (s.wr r i v).anchor = s.anchor := rfl
@[simp] theorem wr_unlock (s : State) (r : Reg) (i : Nat) (v : Word) : (s.wr r i v).unlock = s.unlock := rfl
@[simp] theorem wr_tap (s : State) (r : Reg) (i : Nat) (v : Word) : (s.wr r i v).tap = s.tap := rfl
@[simp] theorem wr_tok (s : State) (r : Reg) (i : Nat) (v : Word) : (s.wr r i v).tok = s.tok := rfl
@[simp] theorem wr_flash (s : State) (r : Reg) (i : Nat) (v : Word) : (s.wr r i v).flash = s.flash := rfl
@[simp] theorem wr_dbg (s : State) (r : Reg) (i : Nat) (v : Word) : (s.wr r i v).dbg = s.dbg := rfl

@[simp] theorem setCtx_pending (s : State) (c : Nat) (x : Ctx) : (setCtx s c x).pending = s.pending := rfl
@[simp] theorem setCtx_free (s : State) (c : Nat) (x : Ctx) : (setCtx s c x).free = s.free := rfl
@[simp] theorem setCtx_csr (s : State) (c : Nat) (x : Ctx) : (setCtx s c x).csr = s.csr := rfl
@[simp] theorem setCtx_mem (s : State) (c : Nat) (x : Ctx) : (setCtx s c x).mem = s.mem := rfl
@[simp] theorem setCtx_memGen (s : State) (c : Nat) (x : Ctx) : (setCtx s c x).memGen = s.memGen := rfl
@[simp] theorem setCtx_badPar (s : State) (c : Nat) (x : Ctx) : (setCtx s c x).badPar = s.badPar := rfl
@[simp] theorem setCtx_lineErr (s : State) (c : Nat) (x : Ctx) : (setCtx s c x).lineErr = s.lineErr := rfl
@[simp] theorem setCtx_wbPend (s : State) (c : Nat) (x : Ctx) : (setCtx s c x).wbPend = s.wbPend := rfl
@[simp] theorem setCtx_markCnt (s : State) (c : Nat) (x : Ctx) : (setCtx s c x).markCnt = s.markCnt := rfl
@[simp] theorem setCtx_hot (s : State) (c : Nat) (x : Ctx) : (setCtx s c x).hot = s.hot := rfl
@[simp] theorem setCtx_fetchOld (s : State) (c : Nat) (x : Ctx) : (setCtx s c x).fetchOld = s.fetchOld := rfl
@[simp] theorem setCtx_sliceOut (s : State) (c : Nat) (x : Ctx) : (setCtx s c x).sliceOut = s.sliceOut := rfl
@[simp] theorem setCtx_acc (s : State) (c : Nat) (x : Ctx) : (setCtx s c x).acc = s.acc := rfl
@[simp] theorem setCtx_wbuf (s : State) (c : Nat) (x : Ctx) : (setCtx s c x).wbuf = s.wbuf := rfl
@[simp] theorem setCtx_bar (s : State) (c : Nat) (x : Ctx) : (setCtx s c x).bar = s.bar := rfl
@[simp] theorem setCtx_mc (s : State) (c : Nat) (x : Ctx) : (setCtx s c x).mc = s.mc := rfl
@[simp] theorem setCtx_mcMem (s : State) (c : Nat) (x : Ctx) : (setCtx s c x).mcMem = s.mcMem := rfl
@[simp] theorem setCtx_bp (s : State) (c : Nat) (x : Ctx) : (setCtx s c x).bp = s.bp := rfl
@[simp] theorem setCtx_eng (s : State) (c : Nat) (x : Ctx) : (setCtx s c x).eng = s.eng := rfl
@[simp] theorem setCtx_jobSeq (s : State) (c : Nat) (x : Ctx) : (setCtx s c x).jobSeq = s.jobSeq := rfl
@[simp] theorem setCtx_lines (s : State) (c : Nat) (x : Ctx) : (setCtx s c x).lines = s.lines := rfl
@[simp] theorem setCtx_inServ (s : State) (c : Nat) (x : Ctx) : (setCtx s c x).inServ = s.inServ := rfl
@[simp] theorem setCtx_holdRec (s : State) (c : Nat) (x : Ctx) : (setCtx s c x).holdRec = s.holdRec := rfl
@[simp] theorem setCtx_outHigh (s : State) (c : Nat) (x : Ctx) : (setCtx s c x).outHigh = s.outHigh := rfl
@[simp] theorem setCtx_hostOut (s : State) (c : Nat) (x : Ctx) : (setCtx s c x).hostOut = s.hostOut := rfl
@[simp] theorem setCtx_devReq (s : State) (c : Nat) (x : Ctx) : (setCtx s c x).devReq = s.devReq := rfl
@[simp] theorem setCtx_hostBuf (s : State) (c : Nat) (x : Ctx) : (setCtx s c x).hostBuf = s.hostBuf := rfl
@[simp] theorem setCtx_heldPuts (s : State) (c : Nat) (x : Ctx) : (setCtx s c x).heldPuts = s.heldPuts := rfl
@[simp] theorem setCtx_snoop (s : State) (c : Nat) (x : Ctx) : (setCtx s c x).snoop = s.snoop := rfl
@[simp] theorem setCtx_snps (s : State) (c : Nat) (x : Ctx) : (setCtx s c x).snps = s.snps := rfl
@[simp] theorem setCtx_tally (s : State) (c : Nat) (x : Ctx) : (setCtx s c x).tally = s.tally := rfl
@[simp] theorem setCtx_phy (s : State) (c : Nat) (x : Ctx) : (setCtx s c x).phy = s.phy := rfl
@[simp] theorem setCtx_tagWait (s : State) (c : Nat) (x : Ctx) : (setCtx s c x).tagWait = s.tagWait := rfl
@[simp] theorem setCtx_homeQ (s : State) (c : Nat) (x : Ctx) : (setCtx s c x).homeQ = s.homeQ := rfl
@[simp] theorem setCtx_snoopSeq (s : State) (c : Nat) (x : Ctx) : (setCtx s c x).snoopSeq = s.snoopSeq := rfl
@[simp] theorem setCtx_link (s : State) (c : Nat) (x : Ctx) : (setCtx s c x).link = s.link := rfl
@[simp] theorem setCtx_images (s : State) (c : Nat) (x : Ctx) : (setCtx s c x).images = s.images := rfl
@[simp] theorem setCtx_poolHead (s : State) (c : Nat) (x : Ctx) : (setCtx s c x).poolHead = s.poolHead := rfl
@[simp] theorem setCtx_jobs (s : State) (c : Nat) (x : Ctx) : (setCtx s c x).jobs = s.jobs := rfl
@[simp] theorem setCtx_jobUse (s : State) (c : Nat) (x : Ctx) : (setCtx s c x).jobUse = s.jobUse := rfl
@[simp] theorem setCtx_parked (s : State) (c : Nat) (x : Ctx) : (setCtx s c x).parked = s.parked := rfl
@[simp] theorem setCtx_jobEnds (s : State) (c : Nat) (x : Ctx) : (setCtx s c x).jobEnds = s.jobEnds := rfl
@[simp] theorem setCtx_repl (s : State) (c : Nat) (x : Ctx) : (setCtx s c x).repl = s.repl := rfl
@[simp] theorem setCtx_slots (s : State) (c : Nat) (x : Ctx) : (setCtx s c x).slots = s.slots := rfl
@[simp] theorem setCtx_replSeq (s : State) (c : Nat) (x : Ctx) : (setCtx s c x).replSeq = s.replSeq := rfl
@[simp] theorem setCtx_schedQ (s : State) (c : Nat) (x : Ctx) : (setCtx s c x).schedQ = s.schedQ := rfl
@[simp] theorem setCtx_sched (s : State) (c : Nat) (x : Ctx) : (setCtx s c x).sched = s.sched := rfl
@[simp] theorem setCtx_polTokens (s : State) (c : Nat) (x : Ctx) : (setCtx s c x).polTokens = s.polTokens := rfl
@[simp] theorem setCtx_egressWait (s : State) (c : Nat) (x : Ctx) : (setCtx s c x).egressWait = s.egressWait := rfl
@[simp] theorem setCtx_cmisApp (s : State) (c : Nat) (x : Ctx) : (setCtx s c x).cmisApp = s.cmisApp := rfl
@[simp] theorem setCtx_portIf (s : State) (c : Nat) (x : Ctx) : (setCtx s c x).portIf = s.portIf := rfl
@[simp] theorem setCtx_wire (s : State) (c : Nat) (x : Ctx) : (setCtx s c x).wire = s.wire := rfl
@[simp] theorem setCtx_nrEmpty (s : State) (c : Nat) (x : Ctx) : (setCtx s c x).nrEmpty = s.nrEmpty := rfl
@[simp] theorem setCtx_qps (s : State) (c : Nat) (x : Ctx) : (setCtx s c x).qps = s.qps := rfl
@[simp] theorem setCtx_keys (s : State) (c : Nat) (x : Ctx) : (setCtx s c x).keys = s.keys := rfl
@[simp] theorem setCtx_fur (s : State) (c : Nat) (x : Ctx) : (setCtx s c x).fur = s.fur := rfl
@[simp] theorem setCtx_outbox (s : State) (c : Nat) (x : Ctx) : (setCtx s c x).outbox = s.outbox := rfl
@[simp] theorem setCtx_baleBytes (s : State) (c : Nat) (x : Ctx) : (setCtx s c x).baleBytes = s.baleBytes := rfl
@[simp] theorem setCtx_rope (s : State) (c : Nat) (x : Ctx) : (setCtx s c x).rope = s.rope := rfl
@[simp] theorem setCtx_pwr (s : State) (c : Nat) (x : Ctx) : (setCtx s c x).pwr = s.pwr := rfl
@[simp] theorem setCtx_stepStatus (s : State) (c : Nat) (x : Ctx) : (setCtx s c x).stepStatus = s.stepStatus := rfl
@[simp] theorem setCtx_stepDue (s : State) (c : Nat) (x : Ctx) : (setCtx s c x).stepDue = s.stepDue := rfl
@[simp] theorem setCtx_gated (s : State) (c : Nat) (x : Ctx) : (setCtx s c x).gated = s.gated := rfl
@[simp] theorem setCtx_everReady (s : State) (c : Nat) (x : Ctx) : (setCtx s c x).everReady = s.everReady := rfl
@[simp] theorem setCtx_pins (s : State) (c : Nat) (x : Ctx) : (setCtx s c x).pins = s.pins := rfl
@[simp] theorem setCtx_fuses (s : State) (c : Nat) (x : Ctx) : (setCtx s c x).fuses = s.fuses := rfl
@[simp] theorem setCtx_anchor (s : State) (c : Nat) (x : Ctx) : (setCtx s c x).anchor = s.anchor := rfl
@[simp] theorem setCtx_unlock (s : State) (c : Nat) (x : Ctx) : (setCtx s c x).unlock = s.unlock := rfl
@[simp] theorem setCtx_tap (s : State) (c : Nat) (x : Ctx) : (setCtx s c x).tap = s.tap := rfl
@[simp] theorem setCtx_tok (s : State) (c : Nat) (x : Ctx) : (setCtx s c x).tok = s.tok := rfl
@[simp] theorem setCtx_flash (s : State) (c : Nat) (x : Ctx) : (setCtx s c x).flash = s.flash := rfl
@[simp] theorem setCtx_dbg (s : State) (c : Nat) (x : Ctx) : (setCtx s c x).dbg = s.dbg := rfl

@[simp] theorem setMc_pending (s : State) (k : Nat) (y : Mc) : (setMc s k y).pending = s.pending := rfl
@[simp] theorem setMc_free (s : State) (k : Nat) (y : Mc) : (setMc s k y).free = s.free := rfl
@[simp] theorem setMc_csr (s : State) (k : Nat) (y : Mc) : (setMc s k y).csr = s.csr := rfl
@[simp] theorem setMc_mem (s : State) (k : Nat) (y : Mc) : (setMc s k y).mem = s.mem := rfl
@[simp] theorem setMc_memGen (s : State) (k : Nat) (y : Mc) : (setMc s k y).memGen = s.memGen := rfl
@[simp] theorem setMc_badPar (s : State) (k : Nat) (y : Mc) : (setMc s k y).badPar = s.badPar := rfl
@[simp] theorem setMc_lineErr (s : State) (k : Nat) (y : Mc) : (setMc s k y).lineErr = s.lineErr := rfl
@[simp] theorem setMc_wbPend (s : State) (k : Nat) (y : Mc) : (setMc s k y).wbPend = s.wbPend := rfl
@[simp] theorem setMc_markCnt (s : State) (k : Nat) (y : Mc) : (setMc s k y).markCnt = s.markCnt := rfl
@[simp] theorem setMc_hot (s : State) (k : Nat) (y : Mc) : (setMc s k y).hot = s.hot := rfl
@[simp] theorem setMc_ctx (s : State) (k : Nat) (y : Mc) : (setMc s k y).ctx = s.ctx := rfl
@[simp] theorem setMc_fetchOld (s : State) (k : Nat) (y : Mc) : (setMc s k y).fetchOld = s.fetchOld := rfl
@[simp] theorem setMc_sliceOut (s : State) (k : Nat) (y : Mc) : (setMc s k y).sliceOut = s.sliceOut := rfl
@[simp] theorem setMc_acc (s : State) (k : Nat) (y : Mc) : (setMc s k y).acc = s.acc := rfl
@[simp] theorem setMc_wbuf (s : State) (k : Nat) (y : Mc) : (setMc s k y).wbuf = s.wbuf := rfl
@[simp] theorem setMc_bar (s : State) (k : Nat) (y : Mc) : (setMc s k y).bar = s.bar := rfl
@[simp] theorem setMc_mcMem (s : State) (k : Nat) (y : Mc) : (setMc s k y).mcMem = s.mcMem := rfl
@[simp] theorem setMc_bp (s : State) (k : Nat) (y : Mc) : (setMc s k y).bp = s.bp := rfl
@[simp] theorem setMc_eng (s : State) (k : Nat) (y : Mc) : (setMc s k y).eng = s.eng := rfl
@[simp] theorem setMc_jobSeq (s : State) (k : Nat) (y : Mc) : (setMc s k y).jobSeq = s.jobSeq := rfl
@[simp] theorem setMc_lines (s : State) (k : Nat) (y : Mc) : (setMc s k y).lines = s.lines := rfl
@[simp] theorem setMc_inServ (s : State) (k : Nat) (y : Mc) : (setMc s k y).inServ = s.inServ := rfl
@[simp] theorem setMc_holdRec (s : State) (k : Nat) (y : Mc) : (setMc s k y).holdRec = s.holdRec := rfl
@[simp] theorem setMc_outHigh (s : State) (k : Nat) (y : Mc) : (setMc s k y).outHigh = s.outHigh := rfl
@[simp] theorem setMc_hostOut (s : State) (k : Nat) (y : Mc) : (setMc s k y).hostOut = s.hostOut := rfl
@[simp] theorem setMc_devReq (s : State) (k : Nat) (y : Mc) : (setMc s k y).devReq = s.devReq := rfl
@[simp] theorem setMc_hostBuf (s : State) (k : Nat) (y : Mc) : (setMc s k y).hostBuf = s.hostBuf := rfl
@[simp] theorem setMc_heldPuts (s : State) (k : Nat) (y : Mc) : (setMc s k y).heldPuts = s.heldPuts := rfl
@[simp] theorem setMc_snoop (s : State) (k : Nat) (y : Mc) : (setMc s k y).snoop = s.snoop := rfl
@[simp] theorem setMc_snps (s : State) (k : Nat) (y : Mc) : (setMc s k y).snps = s.snps := rfl
@[simp] theorem setMc_tally (s : State) (k : Nat) (y : Mc) : (setMc s k y).tally = s.tally := rfl
@[simp] theorem setMc_phy (s : State) (k : Nat) (y : Mc) : (setMc s k y).phy = s.phy := rfl
@[simp] theorem setMc_tagWait (s : State) (k : Nat) (y : Mc) : (setMc s k y).tagWait = s.tagWait := rfl
@[simp] theorem setMc_homeQ (s : State) (k : Nat) (y : Mc) : (setMc s k y).homeQ = s.homeQ := rfl
@[simp] theorem setMc_snoopSeq (s : State) (k : Nat) (y : Mc) : (setMc s k y).snoopSeq = s.snoopSeq := rfl
@[simp] theorem setMc_link (s : State) (k : Nat) (y : Mc) : (setMc s k y).link = s.link := rfl
@[simp] theorem setMc_images (s : State) (k : Nat) (y : Mc) : (setMc s k y).images = s.images := rfl
@[simp] theorem setMc_poolHead (s : State) (k : Nat) (y : Mc) : (setMc s k y).poolHead = s.poolHead := rfl
@[simp] theorem setMc_jobs (s : State) (k : Nat) (y : Mc) : (setMc s k y).jobs = s.jobs := rfl
@[simp] theorem setMc_jobUse (s : State) (k : Nat) (y : Mc) : (setMc s k y).jobUse = s.jobUse := rfl
@[simp] theorem setMc_parked (s : State) (k : Nat) (y : Mc) : (setMc s k y).parked = s.parked := rfl
@[simp] theorem setMc_jobEnds (s : State) (k : Nat) (y : Mc) : (setMc s k y).jobEnds = s.jobEnds := rfl
@[simp] theorem setMc_repl (s : State) (k : Nat) (y : Mc) : (setMc s k y).repl = s.repl := rfl
@[simp] theorem setMc_slots (s : State) (k : Nat) (y : Mc) : (setMc s k y).slots = s.slots := rfl
@[simp] theorem setMc_replSeq (s : State) (k : Nat) (y : Mc) : (setMc s k y).replSeq = s.replSeq := rfl
@[simp] theorem setMc_schedQ (s : State) (k : Nat) (y : Mc) : (setMc s k y).schedQ = s.schedQ := rfl
@[simp] theorem setMc_sched (s : State) (k : Nat) (y : Mc) : (setMc s k y).sched = s.sched := rfl
@[simp] theorem setMc_polTokens (s : State) (k : Nat) (y : Mc) : (setMc s k y).polTokens = s.polTokens := rfl
@[simp] theorem setMc_egressWait (s : State) (k : Nat) (y : Mc) : (setMc s k y).egressWait = s.egressWait := rfl
@[simp] theorem setMc_cmisApp (s : State) (k : Nat) (y : Mc) : (setMc s k y).cmisApp = s.cmisApp := rfl
@[simp] theorem setMc_portIf (s : State) (k : Nat) (y : Mc) : (setMc s k y).portIf = s.portIf := rfl
@[simp] theorem setMc_wire (s : State) (k : Nat) (y : Mc) : (setMc s k y).wire = s.wire := rfl
@[simp] theorem setMc_nrEmpty (s : State) (k : Nat) (y : Mc) : (setMc s k y).nrEmpty = s.nrEmpty := rfl
@[simp] theorem setMc_qps (s : State) (k : Nat) (y : Mc) : (setMc s k y).qps = s.qps := rfl
@[simp] theorem setMc_keys (s : State) (k : Nat) (y : Mc) : (setMc s k y).keys = s.keys := rfl
@[simp] theorem setMc_fur (s : State) (k : Nat) (y : Mc) : (setMc s k y).fur = s.fur := rfl
@[simp] theorem setMc_outbox (s : State) (k : Nat) (y : Mc) : (setMc s k y).outbox = s.outbox := rfl
@[simp] theorem setMc_baleBytes (s : State) (k : Nat) (y : Mc) : (setMc s k y).baleBytes = s.baleBytes := rfl
@[simp] theorem setMc_rope (s : State) (k : Nat) (y : Mc) : (setMc s k y).rope = s.rope := rfl
@[simp] theorem setMc_pwr (s : State) (k : Nat) (y : Mc) : (setMc s k y).pwr = s.pwr := rfl
@[simp] theorem setMc_stepStatus (s : State) (k : Nat) (y : Mc) : (setMc s k y).stepStatus = s.stepStatus := rfl
@[simp] theorem setMc_stepDue (s : State) (k : Nat) (y : Mc) : (setMc s k y).stepDue = s.stepDue := rfl
@[simp] theorem setMc_gated (s : State) (k : Nat) (y : Mc) : (setMc s k y).gated = s.gated := rfl
@[simp] theorem setMc_everReady (s : State) (k : Nat) (y : Mc) : (setMc s k y).everReady = s.everReady := rfl
@[simp] theorem setMc_pins (s : State) (k : Nat) (y : Mc) : (setMc s k y).pins = s.pins := rfl
@[simp] theorem setMc_fuses (s : State) (k : Nat) (y : Mc) : (setMc s k y).fuses = s.fuses := rfl
@[simp] theorem setMc_anchor (s : State) (k : Nat) (y : Mc) : (setMc s k y).anchor = s.anchor := rfl
@[simp] theorem setMc_unlock (s : State) (k : Nat) (y : Mc) : (setMc s k y).unlock = s.unlock := rfl
@[simp] theorem setMc_tap (s : State) (k : Nat) (y : Mc) : (setMc s k y).tap = s.tap := rfl
@[simp] theorem setMc_tok (s : State) (k : Nat) (y : Mc) : (setMc s k y).tok = s.tok := rfl
@[simp] theorem setMc_flash (s : State) (k : Nat) (y : Mc) : (setMc s k y).flash = s.flash := rfl
@[simp] theorem setMc_dbg (s : State) (k : Nat) (y : Mc) : (setMc s k y).dbg = s.dbg := rfl

@[simp] theorem setJobs_pending (s : State) (u : EngUnit) (js : List Job) : (setJobs s u js).pending = s.pending := rfl
@[simp] theorem setJobs_free (s : State) (u : EngUnit) (js : List Job) : (setJobs s u js).free = s.free := rfl
@[simp] theorem setJobs_csr (s : State) (u : EngUnit) (js : List Job) : (setJobs s u js).csr = s.csr := rfl
@[simp] theorem setJobs_mem (s : State) (u : EngUnit) (js : List Job) : (setJobs s u js).mem = s.mem := rfl
@[simp] theorem setJobs_memGen (s : State) (u : EngUnit) (js : List Job) : (setJobs s u js).memGen = s.memGen := rfl
@[simp] theorem setJobs_badPar (s : State) (u : EngUnit) (js : List Job) : (setJobs s u js).badPar = s.badPar := rfl
@[simp] theorem setJobs_lineErr (s : State) (u : EngUnit) (js : List Job) : (setJobs s u js).lineErr = s.lineErr := rfl
@[simp] theorem setJobs_wbPend (s : State) (u : EngUnit) (js : List Job) : (setJobs s u js).wbPend = s.wbPend := rfl
@[simp] theorem setJobs_markCnt (s : State) (u : EngUnit) (js : List Job) : (setJobs s u js).markCnt = s.markCnt := rfl
@[simp] theorem setJobs_hot (s : State) (u : EngUnit) (js : List Job) : (setJobs s u js).hot = s.hot := rfl
@[simp] theorem setJobs_ctx (s : State) (u : EngUnit) (js : List Job) : (setJobs s u js).ctx = s.ctx := rfl
@[simp] theorem setJobs_fetchOld (s : State) (u : EngUnit) (js : List Job) : (setJobs s u js).fetchOld = s.fetchOld := rfl
@[simp] theorem setJobs_sliceOut (s : State) (u : EngUnit) (js : List Job) : (setJobs s u js).sliceOut = s.sliceOut := rfl
@[simp] theorem setJobs_acc (s : State) (u : EngUnit) (js : List Job) : (setJobs s u js).acc = s.acc := rfl
@[simp] theorem setJobs_wbuf (s : State) (u : EngUnit) (js : List Job) : (setJobs s u js).wbuf = s.wbuf := rfl
@[simp] theorem setJobs_bar (s : State) (u : EngUnit) (js : List Job) : (setJobs s u js).bar = s.bar := rfl
@[simp] theorem setJobs_mc (s : State) (u : EngUnit) (js : List Job) : (setJobs s u js).mc = s.mc := rfl
@[simp] theorem setJobs_mcMem (s : State) (u : EngUnit) (js : List Job) : (setJobs s u js).mcMem = s.mcMem := rfl
@[simp] theorem setJobs_bp (s : State) (u : EngUnit) (js : List Job) : (setJobs s u js).bp = s.bp := rfl
@[simp] theorem setJobs_jobSeq (s : State) (u : EngUnit) (js : List Job) : (setJobs s u js).jobSeq = s.jobSeq := rfl
@[simp] theorem setJobs_lines (s : State) (u : EngUnit) (js : List Job) : (setJobs s u js).lines = s.lines := rfl
@[simp] theorem setJobs_inServ (s : State) (u : EngUnit) (js : List Job) : (setJobs s u js).inServ = s.inServ := rfl
@[simp] theorem setJobs_holdRec (s : State) (u : EngUnit) (js : List Job) : (setJobs s u js).holdRec = s.holdRec := rfl
@[simp] theorem setJobs_outHigh (s : State) (u : EngUnit) (js : List Job) : (setJobs s u js).outHigh = s.outHigh := rfl
@[simp] theorem setJobs_hostOut (s : State) (u : EngUnit) (js : List Job) : (setJobs s u js).hostOut = s.hostOut := rfl
@[simp] theorem setJobs_devReq (s : State) (u : EngUnit) (js : List Job) : (setJobs s u js).devReq = s.devReq := rfl
@[simp] theorem setJobs_hostBuf (s : State) (u : EngUnit) (js : List Job) : (setJobs s u js).hostBuf = s.hostBuf := rfl
@[simp] theorem setJobs_heldPuts (s : State) (u : EngUnit) (js : List Job) : (setJobs s u js).heldPuts = s.heldPuts := rfl
@[simp] theorem setJobs_snoop (s : State) (u : EngUnit) (js : List Job) : (setJobs s u js).snoop = s.snoop := rfl
@[simp] theorem setJobs_snps (s : State) (u : EngUnit) (js : List Job) : (setJobs s u js).snps = s.snps := rfl
@[simp] theorem setJobs_tally (s : State) (u : EngUnit) (js : List Job) : (setJobs s u js).tally = s.tally := rfl
@[simp] theorem setJobs_phy (s : State) (u : EngUnit) (js : List Job) : (setJobs s u js).phy = s.phy := rfl
@[simp] theorem setJobs_tagWait (s : State) (u : EngUnit) (js : List Job) : (setJobs s u js).tagWait = s.tagWait := rfl
@[simp] theorem setJobs_homeQ (s : State) (u : EngUnit) (js : List Job) : (setJobs s u js).homeQ = s.homeQ := rfl
@[simp] theorem setJobs_snoopSeq (s : State) (u : EngUnit) (js : List Job) : (setJobs s u js).snoopSeq = s.snoopSeq := rfl
@[simp] theorem setJobs_link (s : State) (u : EngUnit) (js : List Job) : (setJobs s u js).link = s.link := rfl
@[simp] theorem setJobs_images (s : State) (u : EngUnit) (js : List Job) : (setJobs s u js).images = s.images := rfl
@[simp] theorem setJobs_poolHead (s : State) (u : EngUnit) (js : List Job) : (setJobs s u js).poolHead = s.poolHead := rfl
@[simp] theorem setJobs_jobs (s : State) (u : EngUnit) (js : List Job) : (setJobs s u js).jobs = s.jobs := rfl
@[simp] theorem setJobs_jobUse (s : State) (u : EngUnit) (js : List Job) : (setJobs s u js).jobUse = s.jobUse := rfl
@[simp] theorem setJobs_parked (s : State) (u : EngUnit) (js : List Job) : (setJobs s u js).parked = s.parked := rfl
@[simp] theorem setJobs_jobEnds (s : State) (u : EngUnit) (js : List Job) : (setJobs s u js).jobEnds = s.jobEnds := rfl
@[simp] theorem setJobs_repl (s : State) (u : EngUnit) (js : List Job) : (setJobs s u js).repl = s.repl := rfl
@[simp] theorem setJobs_slots (s : State) (u : EngUnit) (js : List Job) : (setJobs s u js).slots = s.slots := rfl
@[simp] theorem setJobs_replSeq (s : State) (u : EngUnit) (js : List Job) : (setJobs s u js).replSeq = s.replSeq := rfl
@[simp] theorem setJobs_schedQ (s : State) (u : EngUnit) (js : List Job) : (setJobs s u js).schedQ = s.schedQ := rfl
@[simp] theorem setJobs_sched (s : State) (u : EngUnit) (js : List Job) : (setJobs s u js).sched = s.sched := rfl
@[simp] theorem setJobs_polTokens (s : State) (u : EngUnit) (js : List Job) : (setJobs s u js).polTokens = s.polTokens := rfl
@[simp] theorem setJobs_egressWait (s : State) (u : EngUnit) (js : List Job) : (setJobs s u js).egressWait = s.egressWait := rfl
@[simp] theorem setJobs_cmisApp (s : State) (u : EngUnit) (js : List Job) : (setJobs s u js).cmisApp = s.cmisApp := rfl
@[simp] theorem setJobs_portIf (s : State) (u : EngUnit) (js : List Job) : (setJobs s u js).portIf = s.portIf := rfl
@[simp] theorem setJobs_wire (s : State) (u : EngUnit) (js : List Job) : (setJobs s u js).wire = s.wire := rfl
@[simp] theorem setJobs_nrEmpty (s : State) (u : EngUnit) (js : List Job) : (setJobs s u js).nrEmpty = s.nrEmpty := rfl
@[simp] theorem setJobs_qps (s : State) (u : EngUnit) (js : List Job) : (setJobs s u js).qps = s.qps := rfl
@[simp] theorem setJobs_keys (s : State) (u : EngUnit) (js : List Job) : (setJobs s u js).keys = s.keys := rfl
@[simp] theorem setJobs_fur (s : State) (u : EngUnit) (js : List Job) : (setJobs s u js).fur = s.fur := rfl
@[simp] theorem setJobs_outbox (s : State) (u : EngUnit) (js : List Job) : (setJobs s u js).outbox = s.outbox := rfl
@[simp] theorem setJobs_baleBytes (s : State) (u : EngUnit) (js : List Job) : (setJobs s u js).baleBytes = s.baleBytes := rfl
@[simp] theorem setJobs_rope (s : State) (u : EngUnit) (js : List Job) : (setJobs s u js).rope = s.rope := rfl
@[simp] theorem setJobs_pwr (s : State) (u : EngUnit) (js : List Job) : (setJobs s u js).pwr = s.pwr := rfl
@[simp] theorem setJobs_stepStatus (s : State) (u : EngUnit) (js : List Job) : (setJobs s u js).stepStatus = s.stepStatus := rfl
@[simp] theorem setJobs_stepDue (s : State) (u : EngUnit) (js : List Job) : (setJobs s u js).stepDue = s.stepDue := rfl
@[simp] theorem setJobs_gated (s : State) (u : EngUnit) (js : List Job) : (setJobs s u js).gated = s.gated := rfl
@[simp] theorem setJobs_everReady (s : State) (u : EngUnit) (js : List Job) : (setJobs s u js).everReady = s.everReady := rfl
@[simp] theorem setJobs_pins (s : State) (u : EngUnit) (js : List Job) : (setJobs s u js).pins = s.pins := rfl
@[simp] theorem setJobs_fuses (s : State) (u : EngUnit) (js : List Job) : (setJobs s u js).fuses = s.fuses := rfl
@[simp] theorem setJobs_anchor (s : State) (u : EngUnit) (js : List Job) : (setJobs s u js).anchor = s.anchor := rfl
@[simp] theorem setJobs_unlock (s : State) (u : EngUnit) (js : List Job) : (setJobs s u js).unlock = s.unlock := rfl
@[simp] theorem setJobs_tap (s : State) (u : EngUnit) (js : List Job) : (setJobs s u js).tap = s.tap := rfl
@[simp] theorem setJobs_tok (s : State) (u : EngUnit) (js : List Job) : (setJobs s u js).tok = s.tok := rfl
@[simp] theorem setJobs_flash (s : State) (u : EngUnit) (js : List Job) : (setJobs s u js).flash = s.flash := rfl
@[simp] theorem setJobs_dbg (s : State) (u : EngUnit) (js : List Job) : (setJobs s u js).dbg = s.dbg := rfl

@[simp] theorem rawWrite_pending (s : State) (a : Nat) (bs : List Byte) : (rawWrite s a bs).pending = s.pending := rfl
@[simp] theorem rawWrite_free (s : State) (a : Nat) (bs : List Byte) : (rawWrite s a bs).free = s.free := rfl
@[simp] theorem rawWrite_csr (s : State) (a : Nat) (bs : List Byte) : (rawWrite s a bs).csr = s.csr := rfl
@[simp] theorem rawWrite_memGen (s : State) (a : Nat) (bs : List Byte) : (rawWrite s a bs).memGen = s.memGen := rfl
@[simp] theorem rawWrite_badPar (s : State) (a : Nat) (bs : List Byte) : (rawWrite s a bs).badPar = s.badPar := rfl
@[simp] theorem rawWrite_lineErr (s : State) (a : Nat) (bs : List Byte) : (rawWrite s a bs).lineErr = s.lineErr := rfl
@[simp] theorem rawWrite_wbPend (s : State) (a : Nat) (bs : List Byte) : (rawWrite s a bs).wbPend = s.wbPend := rfl
@[simp] theorem rawWrite_markCnt (s : State) (a : Nat) (bs : List Byte) : (rawWrite s a bs).markCnt = s.markCnt := rfl
@[simp] theorem rawWrite_hot (s : State) (a : Nat) (bs : List Byte) : (rawWrite s a bs).hot = s.hot := rfl
@[simp] theorem rawWrite_ctx (s : State) (a : Nat) (bs : List Byte) : (rawWrite s a bs).ctx = s.ctx := rfl
@[simp] theorem rawWrite_fetchOld (s : State) (a : Nat) (bs : List Byte) : (rawWrite s a bs).fetchOld = s.fetchOld := rfl
@[simp] theorem rawWrite_sliceOut (s : State) (a : Nat) (bs : List Byte) : (rawWrite s a bs).sliceOut = s.sliceOut := rfl
@[simp] theorem rawWrite_acc (s : State) (a : Nat) (bs : List Byte) : (rawWrite s a bs).acc = s.acc := rfl
@[simp] theorem rawWrite_wbuf (s : State) (a : Nat) (bs : List Byte) : (rawWrite s a bs).wbuf = s.wbuf := rfl
@[simp] theorem rawWrite_bar (s : State) (a : Nat) (bs : List Byte) : (rawWrite s a bs).bar = s.bar := rfl
@[simp] theorem rawWrite_mc (s : State) (a : Nat) (bs : List Byte) : (rawWrite s a bs).mc = s.mc := rfl
@[simp] theorem rawWrite_mcMem (s : State) (a : Nat) (bs : List Byte) : (rawWrite s a bs).mcMem = s.mcMem := rfl
@[simp] theorem rawWrite_bp (s : State) (a : Nat) (bs : List Byte) : (rawWrite s a bs).bp = s.bp := rfl
@[simp] theorem rawWrite_eng (s : State) (a : Nat) (bs : List Byte) : (rawWrite s a bs).eng = s.eng := rfl
@[simp] theorem rawWrite_jobSeq (s : State) (a : Nat) (bs : List Byte) : (rawWrite s a bs).jobSeq = s.jobSeq := rfl
@[simp] theorem rawWrite_lines (s : State) (a : Nat) (bs : List Byte) : (rawWrite s a bs).lines = s.lines := rfl
@[simp] theorem rawWrite_inServ (s : State) (a : Nat) (bs : List Byte) : (rawWrite s a bs).inServ = s.inServ := rfl
@[simp] theorem rawWrite_holdRec (s : State) (a : Nat) (bs : List Byte) : (rawWrite s a bs).holdRec = s.holdRec := rfl
@[simp] theorem rawWrite_outHigh (s : State) (a : Nat) (bs : List Byte) : (rawWrite s a bs).outHigh = s.outHigh := rfl
@[simp] theorem rawWrite_hostOut (s : State) (a : Nat) (bs : List Byte) : (rawWrite s a bs).hostOut = s.hostOut := rfl
@[simp] theorem rawWrite_devReq (s : State) (a : Nat) (bs : List Byte) : (rawWrite s a bs).devReq = s.devReq := rfl
@[simp] theorem rawWrite_hostBuf (s : State) (a : Nat) (bs : List Byte) : (rawWrite s a bs).hostBuf = s.hostBuf := rfl
@[simp] theorem rawWrite_heldPuts (s : State) (a : Nat) (bs : List Byte) : (rawWrite s a bs).heldPuts = s.heldPuts := rfl
@[simp] theorem rawWrite_snoop (s : State) (a : Nat) (bs : List Byte) : (rawWrite s a bs).snoop = s.snoop := rfl
@[simp] theorem rawWrite_snps (s : State) (a : Nat) (bs : List Byte) : (rawWrite s a bs).snps = s.snps := rfl
@[simp] theorem rawWrite_tally (s : State) (a : Nat) (bs : List Byte) : (rawWrite s a bs).tally = s.tally := rfl
@[simp] theorem rawWrite_phy (s : State) (a : Nat) (bs : List Byte) : (rawWrite s a bs).phy = s.phy := rfl
@[simp] theorem rawWrite_tagWait (s : State) (a : Nat) (bs : List Byte) : (rawWrite s a bs).tagWait = s.tagWait := rfl
@[simp] theorem rawWrite_homeQ (s : State) (a : Nat) (bs : List Byte) : (rawWrite s a bs).homeQ = s.homeQ := rfl
@[simp] theorem rawWrite_snoopSeq (s : State) (a : Nat) (bs : List Byte) : (rawWrite s a bs).snoopSeq = s.snoopSeq := rfl
@[simp] theorem rawWrite_link (s : State) (a : Nat) (bs : List Byte) : (rawWrite s a bs).link = s.link := rfl
@[simp] theorem rawWrite_images (s : State) (a : Nat) (bs : List Byte) : (rawWrite s a bs).images = s.images := rfl
@[simp] theorem rawWrite_poolHead (s : State) (a : Nat) (bs : List Byte) : (rawWrite s a bs).poolHead = s.poolHead := rfl
@[simp] theorem rawWrite_jobs (s : State) (a : Nat) (bs : List Byte) : (rawWrite s a bs).jobs = s.jobs := rfl
@[simp] theorem rawWrite_jobUse (s : State) (a : Nat) (bs : List Byte) : (rawWrite s a bs).jobUse = s.jobUse := rfl
@[simp] theorem rawWrite_parked (s : State) (a : Nat) (bs : List Byte) : (rawWrite s a bs).parked = s.parked := rfl
@[simp] theorem rawWrite_jobEnds (s : State) (a : Nat) (bs : List Byte) : (rawWrite s a bs).jobEnds = s.jobEnds := rfl
@[simp] theorem rawWrite_repl (s : State) (a : Nat) (bs : List Byte) : (rawWrite s a bs).repl = s.repl := rfl
@[simp] theorem rawWrite_slots (s : State) (a : Nat) (bs : List Byte) : (rawWrite s a bs).slots = s.slots := rfl
@[simp] theorem rawWrite_replSeq (s : State) (a : Nat) (bs : List Byte) : (rawWrite s a bs).replSeq = s.replSeq := rfl
@[simp] theorem rawWrite_schedQ (s : State) (a : Nat) (bs : List Byte) : (rawWrite s a bs).schedQ = s.schedQ := rfl
@[simp] theorem rawWrite_sched (s : State) (a : Nat) (bs : List Byte) : (rawWrite s a bs).sched = s.sched := rfl
@[simp] theorem rawWrite_polTokens (s : State) (a : Nat) (bs : List Byte) : (rawWrite s a bs).polTokens = s.polTokens := rfl
@[simp] theorem rawWrite_egressWait (s : State) (a : Nat) (bs : List Byte) : (rawWrite s a bs).egressWait = s.egressWait := rfl
@[simp] theorem rawWrite_cmisApp (s : State) (a : Nat) (bs : List Byte) : (rawWrite s a bs).cmisApp = s.cmisApp := rfl
@[simp] theorem rawWrite_portIf (s : State) (a : Nat) (bs : List Byte) : (rawWrite s a bs).portIf = s.portIf := rfl
@[simp] theorem rawWrite_wire (s : State) (a : Nat) (bs : List Byte) : (rawWrite s a bs).wire = s.wire := rfl
@[simp] theorem rawWrite_nrEmpty (s : State) (a : Nat) (bs : List Byte) : (rawWrite s a bs).nrEmpty = s.nrEmpty := rfl
@[simp] theorem rawWrite_qps (s : State) (a : Nat) (bs : List Byte) : (rawWrite s a bs).qps = s.qps := rfl
@[simp] theorem rawWrite_keys (s : State) (a : Nat) (bs : List Byte) : (rawWrite s a bs).keys = s.keys := rfl
@[simp] theorem rawWrite_fur (s : State) (a : Nat) (bs : List Byte) : (rawWrite s a bs).fur = s.fur := rfl
@[simp] theorem rawWrite_outbox (s : State) (a : Nat) (bs : List Byte) : (rawWrite s a bs).outbox = s.outbox := rfl
@[simp] theorem rawWrite_baleBytes (s : State) (a : Nat) (bs : List Byte) : (rawWrite s a bs).baleBytes = s.baleBytes := rfl
@[simp] theorem rawWrite_rope (s : State) (a : Nat) (bs : List Byte) : (rawWrite s a bs).rope = s.rope := rfl
@[simp] theorem rawWrite_pwr (s : State) (a : Nat) (bs : List Byte) : (rawWrite s a bs).pwr = s.pwr := rfl
@[simp] theorem rawWrite_stepStatus (s : State) (a : Nat) (bs : List Byte) : (rawWrite s a bs).stepStatus = s.stepStatus := rfl
@[simp] theorem rawWrite_stepDue (s : State) (a : Nat) (bs : List Byte) : (rawWrite s a bs).stepDue = s.stepDue := rfl
@[simp] theorem rawWrite_gated (s : State) (a : Nat) (bs : List Byte) : (rawWrite s a bs).gated = s.gated := rfl
@[simp] theorem rawWrite_everReady (s : State) (a : Nat) (bs : List Byte) : (rawWrite s a bs).everReady = s.everReady := rfl
@[simp] theorem rawWrite_pins (s : State) (a : Nat) (bs : List Byte) : (rawWrite s a bs).pins = s.pins := rfl
@[simp] theorem rawWrite_fuses (s : State) (a : Nat) (bs : List Byte) : (rawWrite s a bs).fuses = s.fuses := rfl
@[simp] theorem rawWrite_anchor (s : State) (a : Nat) (bs : List Byte) : (rawWrite s a bs).anchor = s.anchor := rfl
@[simp] theorem rawWrite_unlock (s : State) (a : Nat) (bs : List Byte) : (rawWrite s a bs).unlock = s.unlock := rfl
@[simp] theorem rawWrite_tap (s : State) (a : Nat) (bs : List Byte) : (rawWrite s a bs).tap = s.tap := rfl
@[simp] theorem rawWrite_tok (s : State) (a : Nat) (bs : List Byte) : (rawWrite s a bs).tok = s.tok := rfl
@[simp] theorem rawWrite_flash (s : State) (a : Nat) (bs : List Byte) : (rawWrite s a bs).flash = s.flash := rfl
@[simp] theorem rawWrite_dbg (s : State) (a : Nat) (bs : List Byte) : (rawWrite s a bs).dbg = s.dbg := rfl

end Sys2Proof.Machine
end

