-- ==== Sys2Proof/Laws/Csr.lean ====
section
/-!
SUPPORT. CSRs: reading after writing, and the canonical form of the register store.
-/
namespace Sys2Proof.Machine

/-- The list of the registers holds each at its number. -/
theorem Reg.all_get (r : Reg) : Reg.all[r.ctorIdx]? = some r := by cases r <;> rfl

/-- Two registers, or two copies of one, have different keys. -/
theorem Reg.key_inj {r q : Reg} {i j : Nat} (hi : i < 65536) (hj : j < 65536) (h : r.key i = q.key j) : r = q ∧ i = j := by
  unfold Reg.key at h
  have h1 : r.ctorIdx = q.ctorIdx := by omega
  have h2 : i = j := by omega
  have h3 := Reg.all_get r
  rw [h1, Reg.all_get q] at h3
  exact ⟨(Option.some.inj h3).symm, h2⟩

/-- A register written reads as the value written. -/
@[simp] theorem rd_wr_same (s : State) (r : Reg) (i : Nat) (v : Word) (h : Cells.wf csrDefault s.csr = true) :
    (s.wr r i v).rd r i = v := Cells.get_put_same _ _ _ _ h

/-- Every other register and copy reads as before. -/
theorem rd_wr_other (s : State) (r q : Reg) (i j : Nat) (v : Word) (h : Cells.wf csrDefault s.csr = true)
    (hi : i < 65536) (hj : j < 65536) (hne : q ≠ r ∨ j ≠ i) : (s.wr r i v).rd q j = s.rd q j := by
  refine Cells.get_put_other _ _ _ _ _ h (fun e => ?_)
  obtain ⟨h1, h2⟩ := Reg.key_inj hj hi e
  cases hne with
  | inl h => exact h h1
  | inr h => exact h h2

/-- Writing a register keeps the canonical form. -/
theorem wr_csrWf (s : State) (r : Reg) (i : Nat) (v : Word) (h : Cells.wf csrDefault s.csr = true) :
    Cells.wf csrDefault (s.wr r i v).csr = true := Cells.put_wf _ _ _ _ h

end Sys2Proof.Machine
end

