-- ==== Sys2Proof/Laws/Memory.lean ====
section
/-!
SUPPORT. Memory: the one operation that stores bytes keeps the canonical form, stores what it is given, and leaves every
other byte alone; so do the operations that forget memory.
-/
namespace Sys2Proof.Machine

/-- Storing bytes one after the other keeps the canonical form. -/
theorem putBytes_wf (d : Nat → Byte) (a : Nat) (l : List (Byte × Nat)) (m : Cells Byte) (h : Cells.wf d m = true) :
    Cells.wf d (l.foldl (fun m e => Cells.put d m (a + e.2) e.1) m) = true := by
  induction l generalizing m with
  | nil => exact h
  | cons e r ih => exact ih _ (Cells.put_wf d m _ _ h)

/-- Storing bytes leaves every address alone that none of them takes. -/
theorem putBytes_other (d : Nat → Byte) (a b : Nat) (l : List (Byte × Nat)) (m : Cells Byte) (h : Cells.wf d m = true)
    (hb : ∀ e ∈ l, b ≠ a + e.2) :
    Cells.get d (l.foldl (fun m e => Cells.put d m (a + e.2) e.1) m) b = Cells.get d m b := by
  induction l generalizing m with
  | nil => rfl
  | cons e r ih =>
    simp only [List.foldl_cons]
    rw [ih _ (Cells.put_wf d m _ _ h) (fun e he => hb e (List.mem_cons_of_mem _ he)),
      Cells.get_put_other d m _ b _ h (hb e (List.mem_cons_self ..))]

/-- Stored bytes keep memory canonical. -/
theorem rawWrite_memWf (s : State) (a : Nat) (bs : List Byte) (h : MemWf s) : MemWf (rawWrite s a bs) :=
  putBytes_wf _ a _ _ h

/-- Every byte outside the stored span reads as before. -/
theorem rawWrite_sameOutside (s : State) (a : Nat) (bs : List Byte) (h : MemWf s) :
    SameOutside s (rawWrite s a bs) a bs.length := by
  intro b hb
  refine putBytes_other _ a b _ _ h (fun e he => ?_)
  have := (List.of_mem_zip he).2
  rw [List.mem_range] at this
  omega

/-- Storing bytes stores each of them, where no two of them take one address. -/
theorem putBytes_mem (d : Nat → Byte) (a : Nat) (l : List (Byte × Nat)) (m : Cells Byte) (h : Cells.wf d m = true) (e : Byte × Nat)
    (he : e ∈ l) (hu : ∀ f ∈ l, f.2 = e.2 → f = e) :
    Cells.get d (l.foldl (fun m e => Cells.put d m (a + e.2) e.1) m) (a + e.2) = e.1 := by
  induction l generalizing m with
  | nil => simp at he
  | cons x r ih =>
    by_cases hr : e ∈ r
    · exact ih _ (Cells.put_wf d m _ _ h) hr (fun f hf => hu f (List.mem_cons_of_mem _ hf))
    · have hx : e = x := by simpa [hr] using he
      subst hx
      simp only [List.foldl_cons]
      rw [putBytes_other d a _ r _ (Cells.put_wf d m _ _ h), Cells.get_put_same d m _ _ h]
      intro f hf hc
      exact hr (hu f (List.mem_cons_of_mem _ hf) (by omega) ▸ hf)

/-- A stored byte reads back. -/
theorem rawWrite_reads (s : State) (a i : Nat) (bs : List Byte) (h : MemWf s) (hi : i < bs.length) :
    rawByte (rawWrite s a bs) (a + i) = bs[i] := by
  have := putBytes_mem (memDefault s.memGen) a (bs.zip (List.range bs.length)) s.mem h (bs[i], i)
    (by refine List.mem_iff_getElem.2 ⟨i, by simpa using hi, by simp⟩) (by
      intro f hf hc
      obtain ⟨j, hj, rfl⟩ := List.mem_iff_getElem.1 hf
      simp at hc ⊢
      subst hc
      exact ⟨rfl, rfl⟩)
  exact this

/-- A stored span reads back. -/
theorem rawWrite_span (s : State) (a n : Nat) (bs : List Byte) (h : MemWf s) (hn : n ≤ bs.length) :
    rawBytes (rawWrite s a bs) a n = bs.take n := by
  refine List.ext_getElem (by simp [rawBytes, hn]) fun i hi _ => ?_
  have : i < n := by simpa [rawBytes] using hi
  simp [rawBytes, rawWrite_reads s a i bs h (by omega)]

/-- The first bytes of a span are the span of them. -/
theorem rawBytes_take (s : State) (a k n : Nat) (h : k ≤ n) : (rawBytes s a n).take k = rawBytes s a k := by
  simp [rawBytes, ← List.map_take, List.take_range, Nat.min_eq_left h]

/-- The last bytes of a span are a span. -/
theorem rawBytes_drop (s : State) (a k n : Nat) : (rawBytes s a n).drop k = rawBytes s (a + k) (n - k) := by
  refine List.ext_getElem (by simp [rawBytes]) fun i _ _ => ?_
  simp [rawBytes, Nat.add_assoc]

/-! ## The anchor's boot store -/

/-- Bytes written into a slot keep the store canonical. -/
theorem storePut_wf (s : State) (slot o : Nat) (bs : List Byte) (h : Cells.wf (fun _ => (0 : Byte)) s.anchor.store = true) :
    Cells.wf (fun _ => (0 : Byte)) (storePut s slot o bs).anchor.store = true := putBytes_wf _ _ _ _ h

/-- Bytes written into a slot leave the others alone. -/
theorem storePut_other (s : State) (slot o p n : Nat) (bs : List Byte) (h : Cells.wf (fun _ => (0 : Byte)) s.anchor.store = true)
    (hd : p + n ≤ o ∨ o + bs.length ≤ p) : storeBytes (storePut s slot o bs) slot p n = storeBytes s slot p n := by
  refine List.map_congr_left fun i hi => putBytes_other _ _ _ _ _ h (fun e he => ?_)
  have := (List.of_mem_zip he).2
  rw [List.mem_range] at this hi
  omega

/-- Bytes written into a slot read back. -/
theorem storePut_span (s : State) (slot o n : Nat) (bs : List Byte) (h : Cells.wf (fun _ => (0 : Byte)) s.anchor.store = true)
    (hn : n ≤ bs.length) : storeBytes (storePut s slot o bs) slot o n = bs.take n := by
  refine List.ext_getElem (by simp [storeBytes, hn]) fun i hi _ => ?_
  have hi : i < bs.length := by simp only [storeBytes, List.length_map, List.length_range] at hi; omega
  simp only [storeBytes, List.getElem_map, List.getElem_range, List.getElem_take]
  exact putBytes_mem (fun _ => 0) (slot * 2 ^ 24 + o) (bs.zip (List.range bs.length)) s.anchor.store h (bs[i], i)
    (by refine List.mem_iff_getElem.2 ⟨i, by simpa using hi, by simp⟩) (by
      intro f hf hc
      obtain ⟨j, hj, rfl⟩ := List.mem_iff_getElem.1 hf
      simp at hc ⊢
      subst hc
      exact ⟨rfl, rfl⟩)

/-! ## Clean reads -/

/-- A read of DRAM without symbol errors and failed channels gives what is stored, and leaves no trace. -/
theorem memRead_clean (s : State) (m src a n : Nat) (hr : regionOf s a = .dram) (hc : anyChanFailed s = false)
    (he : errLines s a n = []) (hq : s.homeQ = []) : memRead s m src a n = ⟨rawBytes s a n, false, s⟩ := by
  simp [memRead, hr, dramRead, leaveHome, hq, he, hc]

/-- Forgetting a range of memory keeps the canonical form. -/
theorem drop_memWf (s : State) (p : Nat → Bool) (h : MemWf s) : MemWf { s with mem := Cells.drop p s.mem } :=
  Cells.drop_wf _ p _ h

end Sys2Proof.Machine
end

