-- ==== Sys2Proof/Machine/Contacts.lean ====
section
/-!
DEFINITION. What the module's hardware chapter fixes of its rails, contacts and fibres (R518, R519, R523 to R525, R527,
R528, R530): values that follow from the state, and the wiring that no state changes.
-/
namespace Sys2Proof.Machine

/-- A rail of the module (R518). -/
inductive Rail where
  | pdie (d : Fin 4)
  | sramP
  | xdie (x : Fin 2)
  | mgt
  | ddr
  | serdes
  | nand
  | optics
  | aux
  deriving DecidableEq, Repr

/-- Is a rail present (R518, R519, R530)? A trip leaves VDD_MGT and VAUX_1V8 alone; without supply, and with a rail out of tolerance,
there is none. -/
def railOn (s : State) (r : Rail) : Bool :=
  s.pins.vin &&
    match r with
    | .mgt | .aux => s.pins.pwrGood || s.pins.trip
    | .pdie _ | .sramP => s.pins.pwrGood && pwrState s ≤ 1
    | _ => s.pins.pwrGood && pwrState s ≤ 2

/-- The voltage of the P-die SRAM rail at a stook's SRAM in millivolts (R490, R518). -/
def sramRail (s : State) (k : Nat) : Nat :=
  match stookSupply s k with
  | .unpowered => 0
  | .powered _ (.retention mv) => mv
  | .powered _ (.assist _ _) => 850

/-- What drives the contacts of the boundary register (R502): the module, the values that PRELOAD left in the cells, pulses or trains
made of them on the AC-coupled lanes, or nothing. -/
inductive BoundaryDrive where
  | mission
  | cells (vs : List Bool)
  | pulses (vs : List Bool)
  | trains (vs : List Bool)
  | floating
  deriving DecidableEq, Repr

/-- What the loaded instruction makes of it. -/
def boundaryDrive (s : State) : BoundaryDrive :=
  match s.tap.ir with
  | 0x00 | 0x05 => .cells s.tap.latch
  | 0x03 => .pulses s.tap.latch
  | 0x04 => .trains s.tap.latch
  | 0x06 => .floating
  | _ => .mission

/-- The levels of the open-drain contacts PWR_GOOD, OFF_REQ_N and THERM_N (R519, R523, R530); OFF_REQ_N floats while
PWR_GOOD is low. An instruction of the TAP that drives the boundary cells drives these from theirs (R502). -/
def contactLevels (s : State) : List (Option Bool) :=
  match boundaryDrive s with
  | .mission => [some s.pins.pwrGood, if s.pins.pwrGood then some s.pins.offReqN else none, some s.pins.thermN]
  | .cells vs | .pulses vs | .trains vs => [0, 1, 2].map (fun k => vs[Config.boundaryCell k]?)
  | .floating => [none, none, none]

/-- A side of the rope and a direction at the module (R527). -/
structure FibreSignal where
  east : Bool
  tx : Bool
  lane : Nat
  deriving DecidableEq, Repr

/-- The signal of fibre n, 1 to 32 (R527). -/
def fibreSignal (n : Nat) : Option FibreSignal :=
  if n = 0 ∨ 32 < n then none
  else
    let lane := (n - 1) % 8
    match (n - 1) / 8 with
    | 0 => some ⟨true, true, lane⟩
    | 1 => some ⟨false, false, lane⟩
    | 2 => some ⟨true, false, lane⟩
    | _ => some ⟨false, true, lane⟩

/-- The transmitter that the bypass in THROUGH drives from a receiver (R527): the other side's, of the same lane. -/
def throughOf (r : FibreSignal) : Option FibreSignal := if r.tx then none else some ⟨!r.east, true, r.lane⟩

/-- What a signal meets at the neighbour the harness joins it to (R528). -/
def harnessPeer (f : FibreSignal) : FibreSignal := ⟨!f.east, !f.tx, f.lane⟩

end Sys2Proof.Machine
end

