-- ==== Sys2Proof/Tests/Slice0.lean ====
section
/-!
SUPPORT. Tests of the model: small states that meet the hypotheses of each statement of Certificates/Slice0 together
(witness_<statement>), terms that WellFormed refuses, instruction words written out from chapter 04, and worked examples of
the spec.
-/
namespace Sys2Proof.Machine

set_option Elab.async false

/-! ## Small states -/

/-- Context 0 runs from address 0 with s1 = 0xFF000, s2 = 5 and s3 = 0x20. -/
def exS : State := { ctx := [(0, { st := .running, s := [(1, 0xFF000), (2, 5), (3, 0x20)] })] }

/-- Core 0 is released with s1 = 0x3FFFC and TVEC = 0x80, interrupts enabled. -/
def exM : State := { mc := [(0, { inReset := false, s := [(1, 0x3FFFC)], tvec := 0x80, ie := 1 })] }

theorem exS_wf : CtxWf exS := by
  refine ⟨by decide, fun c => ?_⟩
  by_cases h : c = 0
  · subst h; decide
  · simp [ctxAt, exS, Cells.get, h, Cells.wf, Cells.wfFrom]

/-! ## Hypotheses met: instructions -/

theorem witness_StepRunsFront : State.reset.pending = [] ∧ (∀ k, k < 4 → (mcAt State.reset k).inReset = true) ∧
    (∀ x, x < 2 → linkUp State.reset x = false) ∧
    (let s := setLink (({} : State).setFld Fld.HL_STATUS_WIDTH 0 3) 0 { freshLink with ackDue := true }
     linkUp s 0 = true ∧ (linkAt s 0).ackDue = true) :=
  ⟨by decide, by decide, by decide +kernel, by decide +kernel⟩
theorem witness_RegisterFile : CtxWf exS ∧ (1 : Nat) ≠ 0 := ⟨exS_wf, by decide⟩
theorem witness_RegisterWritesKeepTheRest : CtxWf exS := exS_wf
theorem witness_ScalarRegisterOperations : Issuable exS (0 : CtxId) 4 ∧ (⟨1, 2, 0, 0⟩ : FmtR).z = 0 := by
  unfold Issuable; decide +kernel
theorem witness_ScalarImmediateOperations : Issuable exS (0 : CtxId) 4 ∧ (63#16).toNat < 64 ∧
    Issuable exS (0 : CtxId) 8 := by
  unfold Issuable; decide +kernel
theorem witness_BranchesAndJumps : Issuable exS (0 : CtxId) 8 ∧ (0xFFFFFFFC#32).toNat % 4 = 0 ∧
    (ctxS (taken exS 0) 0 1 + BitVec.signExtend 64 8#16).toNat % 4 = 0 := by
  unfold Issuable; decide +kernel

/-- The last eight bytes of the tile's SRAM, and its first bytes. -/
theorem witness_LoadsFromOwnSram :
    (∀ k ∈ ([⟨1, true⟩, ⟨1, false⟩, ⟨2, true⟩, ⟨2, false⟩, ⟨4, true⟩, ⟨4, false⟩, ⟨8, true⟩] : List LoadKind),
      (ctxS (taken exS 0) 0 1 + BitVec.signExtend 64 0xFF8#16).toNat = 0x100000 - 8 ∧ (0x100000 - 8) % k.size = 0 ∧
      OwnSpan (taken exS 0) (0 : CtxId) (0x100000 - 8) k.size ∧ OwnSpan (taken exS 0) (0 : CtxId) 0 k.size ∧
      watchHit exS (0 : CtxId) (.load k ⟨4, 1, 0xFF8⟩) = false ∧
      watchHit exS (0 : CtxId) (.loadL k ⟨4, 1, 0, 0xFF8⟩) = false) ∧ Issuable exS (0 : CtxId) 8 := by
  unfold Issuable OwnSpan OwnPlace; decide +kernel
theorem witness_StoresToOwnSram :
    (∀ n ∈ [1, 2, 4, 8], (0x100000 - 8) % n = 0 ∧ OwnSpan (taken exS 0) (0 : CtxId) (0x100000 - 8) n ∧
      watchHit exS (0 : CtxId) (.store n ⟨2, 1, 0xFF8⟩) = false ∧
      watchHit exS (0 : CtxId) (.storeL n ⟨2, 1, 0, 0xFF8⟩) = false) ∧
    sramSpecial (taken exS 0) = false ∧ Issuable exS (0 : CtxId) 8 ∧ MemWf exS := by
  unfold Issuable OwnSpan OwnPlace MemWf; decide +kernel
theorem witness_VectorArithmetic : Issuable exS (0 : CtxId) 4 ∧ vtypeOf (6#4).toNat = some .f32 ∧
    VType.f32.float?.isSome = true ∧ vtypeOf (0#4).toNat = some .i32 ∧ VType.i32.float?.isNone = true := by
  unfold Issuable; decide +kernel
theorem witness_VectorElements : (127 : Nat) < 128 ∧ (0 : Nat) < 128 := by decide
theorem witness_MaskedLanesKeepTheirElements : (127 : Nat) < 1024 / 8 ∧ (63 : Nat) < 1024 / 16 ∧ (31 : Nat) < 1024 / 32 := by
  decide
theorem witness_PredicateAndMoveInstructions : Issuable exS (0 : CtxId) 4 ∧ (7 : RegNum).val < 8 ∧
    vtypeOf (6#4).toNat = some .f32 ∧ laneType .f32 = true ∧ vtypeOf (8 : RegNum).val = some .bf16 ∧
    vtypeOf (1 : RegNum).val = some .u32 ∧ VType.u32.width = VType.f32.width := by
  unfold Issuable; decide +kernel
theorem witness_VectorMemoryInOwnSram : Issuable exS (0 : CtxId) 4 ∧
    vmAddr (taken exS 0) (0 : CtxId) ⟨1, 1, 0, 31⟩ = 0x100000 - 128 ∧ (0x100000 - 128) % 128 = 0 ∧
    OwnSpan (taken exS 0) (0 : CtxId) (0x100000 - 128) 128 ∧ watchHit exS (0 : CtxId) (.vld ⟨1, 1, 0, 31⟩) = false ∧
    watchHit exS (0 : CtxId) (.vst ⟨1, 1, 0, 31⟩) = false ∧ sramSpecial (taken exS 0) = false ∧ MemWf exS ∧
    (∀ i, i < 32 → (ctxP (taken exS 0) (0 : CtxId) 0).getLsbD i = true →
      laneAddr (ctxS (taken exS 0) (0 : CtxId) 1) (some (ctxS (taken exS 0) (0 : CtxId) 3)) 0 i % 4 = 0 ∧
      OwnSpan (taken exS 0) (0 : CtxId) (laneAddr (ctxS (taken exS 0) (0 : CtxId) 1)
        (some (ctxS (taken exS 0) (0 : CtxId) 3)) 0 i) 4) ∧
    (∀ i, i < 32 → (ctxP (taken exS 0) (0 : CtxId) 0).getLsbD i = true →
      laneAddr (ctxS (taken exS 0) (0 : CtxId) 1) none (ctxV (taken exS 0) (0 : CtxId) 2) i % 4 = 0 ∧
      OwnSpan (taken exS 0) (0 : CtxId) (laneAddr (ctxS (taken exS 0) (0 : CtxId) 1) none
        (ctxV (taken exS 0) (0 : CtxId) 2) i) 4) ∧
    watchHit exS (0 : CtxId) (.vlds ⟨4, 1, 3, 0, 0⟩) = false ∧ watchHit exS (0 : CtxId) (.vgather ⟨4, 1, 2, 0, 0⟩) = false ∧
    watchHit exS (0 : CtxId) (.vscatter ⟨4, 1, 2, 0, 0⟩) = false ∧
    OwnSpan (taken exS 0) (0 : CtxId) 0xFF000 (64 + 4 * (lutSegs (ownNat (taken exS 0) (0 : CtxId) 0xFF008 2) + 1)) := by
  unfold Issuable OwnSpan OwnPlace MemWf; and_intros <;> decide +kernel
theorem witness_RouteScreeAndPermute : Issuable exS (0 : CtxId) 4 ∧ (⟨1, 2, 3, 0, 6⟩ : FmtV).ty = 6 := by
  unfold Issuable; decide +kernel

/-- s3 = 0x20 gives one row with stride 0: formats 0 and 8, the modes of tload; and a present block-sparse header (sub-blocks 0 and 3)
at 0x2000. -/
theorem witness_TensorInstructions : Issuable exS (0 : CtxId) 4 ∧ ownsAcc (taken exS 0) (0 : CtxId) 0 = true ∧
    strideOf (ctxS (taken exS 0) (0 : CtxId) 3) % 32 = 0 ∧
    (∀ e ∈ [(0, 0), (0, 1), (8, 0), (8, 1)], ∀ sp ∈ (tloadSpans e.1 e.2 0xFF000 0).1 ++ (tloadSpans e.1 e.2 0xFF000 0).2.1
      ++ (tloadSpans e.1 e.2 0xFF000 0).2.2, OwnSpan (taken exS 0) (0 : CtxId) sp.1 sp.2) ∧
    leAt (peek (taken exS 0) (ownTile (0 : CtxId) + 0xFF000) 32) 0 1 % 2 = 0 ∧
    (let s := rawWrite exS (ownTile (0 : CtxId) + 0x2000) [1, 9]
     let h := peek (taken s 0) (ownTile (0 : CtxId) + 0x2000) 32
     leAt h 0 1 % 2 = 1 ∧ leAt h 1 1 % 16 ≠ 0 ∧ OwnSpan (taken s 0) (0 : CtxId) 0x2000 32 ∧
     ∀ n, n < (presentRows 9).length + scaleRows 0 2 → OwnSpan (taken s 0) (0 : CtxId) (0x2000 + (1 + n) * 0) 32) ∧
    tIsInt 0 = tIsInt (wbufAt (taken exS 0) 0 0 0).fmt ∧ (wbufAt (taken exS 0) 0 0 0).zero = false ∧
    (wbufAt (setWbuf exS 0 0 0 { fmt := 0, mode := 2, zero := true, rows := [] }) 0 0 0).zero = true ∧ rowsOf (ctxS (taken exS 0) (0 : CtxId) 3) = 1 ∧
    Cells.wf (fun _ => (0 : BitVec 32)) (taken exS 0).acc = true := by
  unfold Issuable OwnSpan OwnPlace; decide +kernel

/-- The global window enabled, DRAM of one channel, word 0x3FC00 of the tile with bad parity; s1 = 0xFF000. -/
def exGlob : State :=
  { (exS.setFld Fld.CTX_CTL_GLOBAL_EN 0 1).wr .MEM_IL 0 0x0A01000001 with badPar := [((ownTile 0 + 0xFF000) / 4, true)] }

/-- A load or store that is not aligned, one whose address is refused, one that DRAM serves through the global window, one that meets
bad parity. -/
theorem witness_LoadEnds :
    (∀ p ∈ loadForms, p.1.size ≠ 1 → (0xFF001#64).toNat % p.1.size ≠ 0) ∧ ctxPhys exS 0 0x100000 8 = .error causeAddress ∧
    ctxPhys exGlob 0 (2 ^ 52) 8 = .ok 0 ∧ ctxPhys exGlob 0 0xFF000 8 = .ok (ownTile 0 + 0xFF000) ∧
    (∀ k ∈ [1, 2, 4, 8],
      prepare exGlob (tileMaster 0) [(0, k)] [] = .go ∧ prepare exGlob (tileMaster 0) [] [(0, k)] = .go ∧
      busRead exGlob (tileMaster 0) (srcOf (2 ^ 52) 1) 0 k = ⟨List.replicate k 0, false, exGlob⟩ ∧
      busWrite exGlob (tileMaster 0) (srcOf (2 ^ 52) 2) 0 (leBytes k 7) = ⟨false, rawWrite exGlob 0 (leBytes k 7)⟩ ∧
      (busRead exGlob (tileMaster 0) (srcOf 0xFF000 1) (ownTile 0 + 0xFF000) k).bad = true) ∧
    (∀ k ∈ [1, 2], (busWrite exGlob (tileMaster 0) (srcOf 0xFF000 2) (ownTile 0 + 0xFF000) (leBytes k 7)).bad = true) ∧
    Issuable exGlob (0 : CtxId) 8 ∧ exGlob.dbg = [] ∧ (rawWrite exGlob 0 [7]).dbg = [] := by
  unfold Issuable; and_intros <;> first | decide +kernel | rfl

/-- The ends of the tile's SRAM, of the stook window and of the global window, and what each address reaches. -/
theorem witness_TileLocalAddresses :
    inTileWin exS 0 (0x100000 - 1) 1 = true ∧ inTileWin (exS.wr .CTX_WIN 0 0xFE00) 0 0xFF000 1 = false ∧
    inStookWin (exS.wr .CTX_WIN 0 0x7F000000) 0 0 1 = true ∧ inStookWin (exS.wr .CTX_WIN 0 0x7E000000) 0 (0x800000 - 1) 1 = false ∧
    exS.flag Fld.CTX_CTL_GLOBAL_EN 0 = false ∧ exGlob.flag Fld.CTX_CTL_GLOBAL_EN 0 = true ∧
    regionOf exGlob csrBase = .csr ∧ exGlob.flag Fld.CTX_CTL_GCSR_EN 0 = false ∧
    ctxPhys exGlob 0 (2 ^ 53) 1 = .error causeAddress ∧ ctxPhys exGlob 0 0x100000 1 = .error causeAddress ∧
    ctxPhys exGlob 0 (0x1800000 - 4) 8 = .error causeAddress := by
  and_intros <;> first | decide +kernel | rfl

/-- Each kind of place a bus access meets. -/
theorem witness_BusAccesses :
    regionOf exGlob 0 = .dram ∧ exGlob.homeQ = [] ∧ errLines exGlob 0 8 = [] ∧ anyChanFailed exGlob = false ∧
    dramSpecial exGlob = false ∧ MemWf exGlob ∧ pdiesDown exGlob = false ∧
    regionOf exGlob stookBase = .stook 0 ∧ stookFailed exGlob 0 = false ∧ stookFailed (exGlob.wr .FLOOR 47 1) 0 = true ∧
    regionOf exGlob (tileBase + 0x1FFFFFFF) = .tile 511 ∧ tileFailed exGlob 511 = false ∧
    tileFailed (exGlob.wr .FLOOR 7 0x8000000000000000) 511 = true ∧ badWords exGlob stookBase 8 = [] ∧
    badWords exGlob (ownTile 0 + 0xFF000) 4 ≠ [] ∧ regionOf exGlob (2 ^ 42) = .above ∧ regionOf exGlob (2 ^ 50) = .unmapped := by
  unfold MemWf; and_intros <;> decide +kernel

/-- s1 four bytes below the end of the tile's SRAM, s3 = 0x20: lane 0 of a strided load is in it, lane 1 is not. -/
def exEdge : State := { ctx := [(0, { st := .running, s := [(1, 0xFFFFC), (3, 0x20)] })] }

/-- A vector access that is not aligned, one that is refused, one without an active lane, one of a bad word; the first lane that
stops an indexed access, and one that reads a bad word. -/
theorem witness_VectorMemoryStops :
    0xFF001 % 128 ≠ 0 ∧ ctxPhys exS 0 0x100000 128 = .error causeAddress ∧ 0x100000 % 128 = 0 ∧
    ctxPhys exS 0 0xFF000 128 = .ok (ownTile 0 + 0xFF000) ∧ ctxP (taken exS 0) 0 1 = 0 ∧ (ctxP (taken exGlob 0) 0 0).getLsbD 0 = true ∧
    OwnPlace (taken exGlob 0) 0 0xFF000 128 ∧ Cells.get (fun _ => false) (taken exGlob 0).badPar ((ownTile 0 + 0xFF000) / 4 + 0) = true ∧
    watchHit exGlob 0 (.vld ⟨1, 1, 0, 0⟩) = false ∧ watchHit exGlob 0 (.vgather ⟨4, 1, 2, 0, 0⟩) = false ∧
    laneAddr (ctxS exEdge 0 1) (some (ctxS exEdge 0 3)) 0 1 % 4 = 0 ∧
    0x100000 < laneAddr (ctxS exEdge 0 1) (some (ctxS exEdge 0 3)) 0 1 + 4 ∧
    laneAddr (ctxS exEdge 0 1) (some (ctxS exEdge 0 3)) 0 0 + 4 = 0x100000 ∧ inTileWin exEdge 0 (0x100000 - 4) 4 = true ∧
    (∀ i < 32, laneAddr (ctxS exGlob 0 1) none (ctxV exGlob 0 2) i = 0xFF000) ∧ inTileWin exGlob 0 0xFF000 4 = true ∧
    Issuable exGlob (0 : CtxId) 4 ∧ Issuable exEdge (0 : CtxId) 4 := by
  unfold OwnPlace Issuable; and_intros <;> first | decide +kernel | rfl

/-- An accumulator that the context does not own, an unaligned operand, a first span outside the SRAM, one with a bad word. -/
theorem witness_TensorStops :
    ownsAcc (taken (exS.wr .TILE_CTL 0 0x55) 0) 0 0 = false ∧ ownsAcc (taken exS 0) 0 0 = true ∧ 0xFF001 % 32 ≠ 0 ∧
    (∃ sp post, (tloadSpans 0 0 0x100000 0).1 ++ (tloadSpans 0 0 0x100000 0).2.1 ++ (tloadSpans 0 0 0x100000 0).2.2 =
      [] ++ sp :: post ∧ 0x100000 < sp.1 + sp.2) ∧
    (∃ sp post, (tloadSpans 0 0 0xFF000 0).1 ++ (tloadSpans 0 0 0xFF000 0).2.1 ++ (tloadSpans 0 0 0xFF000 0).2.2 = [] ++ sp :: post ∧
      badWords (taken exGlob 0) (ownTile 0 + sp.1) sp.2 ≠ []) ∧
    (∀ q ∈ (tloadSpans 0 0 0xFF000 0).1 ++ (tloadSpans 0 0 0xFF000 0).2.1 ++ (tloadSpans 0 0 0xFF000 0).2.2,
      OwnPlace (taken exGlob 0) 0 q.1 q.2) ∧
    tIsInt 0 = tIsInt (wbufAt (taken exS 0) 0 0 0).fmt := by
  unfold OwnPlace
  refine ⟨by decide +kernel, by decide +kernel, by decide, ⟨_, _, rfl, by decide +kernel⟩, ⟨_, _, rfl, by decide +kernel⟩,
    by decide +kernel, by decide +kernel⟩
/-- Context 0 waits for counter 5 to hold 2, with hardware slicing of two areas under quantum 1,000 and a due quantum end. -/
def exWait : State :=
  (((({ ctx := [(0, { st := .waiting, wait := some (.counter 5 2), quantumEnd := true })] } : State).setFld
    Fld.CTX_SLICE_QUANTUM 0 1000).setFld Fld.CTX_SLICE_LIST_LEN 0 2).setFld Fld.CTX_CTL_WAIT_SWITCH 0 1)

/-- Context 0 is in REPLAYING after a failed read, with a mark. -/
def exReplay : State := { ctx := [(0, { st := .replaying, mark := some ⟨0x40, List.replicate 15 7⟩ })] }

/-- Context 0 has a failing code line at 128, of an image of 256 bytes that DRAM keeps at 0x10000. -/
def exReread : State :=
  ({ ctx := [(0, { st := .running, reread := 1, failAddr := 130 })],
     images := [{ job := 0, prog := 0, tile := 0, load := 0, len := 256, dram := 0x10000, arg := 0x1000 }] } : State).wr .MEM_IL 0
    0x1A01000001

theorem witness_EnginesCountersAndBarriers : Issuable exS (0 : CtxId) 4 ∧ enqUnit (0 : CtxId) (8 % 16) (8 / 16) = some (.pool 0) ∧
    OwnSpan (taken exS 0) (0 : CtxId) 0xFF000 (64 * (ownNat (taken exS 0) (0 : CtxId) 0xFF005 1 % 4 + 1)) ∧
    counterValid (leAt (putAt (peek (taken exS 0) (ownTile (0 : CtxId) + 0xFF000) 64) 4 [0]) 6 2) = true ∧
    waitName (ctxS (taken exS 0) (0 : CtxId) 3) = some 0x20 ∧ (ctxAt exWait 0).st = .waiting ∧
    (ctxAt exWait 0).wait = some (.counter 5 2) ∧ 2 ≤ counterVal (counterAdd exWait 5 2) 5 ∧
    (ctxS (taken exS 0) (0 : CtxId) 3).toNat.testBit ((0 : CtxId).val % 32) = false ∧
    (ctxS (taken exS 0) (0 : CtxId) 2).toNat.testBit ((0 : CtxId).val % 32) = true ∧ 5 &&& (0 ||| 2 ^ 0) ≠ 5 ∧
    1 &&& (0 ||| 2 ^ 0) = 1 := by
  unfold Issuable OwnSpan OwnPlace; and_intros <;> decide +kernel
theorem witness_ContextSystemInstructions : Issuable exS (0 : CtxId) 4 ∧ (ctxS (taken exS 0) (0 : CtxId) 2).getLsbD 0 = true ∧
    (ctxS (taken exS 0) (0 : CtxId) 1).getLsbD 0 = false := by
  unfold Issuable; decide +kernel
theorem witness_UndefinedEncodingsStopTheContext : Issuable exS (0 : CtxId) 4 ∧ (1#5) ≠ 0 ∧ vtypeOf (9#4).toNat = none ∧
    vtypeOf (15#4).toNat = none ∧ (0x21#16).toNat > 0x20 ∧ (64#16).toNat ≥ 64 := by
  unfold Issuable; decide +kernel
theorem witness_StoppingRecordsTheCause : CtxWf exS ∧ CsrWf exS ∧ causeHalt ≠ causeParity ∧ (ctxAt exS (0 : CtxId)).wait = none ∧
    Cells.wf (fun _ => ({} : Barrier)) exS.bar = true ∧ Cells.wf (fun _ => false) exS.lines = true ∧
    exS.flag Fld.CTX_CTL_HALT_IRQ (0 : CtxId) = false ∧ (exS.setFld Fld.CTX_CTL_HALT_IRQ 0 1).flag Fld.CTX_CTL_HALT_IRQ (0 : CtxId) = true :=
  ⟨exS_wf, by unfold CsrWf; and_intros <;> decide +kernel⟩
theorem witness_ContextCommands : atRest (ctxAt ({} : State) 0) = true ∧ tileFailed ({} : State) (tileOf 0) = false ∧
    atRest (ctxAt exS 0) = false ∧ (CtxReg.pc ≠ .ctl) ∧ (CtxReg.pc ≠ .slice) ∧
    ¬ (2 ≤ exS.written Fld.CTX_SLICE_LIST_LEN 0 (.full 0) ∧ exS.written Fld.CTX_SLICE_LIST_LEN 0 (.full 0) ≤ 8) ∧
    (ctxAt (requestStop exS 0) 0).stopReq = true ∧ (ctxAt (requestStop exS 0) 0).haltReq = false ∧
    (ctxAt (requestStop exS 0) 0).st = .running ∧ (ctxAt (stopCtx exS 0 causeHalt 0) 0).st = .stopped ∧
    (ctxAt (stopCtx exS 0 causeHalt 0) 0).cause ≠ causeUnitFailed ∧ tileFailed (stopCtx exS 0 causeHalt 0) (tileOf 0) = false ∧
    (∀ n, n < 4 → atRest (ctxAt ({} : State) (0 * 4 + n)) = true) ∧ CsrWf ({} : State) ∧
    Cells.wf (fun _ => false) ({} : State).lines = true ∧
    Fld.CTX_CTL_START.presented (.full 0x300) = 1 ∧ Fld.CTX_CTL_STOP.presented (.full 0x300) = 1 ∧
    Fld.CTX_CTL_RESUME.presented (.full 0x300) = 0 ∧ Fld.CTX_CTL_START.presented (.full 0) = 0 ∧
    (let a := CsrAcc.full 0xFFFF0800000000#64
     2 ≤ exS.written Fld.CTX_SLICE_LIST_LEN 0 a ∧ exS.written Fld.CTX_SLICE_LIST_LEN 0 a ≤ 8 ∧
     exS.written Fld.CTX_SLICE_SAVE_BASE 0 a * 128 + exS.written Fld.CTX_SLICE_LIST_LEN 0 a * 0x5200 > 0x800000) := by
  unfold CsrWf; and_intros <;> decide +kernel
theorem witness_ContextEvents : (ctxAt exReplay 0).st = .replaying ∧ (ctxAt exReplay 0).out = [] ∧
    (ctxAt exReplay 0).stopReq = false ∧ (ctxAt exReplay 0).mark = some ⟨0x40, List.replicate 15 7⟩ ∧
    (ctxAt exReplay 0).attempt = 0 ∧ (ctxAt exReplay 0).quantumEnd = false ∧
    (ctxAt (setCtx exReplay 0 { ctxAt exReplay 0 with attempt := 1 }) 0).attempt ≠ 0 ∧
    (ctxAt exReread 0).st = .running ∧ (ctxAt exReread 0).reread = 1 ∧
    imageAt exReread 0 128 = exReread.images.head? ∧ (exReread.images.map CodeImage.tile) = [tileOf 0] ∧
    prepare exReread (tileMaster 0) [(0x10000 + 128, 128)] [] = .go ∧
    memRead exReread (tileMaster 0) 0 (0x10000 + 128) 128 = ⟨List.replicate 128 0, false, exReread⟩ ∧ MemWf exReread ∧
    pdiesDown exReread = false ∧ tileFailed exReread (tileOf 0) = false ∧ sramSpecial exReread = false ∧
    atRest (ctxAt exWait 0) = false ∧ exWait.fld Fld.CTX_SLICE_QUANTUM 0 ≠ 0 ∧ (ctxAt exWait 0).st = .waiting ∧
    counterVal exWait 5 < 2 ∧ exWait.flag Fld.CTX_CTL_WAIT_SWITCH 0 = true ∧ hwSlicing exWait 0 = true ∧
    (ctxAt exWait 0).quantumEnd = true ∧ (ctxAt exWait 0).held = false ∧ (ctxAt exWait 0).stopReq = false ∧
    nextArea exWait 0 = some 1 ∧ (ctxAt (requestStop exWait 0) 0).stopReq = true ∧ (ctxAt (requestStop exWait 0) 0).haltReq = false ∧
    nextArea (rawWrite exWait (saveAddr exWait 0 1 + 0x131) [3]) 0 = none ∧ CsrWf exWait ∧ ownsAcc exWait 0 0 = true ∧
    (∀ i, i < 4 → ownsAcc (exWait.wr .TILE_CTL 0 0x55) 0 i = false) ∧
    exWait.fld Fld.CTX_SLICE_CUR 0 < exWait.fld Fld.CTX_SLICE_LIST_LEN 0 ∧
    exWait.fld Fld.CTX_SLICE_SAVE_BASE 0 * 128 + exWait.fld Fld.CTX_SLICE_LIST_LEN 0 * 0x5200 ≤ 0x800000 ∧ MemWf exWait ∧
    pdiesDown exWait = false ∧ stookFailed exWait (stookOf 0) = false ∧ sramSpecial exWait = false ∧
    badWords exWait (saveAddr exWait 0 1) 0x1200 = [] ∧ Cells.wf (fun _ => ([] : List Nat)) exWait.sliceOut = true := by
  unfold MemWf CsrWf; and_intros <;> decide +kernel
theorem witness_ManagementCoreInstructions : McIssuable exM (0 : Fin 4) 4 ∧
    (mcS (setMc exM 0 { mcAt exM 0 with skipBp := false }) 0 1 + BitVec.signExtend 64 0#16).toNat = 0x40000 - 4 ∧
    mcWatchHit exM (0 : Fin 4) (.load ⟨4, false⟩ ⟨2, 1, 0⟩) = false ∧ (mcAt exM 0).ie % 2 = 1 ∧
    outputOf (({ exM with } : State).wr .INTC_PEND 0 1 |>.wr .INTC_MASK 0 0 |>.wr .INTC_ROUTE 0 2) (0 + 2) = true ∧
    (mcAt (setMc exM 0 { mcAt exM 0 with waiting := some (5, 0) }) 0).waiting = some (5, 0) ∧ 0 ≤ counterVal exM 5 := by
  unfold McIssuable; and_intros <;> decide +kernel


/-- State with the P-dies down: in DRAIN's end state M2. -/
def exDown : State := exS.setFld Fld.PWR_STATUS_STATE 0 2

/-- s1 unaligned, s1 beyond 2^52, a counter name that R47 leaves out, one that waitc refuses. -/
def exAt (a : Word) : State := { ctx := [(0, { st := .running, s := [(1, a), (3, 0x20)] })] }

theorem witness_EnqAndWaitcStops :
    Issuable (exAt 0xFF001) (0 : CtxId) 4 ∧ Issuable (exAt 0x10000000000000) (0 : CtxId) 4 ∧ Issuable (exAt 0xFFFFFFFFFFFC0) (0 : CtxId) 4 ∧
    Issuable (exAt 0x6000) (0 : CtxId) 4 ∧ Issuable (exAt 65536) (0 : CtxId) 4 ∧
    ¬ ((6 ≤ 4 ∧ (0 : Nat) = 0) ∨ (6 = 5 ∧ (0 : Nat) < 4) ∨ (6 = 7 ∧ (0 : Nat) < 2) ∨ (6 = 8 ∧ (0 : Nat) = 0)) ∧
    0xFF001 % 64 ≠ 0 ∧ (0xFFFFFFFFFFFC0) % 64 = 0 ∧ ctxPhys (taken (exAt 0xFFFFFFFFFFFC0) 0) 0 (0xFFFFFFFFFFFC0) 64 = .error causeAddress ∧
    (let s := rawWrite exS (ownTile (0 : CtxId) + 0xFF006) [0x00, 0x44]
     OwnSpan (taken s 0) (0 : CtxId) 0xFF000 (64 * (ownNat (taken s 0) (0 : CtxId) 0xFF005 1 % 4 + 1)) ∧
     counterValid (ownNat (taken s 0) (0 : CtxId) 0xFF006 2) = false ∧ Issuable s (0 : CtxId) 4) ∧
    counterValid 0x6000 = false ∧ counterValid 0x5FFF = false ∧ counterValid 0x53FF = true := by
  unfold OwnSpan OwnPlace Issuable; and_intros <;> first | decide +kernel | rfl

theorem witness_UndefinedForms :
    (0x013#16).toNat ∉ [0x000, 0x001, 0x002, 0x003, 0x010, 0x011, 0x012, 0x020] ∧ 8 ≤ (8#16).toNat ∧ 256 ≤ (256#16).toNat ∧
    Issuable exS (0 : CtxId) 8 ∧ (2#8).toNat % 4 ≠ 0 ∧ vtypeOf 1 = some VType.u32 ∧ 16 ≤ (16 : RegNum).val ∧ 8 ≤ (8 : RegNum).val ∧
    2 < (3 : RegNum).val ∧ 11 < (12#4).toNat ∧ 13 < (14#4).toNat ∧ tIsInt 9 = true ∧ tIsInt 0 = false ∧
    ownsAcc (taken exS 0) 0 0 = true ∧ 0x3E * 2 ^ 26 / 2 ^ 26 = 0x3E ∧ 0x3F00 / 2 ^ 8 % 2 ^ 8 = 0x3F ∧
    decodeV (0x3F * 2 ^ 26 + 0x05 * 2 ^ 8) 0 = .undefined := by
  unfold Issuable; and_intros <;> decide +kernel
theorem witness_ContextCommands_down : pdiesDown exDown = true ∧ pdiesDown exS = false ∧ pdiesDown ({} : State) = false := by
  decide +kernel
/-! ## Hypotheses met: engines -/

/-- 1,024 GiB of DRAM on one channel. -/
def exDram : State := ({} : State).wr .MEM_IL 0 0x0A01000001

/-- `n` bytes with fields (offset, width, value) set. -/
def exBytes (n : Nat) (fs : List (Nat × Nat × Nat)) : List Byte :=
  fs.foldl (fun b f => putAt b f.1 (leBytes f.2.1 f.2.2)) (List.replicate n 0)

/-- A waiting job with a descriptor. -/
def exJob (d : List Byte) : Job := { seq := 1, desc := d }

/-- A state in which a unit's queue holds one job. -/
def exUnit (s : State) (u : EngUnit) (j : Job) : State := setJobs s u [j]

/-- Pool 0 is READY with 16 buffers of 64 KiB at 0x200000. -/
def exPool : State := exDram.wr .POOL_CFG 0 (16 + 0x300 + 16 * 65536) |>.wr .POOL_BASE 0 0x200000 |>.wr .POOL_META 0 0x300000
  |>.wr .POOL_STAT 0 16

/-- A FILL of 64 bytes at stook 0's SRAM. -/
def exFill : Job := exJob (exBytes 64 [(0, 1, 3), (8, 8, 0x0807060504030201), (0x10, 8, stookBase), (0x18, 4, 64)])
/-- A COPY and a COPY2D (2 rows) from DRAM to stook 0's SRAM. -/
def exCopy (op rows : Nat) : Job := exJob (exBytes 64 [(0, 1, op), (8, 8, 0x1000), (0x10, 8, stookBase), (0x18, 4, 64),
  (0x1C, 4, rows), (0x20, 8, 64), (0x28, 8, 128)])
/-- A job with a field check that fails: a length of 0. -/
def exBadCopy (op : Nat) : Job := exJob (exBytes 64 [(0, 1, op)])

theorem witness_JobEndsIncrementTheirCounter :
    CsrWf exDram ∧ Cells.wf (fun _ => ([] : List Job)) (exUnit exDram (.dma 0) exFill).eng = true ∧
    counterValid exFill.counter = true ∧ counterValid 0x3FFF = true ∧ counterValid 0x43FF = true ∧
    counterValid 0x4400 = false := by
  unfold CsrWf; decide +kernel

/-- Die 0's ring table stands at 0x2000; the ring of its counter 0 is at 0x4000 with 4 records. -/
def exRing (e : Nat) : State :=
  rawWrite ((exDram.setFld Fld.CQ_TABLE_BASE 0 (0x2000 / 64)).setFld Fld.CQ_TABLE_ENABLE 0 1) 0x2000 (leBytes 8 e)

theorem witness_RecordsComeBeforeTheirCount :
    exDram.flag Fld.CQ_TABLE_ENABLE (counterDie 0) = false ∧ (exRing 0).flag Fld.CQ_TABLE_ENABLE (counterDie 0) = true ∧
    memRead (exRing 0) 0 3 (tableEntryAddr (exRing 0) 0) 8 = ⟨leBytes 8 0, false, exRing 0⟩ ∧
    leNat (leBytes 8 0) / 2 ^ 63 ≠ 1 ∧
    (let e := 2 ^ 63 + 2 * 2 ^ 52 + 0x4000
     memRead (exRing e) 0 3 (tableEntryAddr (exRing e) 0) 8 = ⟨leBytes 8 e, false, exRing e⟩ ∧
     leNat (leBytes 8 e) / 2 ^ 63 = 1 ∧
     ringPlaceOk (exRing e) (bits (leNat (leBytes 8 e)) 6 46 * 64) (2 ^ bits (leNat (leBytes 8 e)) 52 4 * 32) = true) ∧
    (let e := 2 ^ 63 + 2 * 2 ^ 52 + tileBase % 2 ^ 52
     ringPlaceOk (exRing e) (bits (leNat (leBytes 8 e)) 6 46 * 64) (2 ^ bits (leNat (leBytes 8 e)) 52 4 * 32) = false) ∧
    (1 : Nat) ≠ 0 := by
  and_intros <;> decide +kernel

/-- A job that runs, and one whose outcome is final. -/
theorem witness_EngineJobsEnd :
    let j := { exFill with phase := JobPhase.running }
    let e := { exFill with phase := JobPhase.ended }
    EndsNow (exUnit exDram (.dma 0) j) (.dma 0) 0 j ∧ EndsNow (exUnit exDram (.thresher 0) j) (.thresher 0) 0 j ∧
    EndsNow (exUnit exDram (.perm 0) j) (.perm 0) 0 j ∧ EndsNow (exUnit exDram (.token 0) j) (.token 0) 0 j ∧
    EndsNow (exUnit exDram (.stream 0) j) (.stream 0) 0 j ∧ pumpBales (exUnit exDram (.baler 0) e) = exUnit exDram (.baler 0) e ∧
    ((jobsOf (exUnit exDram (.baler 0) e) (.baler 0)).filter (fun j => j.phase = .ended))[0]? = some e ∧
    endReady (exUnit exDram (.baler 0) e) (.baler 0) e = .go ∧
    (finishWrites (exUnit exDram (.token 0) j) (.token 0) j).job = j ∧
    (let s := exUnit exDram (.thresher 0) j
     (endable s (.thresher 0))[0]? = some j ∧ prepare s (unitMaster (.thresher 0)) (recordSpans s j.counter).1
      ((recordSpans s j.counter).2 ++ writeSpans j.writes ++ giveSpans s (thrPool 0 j) (j.aux.filterMap (bufferOf s (thrPool 0 j)))) = .go) := by
  unfold EndsNow; decide +kernel

/-- A write of an abort register that reaches its job ID, and one that does not. -/
theorem witness_EngineAborts :
    (let s := exUnit exDram (.dma 0) exFill
     Cells.wf (fun _ => ([] : List Job)) s.eng = true ∧ MemWf s ∧ ((jobsOf s (.dma 0)).map Job.seq).Nodup ∧
     exFill ∈ jobsOf s (.dma 0) ∧ exFill.jobId = 0 ∧ exFill.tag = 0 ∧ (abortable s (.dma 0) 0 0).length = 1) ∧
    pdiesDown exDram = false ∧ pdiesDown (exDram.setFld Fld.PWR_STATUS_STATE 0 2) = true ∧
    Fld.DMA_ABORT_JOB.reached (.full 0) = true := by
  unfold MemWf; decide +kernel

theorem witness_DmaAndThresherJobsRun :
    (let s := exUnit exDram (.dma 0) exFill
     dmaCheck s exFill = 0 ∧ exFill.flags % 2 = 0 ∧ (jobsOf s (.dma 0)).head?.elim false (fun h => h.seq == exFill.seq) = true ∧
     StartsNext s (.dma 0) 3 8 exFill [] { status := 0, xfer := 64, st := s }) ∧
    (∀ e ∈ [(1, 0), (2, 2)],
      let j := exCopy e.1 e.2
      let s := exUnit exDram (.dma 0) j
      dmaCheck s j = 0 ∧ StartsNext s (.dma 0) e.1 8 j (dmaRows j).src { status := 0, st := s } ∧
      readRows s (unitMaster (.dma 0)) (dmaRows j).src = ((readRows s (unitMaster (.dma 0)) (dmaRows j).src).1, false, s)) ∧
    (∀ e ∈ [(1, 0), (2, 2)],
      let j := exJob (putAt (exCopy e.1 e.2).desc 8 (leBytes 8 (stookBase + 4096)))
      let s := setBad (exUnit exDram (.dma 0) j) ((stookBase + 4096) / 4) true
      dmaCheck s j = 0 ∧ (readRows s (unitMaster (.dma 0)) (dmaRows j).src).2.1 = true ∧
      StartsNext s (.dma 0) e.1 8 j (dmaRows j).src { status := 0x80, st := (readRows s (unitMaster (.dma 0)) (dmaRows j).src).2.2 }) ∧
    (∀ op ∈ [1, 2, 3],
      let j := exBadCopy op
      let s := exUnit exDram (.dma 0) j
      dmaCheck s j ≠ 0 ∧ StartsNext s (.dma 0) op 8 j [] (failWith s (dmaCheck s j))) := by
  unfold StartsNext; and_intros <;> decide +kernel

/-- A small grey JPEG record (SOI, DQT, SOF0 of 16 × 16 samples, two DHT, SOS, two bytes of scan). -/
def exJpeg : List Byte :=
  [0xFF, 0xD8, 0xFF, 0xDB, 0, 67, 0] ++ List.replicate 64 1 ++ [0xFF, 0xC0, 0, 11, 8, 0, 16, 0, 16, 1, 1, 0x11, 0] ++
  [0xFF, 0xC4, 0, 19, 0] ++ List.replicate 16 0 ++ [0xFF, 0xC4, 0, 19, 0x10] ++ List.replicate 16 0 ++
  [0xFF, 0xDA, 0, 8, 1, 1, 0, 0, 63, 0, 0x55, 0x55]

/-- A DECODE of a record of type `ty` (`n` bytes at 0) to 4:0:0 frames of 16 × 16 samples at 0x100000, pool 0. -/
def exDecode (op ty n : Nat) : Job := exJob (exBytes 128 [(0, 1, op), (5, 1, 1), (8, 8, 0), (0x10, 4, n), (0x14, 1, ty), (0x15, 1, 2),
  (0x1A, 1, 1), (0x1B, 1, 1), (0x1E, 2, 16), (0x20, 8, 0x100000), (0x28, 4, 64), (0x38, 4, 0x10000), (0x42, 2, 1), (0x46, 2, 1),
  (0x48, 2, 16), (0x4A, 2, 16), (0x4C, 2, 16), (0x4E, 2, 16), (0x50, 1, 1)])

/-- Thresher 0 holds a DECODE of the JPEG record; its headers, and the buffers that it takes. -/
def exThrJob : Job := exDecode 2 4 exJpeg.length
def exThr : State :=
  exUnit { exPool with mem := exJpeg.zipIdx.filterMap (fun e => if e.1 = 0 then none else some (e.2, e.1)) } (.thresher 0) exThrJob
def exVideo : SeqHeader := ⟨.jpegBaseline, 0, 2, 1, 8, false, false, 16, 16, 0, 0, 0, 16, 16⟩
def exPics : List PicHeader := [⟨⟨true, false, 16, 16⟩, .jpeg⟩]
def exThrBuffers : Except Nat (List Nat) × State := thrBuffers exThr 0 exThrJob exVideo 2
def exThrHeld : List Nat := match exThrBuffers.1 with | .ok h => h | .error _ => []
def exStream : Stream := videoStream 4 exJpeg

/-- What decoding a unit of that record leaves: the state, whatever its units are. -/
theorem decodeUnit_st (k : Nat) (j : Job) (d : Decoding) (sel : Nat → List Nat) (s : State) (i : Nat) (u : VideoUnit)
    (hq : s.homeQ = []) (he : s.lineErr = []) (hr : ∀ a, a ≤ 4096 → regionOf s a = .dram)
    (hb : ∀ n ∈ d.st, (thrPayload j).1 + n.off + n.data.length ≤ 4096) : (decodeUnit k j d sel s i u).1 = s := by
  have hm (a n : Nat) (ha : a ≤ 4096) : (memRead s (unitMaster (.thresher k)) 3 a n).st = s := by
    simp [memRead, hr a ha, leaveHome, hq, dramRead, errLines, he]
  unfold decodeUnit unitBytes
  split
  · rfl
  · rename_i off len h
    split at h
    · rename_i n hn
      have hmem := hb n (List.mem_of_getElem? hn)
      split at h
      · simp only [Option.some.injEq, Prod.mk.injEq] at h
        have := hm ((thrPayload j).1 + off) len (by omega)
        dsimp only
        split
        · exact this
        · split
          · exact this
          · split <;> exact this
      · cases h
    · cases h

/-- What decoding the pictures of that record leaves: the state. -/
theorem decodePics_st (k : Nat) (j : Job) (d : Decoding) (sel : Nat → List Nat) (s : State) (pics : List Nat)
    (hq : s.homeQ = []) (he : s.lineErr = []) (hr : ∀ a, a ≤ 4096 → regionOf s a = .dram)
    (hb : ∀ n ∈ d.st, (thrPayload j).1 + n.off + n.data.length ≤ 4096) : (decodePics k j d sel s pics).st = s := by
  have inner (i : Nat) (us : List VideoUnit) : ∀ a : State × Option DecodeStop, a.1 = s →
      (us.foldl (fun (a : State × Option DecodeStop) u => if a.2.isSome then a else decodeUnit k j d sel a.1 i u) a).1 = s := by
    induction us with
    | nil => exact fun a h => h
    | cons u us ih =>
      intro a h
      refine ih _ ?_
      dsimp only
      split
      · exact h
      · rw [h, decodeUnit_st k j d sel s i u hq he hr hb]
  have outer : ∀ p : DecodePass, p.st = s → (pics.foldl (fun p i =>
      if p.stop.isSome then p
      else
        let us := d.units j i
        let r := ((sel i).filterMap (fun n => us[n]?)).foldl (fun (a : State × Option DecodeStop) u =>
          if a.2.isSome then a else decodeUnit k j d sel a.1 i u) (p.st, none)
        ⟨r.1, p.pics + 1, r.2⟩) p).st = s := by
    induction pics with
    | nil => exact fun p h => h
    | cons i pics ih =>
      intro p h
      refine ih _ ?_
      dsimp only
      split
      · exact h
      · exact inner i _ _ h
  exact outer _ rfl

theorem thrDecodeRun_aux (s : State) (k : Nat) (j : Job) (v : SeqHeader) (hs : List PicHeader) (st : Stream) (held : List Nat) :
    (thrDecodeRun s k j v hs st held).aux = held := by
  unfold thrDecodeRun; dsimp only; split <;> rfl

/-- What a run without a fallback of the closure leaves: the state, or the same with a region miss counted. -/
theorem thrDecodeRun_st (s : State) (k : Nat) (j : Job) (v : SeqHeader) (hs : List PicHeader) (st : Stream) (held : List Nat)
    (hq : s.homeQ = []) (he : s.lineErr = []) (hr : ∀ a, a ≤ 4096 → regionOf s a = .dram)
    (hb : ∀ n ∈ st, (thrPayload j).1 + n.off + n.data.length ≤ 4096) :
    ∃ a b, (thrDecodeRun s k j v hs st held).st = countFallbacks s k a b := by
  have hd (sel : Nat → List Nat) (l : List Nat) := decodePics_st k j ⟨st, v, hs, passOne hs⟩ sel s l hq he hr hb
  unfold thrDecodeRun
  dsimp only
  split <;> refine ⟨_, _, congrArg (fun t => countFallbacks t k _ _) (?_ : _ = s)⟩ <;> split <;>
    simp only [hd]

theorem ok_and_state (x : Except Nat (List Nat) × State) (h : x.1.isOk = true) :
    x = (.ok (match x.1 with | .ok h => h | .error _ => []), x.2) := by
  obtain ⟨l | l, t⟩ := x
  · simp [Except.isOk, Except.toBool] at h
  · rfl
theorem exThr_buffers : thrBuffers exThr 0 exThrJob exVideo 2 = (.ok exThrHeld, exThrBuffers.2) := by
  unfold exThrHeld
  exact ok_and_state exThrBuffers (by decide +kernel)
theorem exThr_regions (a : Nat) (h : a ≤ 4096) : regionOf exThrBuffers.2 a = .dram := by
  have : dramSize exThrBuffers.2 = 2 ^ 40 := by decide +kernel
  have e : dramEnd = 0x060000000000 := rfl
  rw [regionOf, this, e, if_pos (by omega), if_pos (by omega)]

/-- A DECODE of a JPEG record passes every check, gets its buffers and may start, whatever its decoding units are. -/
theorem witness_DmaAndThresherJobsRun_decode :
    let s := exThr
    let j := exThrJob
    let pay := thrData s 0 j
    let st := thrStream s 0 j
    let hs := recordPics 4 st exVideo
    thrType j = 4 ∧ thrInfo s 0 j = some exVideo ∧ thrEarly s 0 j (some exVideo) = (0, 0) ∧
    thrReadParts s 0 j [(0, headersEnd 4 st pay.length)] = (false, s) ∧ thrSeqChecks s 0 j exVideo = (0, 0) ∧
    thrReadParts s 0 j (scanParts 4 pay st) = (false, s) ∧ thrScanChecks s 0 j exVideo hs = (0, 0) ∧
    thrBuffers s 0 j exVideo (bufferCount (passOne hs) (thrClosure j (passOne hs))) = (.ok exThrHeld, exThrBuffers.2) ∧
    firstWaiting s (.thresher 0) = some j ∧ phaseCount (jobsOf s (.thresher 0)) .running < 2 ∧ j.op = 2 ∧
    prepare s (unitMaster (.thresher 0)) (thrReads 0 s j) (thrPuts s 0 j) = .go ∧
    injFire (thrDecodeRun exThrBuffers.2 0 j exVideo hs st exThrHeld).st 11 (unitMaster (.thresher 0)) = none := by
  have hd : thrData exThr 0 exThrJob = exJpeg := by decide +kernel
  have ht : thrType exThrJob = 4 := by decide +kernel
  have hst : thrStream exThr 0 exThrJob = exStream := by rw [thrStream, hd, ht]; rfl
  have hi : thrInfo exThr 0 exThrJob = some exVideo := by rw [thrInfo, hst, ht]; decide +kernel
  have hp : recordPics 4 exStream exVideo = exPics := by decide +kernel
  have h1 : thrEarly exThr 0 exThrJob (some exVideo) = (0, 0) := by decide +kernel
  have h2 : thrReadParts exThr 0 exThrJob [(0, headersEnd 4 exStream exJpeg.length)] = (false, exThr) := by decide +kernel
  have h3 : thrSeqChecks exThr 0 exThrJob exVideo = (0, 0) := by decide +kernel
  have h4 : thrReadParts exThr 0 exThrJob (scanParts 4 exJpeg exStream) = (false, exThr) := by decide +kernel
  have h5 : thrScanChecks exThr 0 exThrJob exVideo exPics = (0, 0) := by decide +kernel
  have h6 : bufferCount (passOne exPics) (thrClosure exThrJob (passOne exPics)) = 2 := by decide +kernel
  have h7 := exThr_buffers
  have ha : (thrRun 0 exThr exThrJob).aux = exThrHeld := by
    unfold thrRun
    simp only [hd, ht, hst, hi, h1, h2, h3, h4, hp, h5, h6, h7, thrDecodeRun_aux, ne_eq, not_true_eq_false, if_false, Bool.false_eq_true]
  have hr : thrReads 0 exThr exThrJob = [thrPayload exThrJob] := by simp only [thrReads, hi, h1, if_true]
  have hpu : thrPuts exThr 0 exThrJob = (exThrHeld.filterMap (bufferOf exThr 0)).map (fun b => (poolBitmap exThr 0 + b / 8, 1)) := by
    have : thrPool 0 exThrJob = 0 := by decide +kernel
    simp only [thrPuts, ha, this]
  obtain ⟨a, b, hrun⟩ := thrDecodeRun_st exThrBuffers.2 0 exThrJob exVideo exPics exStream exThrHeld (by decide +kernel) (by decide +kernel)
    exThr_regions (by decide +kernel)
  dsimp only
  rw [hd, hst, hp, h6, hr, hpu, hrun]
  refine ⟨ht, hi, h1, h2, h3, h4, h5, h7, by decide +kernel, by decide +kernel, by decide +kernel, by decide +kernel, ?_⟩
  cases a <;> cases b <;> decide +kernel

/-- A DECODE whose length code is wrong fails check 1, whatever its record. -/
def exBadDecode : Job := exJob (putAt exThrJob.desc 5 [0])
theorem witness_DmaAndThresherJobsRun_early (v : Option SeqHeader) :
    thrEarly (exUnit exPool (.thresher 0) exBadDecode) 0 exBadDecode v = (1, 0x81) := by
  have h : leAt exBadDecode.desc 5 1 % 4 = 0 := by decide +kernel
  simp [thrEarly, thrFieldsOk, thrCommonOk, h]

theorem witness_PermutationIsOneToOne : (1 : Nat) ≤ 2 ^ 48 ∧ (2 : Nat) ^ 48 - 1 < 2 ^ 48 := by decide

/-- Job 0's context at 0x8000 (N = 1,000, B = 10, T = 100, K = 1, RING_MIN = 1) and its shard table at 0x3000. -/
def exPermMem : State :=
  rawWrite (rawWrite (exDram.wr .PERM_CTX_BASE 0 0x8000) 0x8000
    (exBytes 64 [(0x10, 8, 1000), (0x18, 4, 10), (0x20, 4, 100), (0x26, 1, 1), (0x27, 1, 1), (0x28, 8, 0x3000), (0x38, 2, 1)]))
    0x3000 (exBytes 64 [(8, 4, 1), (0x10, 8, 1000), (0x28, 8, 1000)])

/-- OWNED or MAP of 10 slots of a step into 160 bytes at 0x10000; REPLACE (attempt 1) or VOID of position 5. -/
def exOwned (op step : Nat) : Job :=
  exJob (exBytes 64 [(0, 1, op), (8, 4, step), (0x10, 4, 10), (0x20, 8, 0x10000), (0x28, 4, 10)])
def exReplace (op : Nat) : Job := exJob (exBytes 64 [(0, 1, op), (0x14, 1, 1), (0x18, 6, 5)])

/-- DRAM channel 0 is marked failed: what it reads is poisoned. -/
def exPoison (s : State) : State := s.wr .FLOOR 11 1
/-- Job 0's shard table stands in stook 0's SRAM, its first word with bad parity. -/
def exBadTable (j : Job) : State :=
  setBad (exUnit (rawWrite exPermMem 0x8028 (leBytes 8 stookBase)) (.perm 0) j) (stookBase / 4) true

theorem witness_PermutationAndReplacementJobsRun :
    (∀ e ∈ [(1, exOwned 1 0), (2, exOwned 2 0), (3, exReplace 3), (4, exReplace 4)],
      let s := exUnit exPermMem (.perm 0) e.2
      permChecks 0 s e.2 = (0, s) ∧ readSpans s (unitMaster (.perm 0)) (permTables 0 s e.2) = (false, s) ∧
      (selectTable s (permCtx s 0 0) (permStep (permCtx s 0 0) e.2)).isSome = true ∧
      gateHolds s 0 e.2 = false ∧ openedHeld s 0 = none ∧ StartsNext s (.perm 0) e.1 4 e.2 (permReads 0 s e.2) { status := 0, st := s }) ∧
    (∀ op ∈ [1, 3],
      let j := if op = 1 then exOwned 1 0 else exReplace 3
      let s := exBadTable j
      let r := readSpans s (unitMaster (.perm 0)) (permTables 0 s j)
      permChecks 0 s j = (0, s) ∧ r.1 = true ∧ gateHolds s 0 j = false ∧ openedHeld s 0 = none ∧
      StartsNext s (.perm 0) op 4 j (permReads 0 s j) (failWith r.2 0x80)) ∧
    (∀ op ∈ [1, 2],
      let j := exOwned op 1
      let s := exUnit exPermMem (.perm 0) j
      permChecks 0 s j = (0, s) ∧ prepare s (unitMaster (.perm 0)) (permReads 0 s j) [] = .go ∧
      gateHolds s 0 j = true ∧ firstWaiting s (.perm 0) = some j ∧ phaseCount (jobsOf s (.perm 0)) .held < 16) ∧
    (let j := { exOwned 1 0 with phase := JobPhase.held }
     let s := exUnit exPermMem (.perm 0) j
     readSpans s (unitMaster (.perm 0)) (permTables 0 s j) = (false, s) ∧
     (selectTable s (permCtx s 0 0) (permStep (permCtx s 0 0) j)).isSome = true ∧
     ((jobsOf s (.perm 0)).filter (fun j => j.phase = .held))[0]? = some j ∧ openedHeld s 0 = some j ∧
     phaseCount (jobsOf s (.perm 0)) .running < 4 ∧ prepare s (unitMaster (.perm 0)) (permReads 0 s j) [] = .go ∧
     injFire s 11 (unitMaster (.perm 0)) = none) ∧
    (∀ e ∈ [exOwned 1 0, exOwned 2 0, exReplace 3, exReplace 4],
      let s := exUnit exDram (.perm 0) e
      permChecks 0 s e = (0x81, s) ∧ firstWaiting s (.perm 0) = some e ∧ prepare s (unitMaster (.perm 0)) (permReads 0 s e) [] = .go) ∧
    (let s := exPoison (exUnit exPermMem (.perm 0) (exOwned 1 0))
     (permChecks 0 s (exOwned 1 0)).1 = 0x80) := by
  unfold StartsNext; and_intros <;> decide +kernel

/-- Job 0 is loaded with one catalog segment (directory at 0x5000, entries of samples 0 to 9 at 0x6000, all of zeros), and
position 5's first attempt waits for a reply. -/
def exCatalog : State :=
  { rawWrite (rawWrite exDram 0x5000 (exBytes 32 [(8, 8, 10), (0x10, 8, 0x6000)])) 0x601C
      (leBytes 4 (crc32c (List.replicate 28 0))) with
    jobs := [{ id := 0, addr := 0, desc := exBytes 512 [(0x40, 8, 0x5000), (0x48, 4, 1)] }],
    repl := [⟨0, 5, 1, .sent, 7, 3, none, 0⟩] }

/-- A request for a position of the job's shard: its spans, and what the catalog holds there: a good entry, none, a corrupt one, a
poisoned one. -/
def exRequest (idx : Nat) : ReplRequest := ⟨0, 1, 0, 5, BitVec.ofNat 64 idx, 3, 7⟩
theorem witness_PermutationAndReplacementJobsRun_messages :
    (∃ j e, exCatalog.jobs.find? (fun j => j.id == 0) = some j ∧ stepBeyond (leAt j.desc 0x28 4) 0 = false ∧
      prepare exCatalog 0x10 (requestSpans exCatalog (exRequest 0)) [] = .go ∧
      readSpans exCatalog 0x10 (catalogSpans exCatalog j 0) = (false, exCatalog) ∧
      catalogEntry exCatalog j 0 = some e ∧ entryCorrupt e = false ∧ catalogEntry exCatalog j 10 = none ∧
      (catalogEntry exCatalog j 1).elim false entryCorrupt = true ∧
      (readSpans (exPoison exCatalog) 0x10 (catalogSpans (exPoison exCatalog) j 0)).1 = true) ∧
    isFailure 0x10 = true ∧
    (∃ t, tryOf exCatalog 0 5 = some t ∧ t.phase = .sent ∧ t.attempt = 1 ∧ t.tag = 7 ∧ t.alternate = none) ∧
    (∃ t, tryOf { exCatalog with repl := [⟨0, 5, 1, .sent, 7, 3, some 9, 0⟩] } 0 5 = some t ∧ t.alternate = some 9) :=
  ⟨⟨_, _, rfl, by decide +kernel, by decide +kernel, by decide +kernel, rfl, by decide +kernel, by decide +kernel, by decide +kernel,
    by decide +kernel⟩, by decide, ⟨_, rfl, by decide⟩, ⟨_, rfl, rfl⟩⟩

/-- Job 0's context at 0x8000 (B = 4, C = 1, RING_MIN = 1, slots of 64 bytes) and consumer 0's entry at 0x9000 (ring of one bale
of 320 bytes). -/
def exBalerMem : State :=
  rawWrite (rawWrite (exDram.wr .BALER_CTX_BASE 0 0x8000) 0x8000
    (exBytes 64 [(0, 8, 0x9000), (8, 4, 4), (0xC, 2, 1), (0xE, 2, 1), (0x10, 4, 64), (0x14, 1, 1)]))
    0x9000 (exBytes 32 [(0, 8, 0x40000), (0x10, 4, 320), (0x14, 2, 1)])

/-- A baler job of step `step` and slot 0: 64 bytes of COPY from 0x1000, ZERO of 64 bytes, VOID, CLOSE of one slot. -/
def exBale (op step : Nat) : Job :=
  exJob (exBytes 128 [(0, 1, op), (5, 1, 1), (8, 4, step), (0x12, 2, 1), (0x18, 8, 0x1000), (0x20, 4, 64)])
/-- IMAGE: one 16 × 16 picture of 8-bit 4:0:0 at 0x1000 into one channel of bytes, in a slot of 256 bytes. -/
def exImage (step : Nat) : Job :=
  exJob (exBytes 128 [(0, 1, 1), (5, 1, 1), (8, 4, step), (0x18, 8, 0x1000), (0x20, 4, 1024), (0x24, 2, 64), (0x30, 2, 16), (0x32, 2, 16),
    (0x34, 1, 1), (0x35, 1, 2), (0x36, 1, 8), (0x39, 1, 0), (0x3A, 2, 16), (0x3C, 2, 16), (0x40, 4, 256), (0x44, 4, 16), (0x48, 4, 256)])
def exImageMem : State :=
  rawWrite (rawWrite exBalerMem 0x8010 (leBytes 4 256)) 0x9010 (leBytes 4 1088)

theorem witness_BalerJobsRun :
    (∀ e ∈ [(exImageMem, exImage 0), (exBalerMem, exBale 2 0), (exBalerMem, exBale 3 0), (exBalerMem, exBale 4 0), (exBalerMem, exBale 5 0)],
      let j := e.2
      let s := exUnit e.1 (.baler 0) j
      prepare s (unitMaster (.baler 0)) (balerCheckReads s 0 j) [] = .go ∧
      (balerChecks s 0 j).1.isNone = true ∧ (balerChecks s 0 j).2 = s ∧
      (readRows s (unitMaster (.baler 0)) (balerSpans j)).2 = (false, s) ∧
      phaseCount (jobsOf s (.baler 0)) .running < 8 ∧ prepare s (unitMaster (.baler 0)) (balerReads 0 s j) [] = .go ∧
      injFire s 11 (unitMaster (.baler 0)) = none ∧ windowOpen s 0 j = true ∧ openHeld s 0 = [] ∧
      firstWaiting s (.baler 0) = some j) ∧
    (let j := { exImage 0 with phase := JobPhase.held }
     let s := exUnit exImageMem (.baler 0) j
     ((jobsOf s (.baler 0)).filter (fun j => j.phase = .held))[0]? = some j ∧ (openHeld s 0).head? = some j ∧
     prepare s (unitMaster (.baler 0)) (balerReads 0 s j) [] = .go ∧
     (readRows s (unitMaster (.baler 0)) (balerSpans j)).2 = (false, s)) ∧
    (let j := exImage 1
     let s := exUnit exImageMem (.baler 0) j
     (balerChecks s 0 j).1.isNone = true ∧ prepare s (unitMaster (.baler 0)) (balerCheckReads s 0 j) [] = .go ∧
     windowOpen s 0 j = false ∧ firstWaiting s (.baler 0) = some j ∧ phaseCount (jobsOf s (.baler 0)) .held < 32 ∧ j.op = 1) ∧
    (let j := exBale 2 0
     let s := exUnit exDram (.baler 0) j
     (balerChecks s 0 j).1.isSome = true ∧ prepare s (unitMaster (.baler 0)) (balerCheckReads s 0 j) [] = .go ∧
     firstWaiting s (.baler 0) = some j ∧
     (balerChecks (exPoison s) 0 j).1.isSome = true) := by
  and_intros <;> decide +kernel
/-! ## Hypotheses met: token and stream engines, pools, DRAM -/

/-- A vocabulary table at address 0: the 256 byte tokens, no merges, 2 hash entries. -/
def exHeader : List Byte :=
  leBytes 64 (0x4B4F5456 + 2 ^ 32 + 256 * 2 ^ 64 + 64 * 2 ^ 128 + 0x840 * 2 ^ 192 + 256 * 2 ^ 256 + 2 ^ 288 + 0x940 * 2 ^ 320
    + 0xf95c7abf * 2 ^ 480)

/-- The byte of the table's index or strings at an address: the index entry of token t is its offset t and length 1. -/
def exTableByte (a : Nat) : Byte :=
  if a < 64 then exHeader.getD a 0
  else if a < 0x840 then (if (a - 64) % 8 = 0 then BitVec.ofNat 8 ((a - 64) / 8) else if (a - 64) % 8 = 4 then 1 else 0)
  else BitVec.ofNat 8 (a - 0x840)

/-- DRAM holds that table. -/
def exVocabMem : State :=
  { exDram with mem := (List.range' 0 0x940).filterMap (fun a => if exTableByte a = 0 then none else some (a, exTableByte a)) }

/-- Looking a byte up in memory listed by a function. -/
theorem get_listed (f : Nat → Byte) (a : Nat) : ∀ n b, Cells.get (memDefault 0)
    ((List.range' b n).filterMap (fun i => if f i = 0 then none else some (i, f i))) a = if b ≤ a ∧ a < b + n then f a else 0 := by
  intro n
  induction n with
  | zero => intro b; rw [if_neg (by omega)]; rfl
  | succ n ih =>
    intro b
    rw [List.range'_succ, List.filterMap_cons]
    by_cases h0 : f b = 0
    · simp only [h0, ↓reduceIte, ih]
      by_cases hab : a = b
      · subst hab; simp [h0]
      · have : (b + 1 ≤ a ∧ a < b + 1 + n) ↔ (b ≤ a ∧ a < b + (n + 1)) := by omega
        by_cases hc : b ≤ a ∧ a < b + (n + 1)
        · rw [if_pos hc, if_pos (this.mpr hc)]
        · rw [if_neg hc, if_neg (fun h => hc (this.mp h))]
    · simp only [h0, ↓reduceIte, Cells.get, ih]
      by_cases hab : a = b
      · subst hab; simp
      · have : (b + 1 ≤ a ∧ a < b + 1 + n) ↔ (b ≤ a ∧ a < b + (n + 1)) := by omega
        by_cases hlt : a < b
        · rw [if_neg (by omega : ¬ a = b), if_pos hlt, if_neg (by omega : ¬ (b ≤ a ∧ a < b + (n + 1)))]; rfl
        · rw [if_neg (by omega : ¬ a = b), if_neg hlt]
          by_cases hc : b ≤ a ∧ a < b + (n + 1)
          · rw [if_pos hc, if_pos (this.mpr hc)]
          · rw [if_neg hc, if_neg (fun h => hc (this.mp h))]

/-- The vocabulary of that table. -/
def exVocab : Vocab := ⟨0, 256, 0, 1, 64, 0x840, 0x940⟩

/-- Token engine 0 holds the vocabulary in slot 0 and session 0 of slot 1; hash entries are all empty. -/
def exTok (j : Job) : State :=
  { exUnit exDram (.token 0) j with
    tok := [(0, { slots := [(0, some exVocab)], sess := [(0, some { slot := 1, block := List.replicate 128 0 })] })] }

/-- A token job: slot, session, length and spans. -/
def exTokJob (op : Nat) : Job :=
  exJob (exBytes 64 [(0, 1, op), (0x0C, 4, 1), (0x10, 8, 0x10000), (0x18, 8, 0x20000), (0x20, 4, 1)])

/-- The LOAD of that table. -/
def exLoadJob : Job := exJob (exBytes 64 [(0, 1, 1)])
def exLoad : State := exUnit exVocabMem (.token 0) exLoadJob

theorem exLoad_peekLe (a n : Nat) : peekLe exLoad a n = leNat ((List.range n).map (fun i =>
    if a + i < 0x940 then exTableByte (a + i) else 0)) := by
  have hm : exDram.memGen = 0 := rfl
  simp only [peekLe, peek, rawBytes]
  congr 1
  apply List.map_congr_left
  intro i _
  have := get_listed exTableByte (a + i) 0x940 0
  simpa [rawByte, exLoad, exUnit, setJobs, exVocabMem, hm] using this

theorem exLoad_read (ls : List Nat) : readLines exLoad ls = (false, exLoad) := by
  have h : anyChanFailed exLoad = false := by decide +kernel
  have he : ∀ l, errsOf exLoad l = [] := fun l => rfl
  have hf : ∀ l : List Nat, l.filter (fun _ => false) = [] := fun l => by induction l <;> simp_all
  simp [readLines, h, he, hf]

theorem exLoad_strings : stringsOk exLoad exVocab 256 = true := by
  simp only [stringsOk, exLoad_peekLe]
  decide +kernel

theorem exLoad_header : headerOk exLoad 0 exHeader = true := by decide +kernel
theorem exLoad_peek : peek exLoad 0 64 = exHeader := by
  have h : peek exLoad 0 64 = (List.range 64).map (fun i => if i < 0x940 then exTableByte i else 0) := by
    have hm : exDram.memGen = 0 := rfl
    simp only [peek, rawBytes]
    apply List.map_congr_left
    intro i _
    have := get_listed exTableByte i 0x940 0
    simpa [rawByte, exLoad, exUnit, setJobs, exVocabMem, hm] using this
  rw [h]; decide +kernel

theorem tokLoadRun_ok (s : State) (t : TokSt) (slot a : Nat) (o : Option Nat) (h : List Byte) (v : Vocab)
    (h1 : slotOf t slot = none) (h2 : ownSpan s o (a, 64) = 0) (h3 : a % 64 = 0) (h4 : inDram s a 64 = true)
    (h5 : peek s a 64 = h) (h6 : ∀ ls, readLines s ls = (false, s)) (h7 : headerOk s a h = true) (h8 : vocabOf a h = v)
    (h9 : stringsOk s v (leAt h 0x20 4) = true) : tokLoadRun s t slot a o = (0, some v, s) := by
  simp [tokLoadRun, h1, h2, h3, h4, h5, h6, h7, h8, h9]

theorem exLoad_run : tokLoadRun exLoad (tokOf exLoad 0) (tokSlot exLoadJob) 0 none = (0, some exVocab, exLoad) :=
  tokLoadRun_ok _ _ _ _ _ _ _ (by decide +kernel) (by decide +kernel) (by decide) (by decide +kernel) exLoad_peek exLoad_read
    exLoad_header (by decide +kernel) (by rw [show leAt exHeader 0x20 4 = 256 by decide +kernel]; exact exLoad_strings)

theorem witness_TokenLoadRuns : tokNext exLoad 0 = some exLoadJob ∧ phaseCount (jobsOf exLoad (.token 0)) .running < 4 ∧
    prepare exLoad (unitMaster (.token 0)) (tokReads 0 exLoad exLoadJob) [] = .go ∧ tokFieldsOk exLoadJob = true ∧
    leAt exLoadJob.desc 0x10 8 = 0 ∧ exLoadJob.origin = none ∧
    tokLoadRun exLoad (tokOf exLoad 0) (tokSlot exLoadJob) 0 none = (0, some exVocab, exLoad) ∧ exLoadJob.op = 1 ∧
    injFire (withEffect exLoad 0 { seq := 1, status := 0, slot := some (0, some exVocab) }) 11 (unitMaster (.token 0)) = none :=
  ⟨by decide +kernel, by decide +kernel, by decide +kernel, by decide +kernel, by decide +kernel, rfl, exLoad_run,
    by decide +kernel, by decide +kernel⟩

theorem witness_TokenJobsRun :
    (∀ op ∈ [2, 3, 4, 5, 6],
      let j := exTokJob op
      let s := exTok j
      tokNext s 0 = some j ∧ phaseCount (jobsOf s (.token 0)) .running < 4 ∧
      prepare s (unitMaster (.token 0)) (tokReads 0 s j) [] = .go ∧ tokFieldsOk j = true ∧ j.op = op ∧
      injFire (tokRun 0 s j).st 11 (unitMaster (.token 0)) = none) ∧
    (let t := tokOf (exTok (exTokJob 2)) 0
     (slotOf t 0).isSome = true ∧ slotNamed t 0 = false ∧ (sessionOf t 0).isSome = true) ∧
    (let s := exTok (exTokJob 3)
     ownSpans s none [(0x10000, 1), (0x20000, 4)] = 0 ∧
     memRead s (unitMaster (.token 0)) 3 0x10000 1 = ⟨[0], false, s⟩ ∧ tokenize s exVocab [0] = ([0], 0, 0, []) ∧
     readLines s [] = (false, s) ∧ ([0] : List Nat).length ≤ 1) := by
  and_intros <;> decide +kernel

/-- A session block: 16 tokens at most, their text at 0x50000 (64 bytes) and they at 0x60000, no stop strings, trie or bans. -/
def exBlock : List Byte := exBytes 128 [(0x14, 2, 16), (0x28, 8, 0x50000), (0x30, 4, 64), (0x38, 8, 0x60000)]
/-- An OPEN with that block at 0x10000 as session 1, and a STEP of session 0 with one candidate, token 65 with weight 1. -/
def exOpenJob : Job := exJob (putAt (exTokJob 4).desc 0x0A [1])
def exOpen : State := rawWrite (exTok exOpenJob) 0x10000 exBlock
def exStep5 : State :=
  { rawWrite (exTok (exTokJob 5)) 0x10000 (leBytes 4 65 ++ leBytes 4 1) with
    tok := [(0, { slots := [(0, some exVocab)], sess := [(0, some { slot := 0, block := exBlock })] })] }

theorem witness_TokenJobsRun_sessions :
    (let j := exOpenJob
     let s := exOpen
     let t := tokOf s 0
     tokNext s 0 = some j ∧ phaseCount (jobsOf s (.token 0)) .running < 4 ∧ tokFieldsOk j = true ∧ j.op = 4 ∧
     prepare s (unitMaster (.token 0)) (tokReads 0 s j) [] = .go ∧ slotOf t (tokSlot j) = some exVocab ∧
     sessionOf t (tokSession j) = none ∧
     ownSpans s j.origin [(0x10000, 128), (leAt j.desc 0x18 8, 4 * leAt j.desc 0x20 4)] = 0 ∧
     memRead s (unitMaster (.token 0)) 3 0x10000 128 = ⟨exBlock, false, s⟩ ∧ ownSpans s j.origin (blockSpans exBlock exVocab.tokens) = 0 ∧
     stopCount exBlock = 0 ∧ blockOk s 0x10000 exBlock [] = true ∧ trieAddr exBlock = 0 ∧ banAddr exBlock = 0 ∧
     (openRun 0 s j).status = 0 ∧ injFire (openRun 0 s j).st 11 (unitMaster (.token 0)) = none) ∧
    (let j := exTokJob 5
     let s := exStep5
     let t := tokOf s 0
     let ds := leBytes 4 65 ++ leBytes 4 1
     let q := stepSession s (unitMaster (.token 0)) j.origin exVocab { slot := 0, block := exBlock } [(65, 1)] (leAt j.desc 0x24 4)
     tokNext s 0 = some j ∧ tokFieldsOk j = true ∧ j.op = 5 ∧ prepare s (unitMaster (.token 0)) (tokReads 0 s j) [] = .go ∧
     sessionOf t (tokSession j) = some { slot := 0, block := exBlock } ∧ slotOf t 0 = some exVocab ∧
     ownSpans s j.origin ([(0x10000, 8), (leAt j.desc 0x18 8, 4 * leAt j.desc 0x20 4)] ++ stepSpans exBlock exVocab.tokens) = 0 ∧
     memRead s (unitMaster (.token 0)) 3 0x10000 8 = ⟨ds, false, s⟩ ∧ (leAt ds 0 4, leAt ds 4 4) = (65, 1) ∧ q.bad = false ∧ q.children = [] ∧
     q.token = 65 ∧ q.stored = 1 ∧ (stepRun 0 s j).status = 0 ∧ injFire (stepRun 0 s j).st 11 (unitMaster (.token 0)) = none) := by
  and_intros <;> decide +kernel

/-- A stream job over 64 bytes at 0x1000 with room for 64 bytes at 0x2000. -/
def exStr (op : Nat) : Job :=
  exJob (exBytes 128 [(0, 1, op), (5, 1, 1), (8, 8, 0x1000), (0x10, 4, 64), (0x18, 8, 0x2000), (0x20, 4, 256), (0x48, 1, 8), (0x4A, 1, 1),
    (0x4C, 4, 1), (0x62, 2, 1)])

theorem witness_StreamJobsRun : ∀ op ∈ [1, 2, 3, 4, 5, 6],
    let j := exStr op
    let s := exUnit exDram (.stream 0) j
    strFieldsOk j = true ∧ ownSpans s j.origin [strIn j, strOut j] = 0 ∧ spansMeet (strIn j) (strOut j) = false ∧
    firstBad s (strIn j).1 (strIn j).2 = none ∧ StartsNext s (.stream 0) op 1 j [strIn j] (strRun 0 s j) := by
  unfold StartsNext; decide +kernel
theorem witness_StoredDeflateInflatesBack : (2 : Nat) ≤ 2 := by decide

/-- Pool 0 enabled and not yet initialised. -/
def exPoolOff : State := (exPool.setFld Fld.POOL_CFG_READY 0 0).setFld Fld.POOL_STAT_FREE 0 0
/-- ALLOC of one buffer, and FREE of buffer 0. -/
def exAlloc : Job := exJob (exBytes 64 [(0, 1, 1), (9, 1, 1)])
def exFree : Job := exJob (exBytes 64 [(0, 1, 2), (9, 1, 1), (0x18, 8, 0x200000)])

theorem witness_PoolsGiveAndTakeBuffers :
    (let s := exPoolOff.setFld Fld.POOL_CFG_ENABLE 0 0
     s.flag Fld.POOL_CFG_ENABLE 0 = false ∧ poolConfigOk s 0 (field (16 + 16 * 65536) 0 5) (field (16 + 16 * 65536) 16 24) = true) ∧
    (CsrWf exPoolOff ∧ Cells.wf (fun _ => (0 : Nat)) exPoolOff.poolHead = true ∧ exPoolOff.flag Fld.POOL_CFG_ENABLE 0 = true ∧
     exPoolOff.flag Fld.POOL_CFG_READY 0 = false ∧ pUnitFailed exPoolOff 0 3 = false) ∧
    (let s := exUnit exPool (.pool 0) exAlloc
     (jobsOf s (.pool 0)).head? = some exAlloc ∧ poolChecks s 0 exAlloc = (0, 0) ∧
     prepare s (unitMaster (.pool 0)) (recordSpans s 0).1 ((recordSpans s 0).2 ++ poolList exAlloc) = .go ∧
     (poolTake s 0 1).1 = some [0x200000] ∧ injFire s 11 (unitMaster (.pool 0)) = none) ∧
    (let s := exUnit (poolTake exPool 0 1).2 (.pool 0) exFree
     (jobsOf s (.pool 0)).head? = some exFree ∧ poolChecks s 0 exFree = (0, 0) ∧ leAt exFree.desc 9 1 = 1 ∧
     prepare s (unitMaster (.pool 0)) (recordSpans s 0).1 (recordSpans s 0).2 = .go ∧ injFire s 11 (unitMaster (.pool 0)) = none ∧
     (poolGive s 0 [leAt (sliceB exFree.desc 0x18 8) 0 8]).1 = 0) ∧
    poolFree exPoolOff 0 < 1 := by
  unfold CsrWf; and_intros <;> decide +kernel

/-- One symbol of line 0 is wrong. -/
def exErr : State := { exDram with lineErr := [(0, [(3, 5)])], wbPend := [0] }

theorem exErr_corrected : decodeLine exErr 0 = .corrected [0] := by
  have h : ∀ r : Fin 4, decodeErrs (markOf exErr 0 r.val) [3] = .corrected [0] := by decide +kernel
  exact h _

theorem witness_DramCommandsAct :
    (prepare exDram 0 [] [(63, 1)] = .go ∧ regionOf exDram 63 = .dram ∧ dramSpecial exDram = false ∧ anyChanFailed exDram = false ∧
     errLines exDram 63 1 = [] ∧ MemWf exDram ∧ prepare exDram 0 [(0, 64)] [] = .go ∧ errLines exDram 0 64 = []) ∧
    (prepare exErr 0 [(0, 64)] [] = .go ∧ regionOf exErr 0 = .dram ∧ anyChanFailed exErr = false ∧
     errLines exErr 0 64 = [0] ∧ decodeLine exErr 0 = .corrected [0] ∧ CsrWf exErr ∧ exErr.wbPend[0]? = some 0) ∧
    chanFailed exDram 0 = false ∧ refreshInterval exDram 0 ≤ 8580 ∧ refreshInterval { exDram with hot := [(0, true)] } 0 ≤ 4290 := by
  unfold MemWf CsrWf
  refine ⟨by decide +kernel, ⟨by decide +kernel, by decide +kernel, by decide +kernel, by decide +kernel, exErr_corrected,
    by decide +kernel, by decide +kernel⟩, by decide +kernel⟩

/-- Volume 0 of X-die 0: die group 0, READWRITE, 100 granules; blocks of 256 pages, 4 blocks a die. -/
def exFlash : State :=
  { ((((exDram.setFld Fld.FL_VOL_CFG_GROUP_COUNT 0 1).setFld Fld.FL_VOL_STATE_STATE 0 3).setFld Fld.FL_VOL_CAP_LC 0 100)) with
    flash := { geo := [(0, { ppb := 256, bpd := 4 })] } }

/-- A task: one granule from LGN 0 with buffer 0x10000 and record 0x20000; FLUSH and FORMAT count no granule. -/
def exTask (op : Nat) : FlTask :=
  { seq := 1, desc := exBytes 64 [(0, 1, op), (0x0C, 4, if op ≤ 3 then 1 else 0), (0x18, 8, 0x10000), (0x20, 8, 0x20000)] }

theorem witness_FlashTasksRun :
    (let s := rawWrite exFlash 0x3000 (exTask 1).desc
     flashSpan s 0x3000 64 = 0 ∧ prepare s (flashMaster 0) [(0x3000, 64)] [] = .go ∧
     memRead s (flashMaster 0) 3 0x3000 64 = ⟨(exTask 1).desc, false, s⟩ ∧ (exTask 1).rec_ % 32 = 0 ∧
     flashSpan s (exTask 1).rec_ 32 = 0 ∧ counterValid (leAt (exTask 1).desc 6 2) = true ∧ (tasksOf s 0).length < 4096) ∧
    (∀ op ∈ [1, 2, 3, 4, 5],
      let s := setTasks exFlash 0 [exTask op]
      (exTask op).phase = .waiting ∧ flCheck s 0 (exTask op) = (0, 0) ∧ (proceedable s 0 op)[0]? = some (exTask op) ∧
      (exTask op).op = op ∧ prepare s (flashMaster 0) (if op = 2 then [(exTask op).span] else []) [] = .go ∧
      injFire (setTask s 0 { exTask op with phase := .running }) 11 (flashMaster 0) = none) ∧
    (let t := { exTask 3 with phase := JobPhase.running, finished := true }
     let s := setTasks exFlash 0 [t]
     (flEndable s 0)[0]? = some t ∧ prepare s (flashMaster 0) [] ((t.rec_, 32) :: writeSpans t.writes) = .go) ∧
    (exTask 1).finished = false ∧ Cells.get (fun _ => unmapped) (volOf exFlash 0 0).map 0 = unmapped := by
  and_intros <;> decide +kernel

/-- The same volume with a page of LGN 7 at granule 0 and map page 0 at granule 1, superblock 0 closed and the victim. -/
def exFull : State :=
  { exFlash with flash := { exFlash.flash with
      pages := [(0, { vol := 0, lgn := 7 }), (1, { vol := 0, lgn := 0, isMap := true })]
      fills := [(0, [(0, 0)])]
      vols := [(0, { map := [(7, 0)], mapLoc := [(0, 1)], sbs := [(0, { phase := .closed }), (1, { phase := .filled })], victim := some 0 })] } }

theorem witness_FlashUpkeepActs :
    ((fillsOf exFull 0)[0]? = some (0, 0) ∧
     decodePage exFull 0 0 true 0 (Cells.get (fun _ => unmapped) (volOf exFull 0 0).mapLoc 0) false false = (some ([], false), exFull) ∧
     (mapCache exFull 0).length < cacheGib exFull 0 * 65536) ∧
    ((((volOf exFull 0 0).sbs.filter (fun e => e.2.phase = .filled)).map Prod.fst)[0]? = some 1 ∧ unreadable exFull 0 0 1 = []) ∧
    (let s := exFull.setFld Fld.FL_GC_LOW 0 16
     volState s 0 0 = 3 ∧ (volOf s 0 0).gc = false ∧ freeCount s 0 0 < (gcLimits s 0).1 ∧ nextVictim s 0 0 = some 0) ∧
    ((volOf exFull 0 0).victim = some 0 ∧ (validIn exFull 0 0 0).head? = some (false, 7, 0) ∧
     decodePage exFull 0 0 false 7 0 false false = (some ([], false), exFull) ∧
     (∃ pgn t n, writePageCounted exFull 0 0 false { vol := 0, lgn := 7, isMap := false, data := [] } 0 [] = (.ok pgn t, n))) ∧
    isCoreMaster 0x10 = true ∧
    (Fld.FL_KEY_CMD_LOAD.presented (.full 0x100) = 1 ∧ Fld.FL_KEY_CMD_CLEAR.presented (.full 0x100) = 0 ∧
     (let s := exFlash.wr .FL_KEY_DATA 0 5
      volState s 0 0 ≠ 2 ∧ CsrWf s ∧ (keyData s 0).take 32 ≠ (keyData s 0).drop 32)) ∧
    (Fld.FL_KEY_CMD_LOAD.presented (.full 0x200) = 0 ∧ Fld.FL_KEY_CMD_CLEAR.presented (.full 0x200) = 1) ∧
    volState exDram 0 0 ≤ 1 ∧
    (let s1 := exDram.plainWrite .FL_VOL_CFG (volKey 0 0) false (.full 0x100)
     groupCount (setVol s1 0 0 { volOf s1 0 0 with sbs := initialSbs s1 0 0 }) 0 0 ≠ 0 ∧ flashFailed s1 0 = false) := by
  unfold CsrWf
  have h : ∃ pgn t n, writePageCounted exFull 0 0 false { vol := 0, lgn := 7, isMap := false, data := [] } 0 [] = (.ok pgn t, n) :=
    ⟨_, _, _, rfl⟩
  and_intros <;> first | exact h | decide +kernel

/-! ## Poisoned lines, what waits, what does not run -/

/-- More symbols of a line are wrong than its code corrects, whatever its rank. -/
def exPoisonLine (s : State) (line : Nat) : State := { s with lineErr := [(line, (List.range 40).map (fun i => (i, 1)))] }

theorem poisoned_line (s : State) (line : Nat) (h : ∀ ch, ch < 24 → ∀ r : Fin 4, markOf s ch r.val = none)
    (hc : (dramMap s (line * 64)).1 < 24) : decodeLine (exPoisonLine s line) line = .uncorrectable := by
  have he : errsOf (exPoisonLine s line) line = (List.range 40).map (fun i => (i, 1)) := by simp [errsOf, exPoisonLine, Cells.get]
  have hm : ∀ r, markOf (exPoisonLine s line) (dramMap s (line * 64)).1 r = markOf s (dramMap s (line * 64)).1 r := fun _ => rfl
  have hd : dramMap (exPoisonLine s line) (line * 64) = dramMap s (line * 64) := rfl
  rw [decodeLine, hd]
  dsimp only
  rw [he, hm, h _ hc]
  decide

/-- A read of such a line is bad. -/
theorem poisoned_read (s : State) (m src a n line : Nat) (hq : s.homeQ = []) (hr : regionOf s a = .dram)
    (he : errLines s a n = [line]) (hd : decodeLine s line = .uncorrectable) : (memRead s m src a n).bad = true := by
  simp [memRead, hr, leaveHome, hq, dramRead, he, noteLineRead, hd]

/-- ALLOC of one buffer of a pool whose ring is poisoned, and FREE of buffer 0 with a poisoned bitmap. -/
theorem witness_PoolsGiveAndTakeBuffers_poison :
    (let s := exPoisonLine (exUnit exPool (.pool 0) exAlloc) (poolMeta exPool 0 / 64)
     (jobsOf s (.pool 0)).head? = some exAlloc ∧ exAlloc.phase = .waiting ∧ poolChecks s 0 exAlloc = (0, 0) ∧
     prepare s (unitMaster (.pool 0)) ((recordSpans s exAlloc.counter).1 ++ (poolSpans s 0 exAlloc).1)
       ((recordSpans s exAlloc.counter).2 ++ (poolSpans s 0 exAlloc).2) = .go ∧ injFire s 11 (unitMaster (.pool 0)) = none ∧
     exAlloc.op = 1 ∧ (ringReads s 0 1).1 = true) ∧
    (let s := exPoisonLine (exUnit (poolTake exPool 0 1).2 (.pool 0) exFree) (poolBitmap exPool 0 / 64)
     (jobsOf s (.pool 0)).head? = some exFree ∧ exFree.phase = .waiting ∧ poolChecks s 0 exFree = (0, 0) ∧
     prepare s (unitMaster (.pool 0)) ((recordSpans s exFree.counter).1 ++ (poolSpans s 0 exFree).1)
       ((recordSpans s exFree.counter).2 ++ (poolSpans s 0 exFree).2) = .go ∧ injFire s 11 (unitMaster (.pool 0)) = none ∧
     exFree.op = 2 ∧ leAt exFree.desc 9 1 = 1 ∧ (bitmapReads s 0 [leAt (sliceB exFree.desc 0x18 8) 0 8]).1 = true) ∧
    prepare exPoolOff (poolMaster 0) [] [(poolMeta exPoolOff 0, 4 * poolCount exPoolOff 0),
      (poolBitmap exPoolOff 0, roundUp (ceilDiv (poolCount exPoolOff 0) 8) 64)] = .go ∧
    pdiesDown exPoolOff = false := by
  refine ⟨⟨by decide +kernel, by decide, by decide +kernel, by decide +kernel, by decide +kernel, by decide +kernel, ?_⟩,
    ⟨by decide +kernel, by decide, by decide +kernel, by decide +kernel, by decide +kernel, by decide +kernel, by decide +kernel, ?_⟩,
    by decide +kernel, by decide +kernel⟩
  · have h := poisoned_read (exPoisonLine (exUnit exPool (.pool 0) exAlloc) (poolMeta exPool 0 / 64)) (poolMaster 0) 3 0x300000 4
      (0x300000 / 64) rfl (by decide +kernel) (by decide +kernel) (poisoned_line _ _ (by decide +kernel) (by decide +kernel))
    have e : (takeSpans (exPoisonLine (exUnit exPool (.pool 0) exAlloc) (poolMeta exPool 0 / 64)) 0 1).1 = [(0x300000, 4)] := by
      decide +kernel
    simp only [ringReads, e, readSpans, List.foldl_cons, List.foldl_nil, Bool.false_or, h]
  · have h := poisoned_read (exPoisonLine (exUnit (poolTake exPool 0 1).2 (.pool 0) exFree) (poolBitmap exPool 0 / 64)) (poolMaster 0) 3
      (poolBitmap exPool 0) 1 (poolBitmap exPool 0 / 64) (by decide +kernel) (by decide +kernel) (by decide +kernel)
      (poisoned_line _ _ (by decide +kernel) (by decide +kernel))
    have e : ([leAt (sliceB exFree.desc 0x18 8) 0 8].filterMap (bufferOf (exPoisonLine (exUnit (poolTake exPool 0 1).2 (.pool 0) exFree)
        (poolBitmap exPool 0 / 64)) 0)).map (fun j => (poolBitmap (exPoisonLine (exUnit (poolTake exPool 0 1).2 (.pool 0) exFree)
        (poolBitmap exPool 0 / 64)) 0 + j / 8, 1)) = [(poolBitmap exPool 0, 1)] := by decide +kernel
    simp only [bitmapReads, e, readSpans, List.foldl_cons, List.foldl_nil, Bool.false_or, h]

/-- Every kind of line that a DRAM command meets. -/
theorem witness_DramCommandsAct_kinds :
    (pdiesDown exDram = false ∧ pdiesDown (exDram.setFld Fld.PWR_STATUS_STATE 0 2) = true ∧ awake exDram = true ∧
     regionOf exDram (2 ^ 42) = .above ∧ 2 ^ 42 % 64 = 0 ∧ prepare exDram 0 [] [(2 ^ 42, 1)] = .go ∧
     (let s := exDram.wr .FLOOR 11 1
      regionOf s 0 = .dram ∧ anyChanFailed s = true ∧ lineOnFailed s 0 = true ∧ prepare s 0 [] [(0, 1)] = .go)) ∧
    (prepare exErr 0 [] [(3, 1)] = .go ∧ errLines exErr 3 1 = [0] ∧ errLines exErr 0 64 = [0] ∧ dramSpecial exErr = false ∧
     decodeLine exErr 0 = .corrected [0]) ∧
    (let s := exPoisonLine exDram 0
     prepare s 0 [] [(3, 1)] = .go ∧ prepare s 0 [(0, 64)] [] = .go ∧ errLines s 3 1 = [0] ∧ errLines s 0 64 = [0] ∧
     regionOf s 0 = .dram ∧ dramSpecial s = false ∧ anyChanFailed s = false ∧ CsrWf s ∧ decodeLine s 0 = .uncorrectable) := by
  unfold CsrWf
  refine ⟨by decide +kernel, ⟨by decide +kernel, by decide +kernel, by decide +kernel, by decide +kernel, exErr_corrected⟩,
    by decide +kernel, by decide +kernel, by decide +kernel, by decide +kernel, by decide +kernel, by decide +kernel, by decide +kernel,
    by decide +kernel, poisoned_line exDram 0 (by decide +kernel) (by decide +kernel)⟩

/-- X-die 0 may take a submission whose descriptor the host holds; below M3 it runs. -/
theorem witness_FlashTasksRun_waits :
    xdiesUp exFlash = true ∧ exFlash.heldPuts = [] ∧ xdiesUp (exFlash.setFld Fld.PWR_STATUS_STATE 0 3) = false ∧
    Fld.FL_ABORT_JOB.reached (.full 0) = true ∧
    (∃ s1, prepare { exFlash with snoop := [⟨0x3000 / 64, true, 0⟩] } (flashMaster 0) [(0x3000, 64)] [] = .stall s1) ∧
    flashSpan { exFlash with snoop := [⟨0x3000 / 64, true, 0⟩] } 0x3000 64 = 0 := by
  refine ⟨by decide +kernel, by decide +kernel, by decide +kernel, by decide +kernel, ?_, by decide +kernel⟩
  cases h : prepare { exFlash with snoop := [⟨0x3000 / 64, true, 0⟩] } (flashMaster 0) [(0x3000, 64)] [] with
  | stall s1 => exact ⟨s1, rfl⟩
  | go => exact absurd h (by decide +kernel)
/-! ## Hypotheses met: network -/

/-- Does a served packet's state have a property? -/
def exHolds (r : Except State State) (p : State → Bool) : Bool := match r with | .ok u => p u | .error _ => false

/-- A frame of 100 bytes on field port 0. -/
def exFrame : Frame :=
  { x := 0, sched := 0, iface := 0, queue := 5, len := 100, v6 := false, mac := [], dst := [], sport := 0, dscp := 0,
    pkt := .rope ⟨0x21, false, false, 0, 0, 0, 0, 0, 0, 0, 0, 0⟩ [] }

/-- Interface 0 of field port 0 is enabled and up, with replay, and keeps frames 6 to 8. -/
def exLink : State :=
  { ((exDram.wr .PORT_CFG 0 0x104).setFld Fld.PORT_STATUS_LINK 0 1) with portIf := [(0, { txSeq := 9, retry := [(6, exFrame), (7, exFrame), (8, exFrame)] })] }

theorem witness_PortsAndLinks :
    CsrWf exLink ∧ exLink.fld Fld.PORT_CFG_ENABLE (portCopy 0 0) ≠ 0 ∧ exDram.fld Fld.PORT_CFG_ENABLE (portCopy 0 0) = 0 ∧
    (let s := exDram.wr .PORT_CFG 0 0x104
     ifUp s 0 0 0 = false ∧ ifEnabled s 0 0 0 = true ∧ ifLaneFailed s 0 0 0 = false) ∧ ifUp exLink 0 0 0 = true ∧
    replays exLink 0 0 = true ∧
    (portIfAt exLink (ifKey 0 0 0)).retry = [(6, exFrame)] ++ ((7 : BitVec 16).toNat, exFrame) :: [(8, exFrame)] ∧
    ¬(6 + 65536 - 7) % 65536 < 32768 ∧ (8 + 65536 - 7) % 65536 < 32768 ∧
    exLink.flag Fld.PORT_STATUS_PRESENT (portCopy 0 0) = false ∧
    (exLink.setFld Fld.PORT_STATUS_PRESENT 0 1).flag Fld.PORT_STATUS_PRESENT (portCopy 0 0) = true := by
  unfold CsrWf; and_intros <;> decide +kernel

/-- Of three Applications the second is the first of the port's mode; of one that does not match, none is taken. -/
theorem witness_PortsAndLinks_cmis :
    (let m : BitVec 8 := BitVec.ofNat 8 (exLink.fld Fld.PORT_CFG_MODE (portCopy 0 0))
     (([m + 1, m, m].map BitVec.toNat)[1]? = some (exLink.fld Fld.PORT_CFG_MODE (portCopy 0 0))) ∧
     (([m + 1, m, m].map BitVec.toNat)[0]? ≠ some (exLink.fld Fld.PORT_CFG_MODE (portCopy 0 0))) ∧
     selectApp exLink 0 0 [m + 1, m, m] = 2 ∧ selectApp exLink 0 0 [m + 1] = 0) := by
  decide +kernel

/-- The frame waits in queue `q`. -/
def exQueued (q : Nat) : State := setSchedQ exDram (schedKey 0 0 q) { frames := [exFrame], tag := 1 }

theorem witness_EgressSchedulersSelect :
    (let g := { exFrame with x := 1, source := 1 }
     let s := { exDram with egressWait := [g, exFrame] }
     s.egressWait = [g] ++ exFrame :: [] ∧ g.x ≠ 0 ∧ exFrame.x = 0 ∧ (schedQAt s (schedKey 0 0 5)).frames.length < 256 ∧
     waitsBehind exFrame g = false ∧ waitsBehind exFrame exFrame = true) ∧
    fairPick (exQueued 5) 0 0 1 = some 5 ∧ (∀ q, 60 ≤ q → q < 64 → eligible (exQueued 5) 0 0 q 1 = false) ∧
    fairPick exDram 0 0 1 = none ∧ eligible (exQueued 60) 0 0 60 1 = true ∧
    (roundPick 1 0 0 6 (exQueued 60)).isSome = true ∧ isCoreMaster 0x10 = true ∧ isCoreMaster 0 = false := by
  have h : ∀ q, q < 64 → 60 ≤ q → eligible (exQueued 5) 0 0 q 1 = false := by decide +kernel
  refine ⟨by decide +kernel, by decide +kernel, fun q a b => h q b a, ?_⟩
  decide +kernel

/-- A write in a cycle that chooses a frame of its queue, of another queue, and of none; a changed and an unchanged rate. -/
theorem witness_EgressSchedulersSelect_shaper :
    (let t := schedTime (exQueued 5) 0 0 0
     (chosenFrame t 0 0 (some 1)).1 = some (5, frameL t exFrame) ∧ (chosenFrame t 0 0 (some 0)).1 = none ∧
     (let u := t.wr .SCHED_Q_CFG 5 (Reg.SCHED_Q_CFG.applyWrite false (t.rd .SCHED_Q_CFG 5) (.full 0x7FFFFFFFFFFFFFFF))
      t.fld Fld.SCHED_Q_CFG_RATE 5 ≠ u.fld Fld.SCHED_Q_CFG_RATE 5 ∧ schedKey 0 0 5 = 5) ∧
     (let u := t.wr .SCHED_PORT_SHAPE 0 (Reg.SCHED_PORT_SHAPE.applyWrite false (t.rd .SCHED_PORT_SHAPE 0) (.full 0x7FFFFFFFFFFFFFFF))
      t.rd .SCHED_PORT_SHAPE 0 ≠ u.rd .SCHED_PORT_SHAPE 0) ∧
     (let u := t.wr .POL_CFG 0 (Reg.POL_CFG.applyWrite false (t.rd .POL_CFG 0) (.full 0x7FFFFFFFFFFFFFFF))
      polCopy 0 0 0 = 0 ∧ t.rd .POL_CFG 0 ≠ u.rd .POL_CFG 0)) := by
  decide +kernel

/-- READY, send queue 0 in service, module 0 VALID in the address table. -/
def exFur : State :=
  rawWrite ((exDram.setFld Fld.BRINGUP_STEP_READY 0 1).setFld Fld.FUR_SQ_CFG_ENABLE 0 1) 1024 [1]

/-- A descriptor of send queue 0: 64 bytes from 0x10000 (ATOMIC_ADD 8, WAIT none). -/
def exFurJob (op : Nat) : Job :=
  exJob (exBytes 64 [(0, 1, op), (0x0C, 4, if op = 4 then 8 else if op = 5 then 0 else 64), (0x10, 8, 0x10000)])

/-- An open message of one packet: it waits for its ACK, or for RNR_DELAY. -/
def exMsg (waiting : Bool) : FurMsg :=
  { id := 0, type := 1, dst := 0, dstEngine := false, seq := 1, total := 64, payload := List.replicate 64 0, pkts := [{ k := 0, waiting := waiting }] }

theorem witness_FurrowSendersRun :
    (∀ op ∈ [1, 2, 3, 4, 5],
      let j := exFurJob op
      let s := exUnit exFur (.furrow 0) j
      (sqJobs s 0 0).find? (fun j => j.phase = .waiting) = some j ∧ furMay s 0 0 j = true ∧
      prepare s 0x390 (peerSpans s 0 j ++ (if j.op ≤ 2 then [furLocal j] else [])) [] = .go ∧
      furCheck s 0 j = (0, 0) ∧ (touchDest (furAt s 0) (furDst j) (s.fld Fld.FUR_RATE_START 0)).isSome = true ∧
      injFire s 11 0x390 = none ∧
      memRead s 0x390 3 (furLocal j).1 (furLocal j).2 = ⟨List.replicate (furLocal j).2 0, false, s⟩) ∧
    (let j := { exFurJob 1 with desc := putAt (exFurJob 1).desc 0x0C (leBytes 4 0) }
     let s := exUnit exFur (.furrow 0) j
     furCheck s 0 j = (1, 0x81) ∧ furMay s 0 0 j = true ∧ (sqJobs s 0 0).find? (fun j => j.phase = .waiting) = some j ∧
     prepare s 0x390 (peerSpans s 0 j ++ [furLocal j]) [] = .go) ∧
    (let j := { exFurJob 5 with phase := JobPhase.running }
     (sqJobs (exUnit exFur (.furrow 0) j) 0 0).find? (fun j => j.phase = .running ∧ j.op = 5) = some j) ∧
    (inDram exFur 0x4000 64 = true ∧ prepare exFur 0x390 [(0x4000, 64)] [] = .go ∧
     memRead exFur 0x390 3 0x4000 64 = ⟨List.replicate 64 0, false, exFur⟩) ∧
    exFur.written Fld.FUR_SQ_CFG_EGRESS 0 (.full 59) < 60 ∧
    (let s := setFur exFur 0 { msgs := [exMsg false], syncDue := [(3, true)] }
     msgAt s 0 0 = some (exMsg false) ∧
     (exMsg false).pkts.find? (fun t => t.k = 0 && !t.acked && !t.waiting && !(exMsg false).unsent) = some { k := 0 } ∧ (3, true) ∈ (furAt s 0).syncDue) ∧
    (msgAt (setFur exFur 0 { msgs := [exMsg true] }) 0 0 = some (exMsg true) ∧
     (exMsg true).pkts.find? (fun t => t.k = 0 && !t.acked && t.waiting) = some { k := 0, waiting := true }) ∧
    (qpAt (setQp exFur 0 0 { st := 1 }) 0 0).st = 1 := by
  and_intros <;> decide +kernel

/-- A packet's header for this module's engine of X-die 0: one packet of `n` bytes under key 0 of generation 1. -/
def exHdr (type total n : Nat) : FurHdr :=
  { type := BitVec.ofNat 8 type, srcEngine := false, dstEngine := false, retransmit := false, status := 0, src := 3, dst := 0, msg := 0,
    low := 0, total := BitVec.ofNat 32 total, offset := 0, len := BitVec.ofNat 16 n, job := 0, rq := 0, key := 4096, remote := 0 }
/-- A good frame on the fabric path, from module 3. -/
def exInfo : RxInfo :=
  { port := 8, iface := 0, len := 64, dscp := 0, ce := false, malformed := false, tagged := false, corrected := 0, uncorr := 0,
    badFcs := false, seq := 0, acked := 0, cycles := 0, ip := true, version := 1, dstIp := [], srcIp := [], sport := 0 }
/-- Key 0 allows everything at 0x10000 for 4,096 bytes; receive queue 0 has 64 slots of 128 bytes at 0x20000. -/
def exRx : State :=
  { exFur.wr .FUR_RQ_BASE 0 (6 + 7 * 16 + 0x100 + 0x20000 + 0x7FFF * 2 ^ 48) with
    keys := [(0, { st := 1, gen := 1, rights := 7, base := 0x10000, len := 4096 })] }
/-- A READ of 8 bytes that this engine has open with module 3. -/
def exReading : State :=
  setFur (exUnit exRx (.furrow 0) (exFurJob 3)) 0
    { msgs := [{ id := 0, type := 3, dst := 3, dstEngine := false, seq := 1, total := 8, pkts := [{ k := 0 }] }] }

/-- An entry of message 0 of module 3, and one whose low mark has passed it. -/
def exEntry : RxEntry := { src := 3, eng := false, msg := 0, type := 1, total := 8, bitmap := 1 }
/-- The receiver with its entry table full of other messages. -/
def exRxFull (s : State) : State := setFur s 0 { furAt s 0 with entries := List.replicate 4096 { exEntry with msg := 9 } }

/-- Each arm of the packets with a payload: refused by the frame, a duplicate, the key, the table, and served. -/
theorem witness_FurrowReceiversServe_write :
    (match rxData exRx 0 { exInfo with malformed := true } (exHdr 1 8 8) (List.replicate 8 0) with | .ok _ => false | .error _ => true)
      = true ∧
    exHolds (rxData exRx 0 exInfo (exHdr 1 8 8) (List.replicate 8 0)) (fun u => (rxDuplicate u 0 (exHdr 1 8 8)).isNone
      && keyCheck u (exHdr 1 8 8) == 0 && entryRoom u 0 (exHdr 1 8 8)) = true ∧
    exHolds (rxData (setFur exRx 0 { entries := [exEntry] }) 0 exInfo (exHdr 1 8 8) (List.replicate 8 0))
      (fun u => (rxDuplicate u 0 (exHdr 1 8 8)).isSome) = true ∧
    exHolds (rxData exFur 0 exInfo (exHdr 1 8 8) (List.replicate 8 0)) (fun u => (rxDuplicate u 0 (exHdr 1 8 8)).isNone
      && keyCheck u (exHdr 1 8 8) != 0) = true := by
  and_intros <;> decide +kernel

theorem witness_FurrowReceiversServe_fullTable :
    exHolds (rxData (exRxFull exRx) 0 exInfo (exHdr 1 8 8) (List.replicate 8 0)) (fun u => (rxDuplicate u 0 (exHdr 1 8 8)).isNone
      && keyCheck u (exHdr 1 8 8) == 0 && !entryRoom u 0 (exHdr 1 8 8)) = true := by
  decide +kernel

theorem witness_FurrowReceiversServe_readResp :
    exHolds (rxData exReading 0 exInfo (exHdr 4 8 8) (List.replicate 8 0)) (fun u => (rxDuplicate u 0 (exHdr 4 8 8)).isNone
      && (readOf u 0 (exHdr 4 8 8)).elim false (fun m => m.seq == 1) && entryRoom u 0 (exHdr 4 8 8)
      && ((jobsOf u (.furrow 0)).find? (fun j => j.seq = 1)).isSome) = true ∧
    exHolds (rxData exRx 0 exInfo (exHdr 4 8 8) (List.replicate 8 0)) (fun u => (rxDuplicate u 0 (exHdr 4 8 8)).isNone
      && (readOf u 0 (exHdr 4 8 8)).isNone) = true := by
  and_intros <;> decide +kernel

/-- A receive queue takes a SEND; one of no slot for it, one that is full and one that is out of service do not. -/
theorem witness_FurrowReceiversServe_send :
    prepare exRx 0x390 [] [(rqSlot exRx 0 0, 40)] = .go ∧
    exHolds (rxData exRx 0 exInfo (exHdr 2 8 8) (List.replicate 8 0)) (fun u => (rxDuplicate u 0 (exHdr 2 8 8)).isNone
      && entryRoom u 0 (exHdr 2 8 8) && rqCfg u 0 0 == (true, 64, 128, 0x20000)
      && u.fld Fld.FUR_RQ_PTR_PROD 0 == u.fld Fld.FUR_RQ_PTR_CONS 0) = true ∧
    exHolds (rxData (exRx.setFld Fld.FUR_RQ_PTR_PROD 0 64) 0 exInfo (exHdr 2 8 8) (List.replicate 8 0)) (fun u =>
      (rxDuplicate u 0 (exHdr 2 8 8)).isNone && entryRoom u 0 (exHdr 2 8 8) && (rqCfg u 0 0).1
      && (u.fld Fld.FUR_RQ_PTR_PROD 0 + 2 ^ 32 - u.fld Fld.FUR_RQ_PTR_CONS 0) % 2 ^ 32 == (rqCfg u 0 0).2.1) = true ∧
    exHolds (rxData exFur 0 exInfo (exHdr 2 8 8) (List.replicate 8 0)) (fun u => (rxDuplicate u 0 (exHdr 2 8 8)).isNone
      && entryRoom u 0 (exHdr 2 8 8) && !(rqCfg u 0 0).1) = true := by
  and_intros <;> decide +kernel

/-- A READ_REQ and an ATOMIC_ADD of key 0 reach their span; a READ_RESP message finds a destination entry. -/
theorem witness_FurrowReceiversServe_readAndAdd :
    (keyCheck exRx (exHdr 3 8 0) = 0 ∧ prepare exRx 0x390 [(keyTarget exRx (exHdr 3 8 0), 8)] [] = .go ∧
     exHolds (rxData exRx 0 exInfo (exHdr 3 8 0) []) (fun u => (rxDuplicate u 0 (exHdr 3 8 0)).isNone && keyCheck u (exHdr 3 8 0) == 0
       && entryRoom u 0 (exHdr 3 8 0)
       && decide (memRead u 0x390 3 (keyTarget u (exHdr 3 8 0)) 8 = ⟨List.replicate 8 0, false, u⟩)) = true) ∧
    (keyCheck exRx (exHdr 5 8 8) = 0 ∧ prepare exRx 0x390 [(keyTarget exRx (exHdr 5 8 8), 8)] [(keyTarget exRx (exHdr 5 8 8), 8)] = .go ∧
     exHolds (rxData exRx 0 exInfo (exHdr 5 8 8) (List.replicate 8 0)) (fun u => (rxDuplicate u 0 (exHdr 5 8 8)).isNone
       && keyCheck u (exHdr 5 8 8) == 0 && entryRoom u 0 (exHdr 5 8 8)
       && decide (memRead u 0x390 3 (keyTarget u (exHdr 5 8 8)) 8 = ⟨List.replicate 8 0, false, u⟩)) = true) ∧
    (touchDest (furAt exRx 0) 3 0).isSome = true := by
  and_intros <;> decide +kernel

theorem witness_FurrowReceiversServe_answers :
    exHolds (rxAccept exRx 0 exInfo (exHdr 0x10 0 0) []) (fun _ => true) = true ∧
    exHolds (rxAccept exRx 0 exInfo (exHdr 0x11 0 0) []) (fun _ => true) = true ∧
    exHolds (rxAccept exRx 0 exInfo (exHdr 0x12 0 0) []) (fun _ => true) = true ∧
    exHolds (rxAccept exRx 0 { exInfo with version := 2 } (exHdr 0x10 0 0) []) (fun _ => true) = false := by
  and_intros <;> decide +kernel

/-- A write that is to be performed, and an entry that a low mark has passed and no write of which is open. -/
theorem witness_FurrowReceiversServe_upkeep :
    (let w : RxWrite := ⟨exHdr 1 8 8, 8, 0x10000, List.replicate 8 0⟩
     let s := setFur exRx 0 { writes := [w], entries := [{ exEntry with msg := 1, passed := true }] }
     (furAt s 0).writes[0]? = some w ∧ prepare s 0x390 [] [(w.addr, w.data.length)] = .go ∧
     (furAt s 0).entries[0]? = some { exEntry with msg := 1, passed := true } ∧
     (∀ w ∈ (furAt s 0).writes, entryOf w.hdr { exEntry with msg := 1, passed := true } = false) ∧
     s.fld Fld.FUR_CFG_HOLD 0 * 1024 ≤ 2 ^ 40) := by
  decide +kernel

theorem witness_FurrowKeysAreRegisteredAndRevoked :
    (let a := CsrAcc.full 0x71000
     let u := (((exDram.wr .FUR_KEY_BASE 0 0x10000).wr .FUR_KEY_LEN 0 64).wr .FUR_KEY_CMD 0 (Reg.FUR_KEY_CMD.applyWrite false 0 a))
     Fld.FUR_KEY_CMD_OP.presented a = 1 ∧ (keyAt u 0).st = 0 ∧ u.fld Fld.FUR_KEY_CMD_RIGHTS 0 ≠ 0 ∧
     keySpanOk u (u.fld Fld.FUR_KEY_BASE_BASE 0) (u.fld Fld.FUR_KEY_LEN_LEN 0) = true ∧
     u.fld Fld.FUR_KEY_LEN_LEN 0 ≠ 0 ∧ u.flag Fld.FUR_KEY_CMD_COUNT_EN 0 = false ∧ (keyAt u 0).gen + 1 < 2 ^ 20) ∧
    (Fld.FUR_KEY_CMD_OP.presented (.full 0x2000) = 2 ∧ Cells.wf (fun _ => ({} : FurKey)) exRx.keys = true ∧ (keyAt exRx 0).st = 1 ∧
     (keyAt exRx 0).inFlight = 0 ∧ (keyAt (keyHold exRx 0) 0).inFlight ≠ 0 ∧ (keyAt exRx 1).st ≠ 1 ∧ (keyAt exRx 1).st ≤ 2) := by
  and_intros <;> decide +kernel

/-- Queue pair 0's context (path MTU 4,096, ack timeout 14, retry 7, RNR retry 3) at 0, and interface 0's entry at 0x100000, VALID. -/
def exQp : State :=
  rawWrite (rawWrite (exDram.wr .FUR_ADDR_BASE 0 0x100000) 0x1A [5, 0x1F, 14]) 0x100006 [1]
/-- A queue pair in RTS with one request outstanding. -/
def exRts (retry rnr : Nat) (w : Bool) : State :=
  setQp exDram 0 0
    { st := 1, ctx := exBytes 128 [(0x1B, 1, 0x1F)], psn := 1, reqs := [⟨0, 1, 0, 1, 0, 0, [], none⟩], retry := retry, rnr := rnr, rnrWait := w }

theorem witness_RoceQueuePairsAct :
    (let c := peek exQp 0 128
     let e := peek exQp 0x100000 16
     prepare exQp 0x392 [(qpCtxAddr exQp 0 0, 128)] [] = .go ∧ memRead exQp 0x392 3 (qpCtxAddr exQp 0 0) 128 = ⟨c, false, exQp⟩ ∧
     prepare exQp 0x392 [(ifEntryAddr exQp 0 (qpPort c) (qpIface c), 16), (modEntryAddr exQp 0 (moduleId exQp), 64)] [] = .go ∧
     memRead exQp 0x392 3 (modEntryAddr exQp 0 (moduleId exQp)) 64 = ⟨peek exQp (modEntryAddr exQp 0 (moduleId exQp)) 64, false, exQp⟩ ∧
     memRead exQp 0x392 3 (ifEntryAddr exQp 0 (qpPort c) (qpIface c)) 16 = ⟨e, false, exQp⟩ ∧ (qpAt exQp 0 0).st = 0 ∧
     xUnitFailed exQp 0 2 = false ∧ qpCtxOk c = true ∧ leAt e 6 1 % 2 = 1) ∧ (qpAt exQp 0 0).reqs = [] ∧
    (let q := qpAt (exRts 1 1 true) 0 0
     q.st = 1 ∧ (0 + 2 ^ 24 - q.una) % 2 ^ 24 < (q.psn + 2 ^ 24 - q.una) % 2 ^ 24 ∧ q.retry ≠ 0 ∧ q.reqs ≠ [] ∧ q.rnr ≠ 0 ∧
     bits (leAt q.ctx 0x1B 1) 3 3 ≠ 7 ∧ q.rnrWait = true ∧ CsrWf (exRts 1 1 true)) ∧
    (qpAt (exRts 0 0 false) 0 0).retry = 0 ∧ bits (leAt (exBytes 128 [(0x1B, 1, 0x3F)]) 0x1B 1) 3 3 = 7 := by
  unfold CsrWf; and_intros <;> decide +kernel

/-- Packets for queue pair 0 of X-die 0: one that reaches it, one of another opcode, one that names no queue pair. -/
theorem witness_RoceQueuePairsAct_packets :
    (match rxRoce (exRts 1 1 true) 0 ⟨exInfo, false, 0x11, 0x100⟩ with | .ok (i, u) => i == 0 && (qpAt u 0 0).st == 1 | .error _ => false)
      = true ∧
    (ingress (exRts 1 1 true) 0 exInfo).1 = true ∧ roceKnown ⟨exInfo, false, 0x04, 0x100⟩ = false ∧ qpOfQpn 0 0x900 = none ∧
    qpOfQpn 0 0x8FF = some 2047 ∧ qpOfQpn 1 0x900 = some 0 ∧ qpOfQpn 0 0xFF = none := by
  and_intros <;> decide +kernel

/-! ## Hypotheses met: what does not run, what waits -/

/-- The X-dies are down in M3; a port whose interface is off or not up takes and resends nothing. -/
theorem witness_PortsAndLinks_down :
    xdiesUp exLink = true ∧ xdiesUp (exLink.setFld Fld.PWR_STATUS_STATE 0 3) = false ∧ ifEnabled exLink 0 0 0 = true ∧
    ifEnabled (exLink.wr .PORT_CFG 0 0) 0 0 0 = false ∧ ifUp exDram 0 0 0 = false ∧
    (0 : Nat) ≠ 8 := by
  decide +kernel

/-- A WAIT whose address table is poisoned, a descriptor to a module that the table does not hold, one while not Ready; a
submission that must wait for the host. -/
theorem witness_FurrowSendersRun_refusals :
    (let j := exFurJob 5
     let s := exPoison (exUnit exFur (.furrow 0) j)
     (sqJobs s 0 0).find? (fun j => j.phase = .waiting) = some j ∧ furMay s 0 0 j = true ∧ prepare s 0x390 (peerSpans s 0 j) [] = .go ∧
     (readSpans s 0x390 (peerSpans s 0 j)).1 = true ∧ furCheck s 0 j = (0, 0)) ∧
    (let j := exJob (exBytes 64 [(0, 1, 5), (0x08, 2, 5), (0x10, 8, 0x10000)])
     let s := exUnit exFur (.furrow 0) j
     furCheck s 0 j = (3, 0x83) ∧ furMay s 0 0 j = true ∧ prepare s 0x390 (peerSpans s 0 j) [] = .go ∧
     (readSpans s 0x390 (peerSpans s 0 j)).1 = false) ∧
    (let j := exFurJob 5
     let s := (exUnit exFur (.furrow 0) j).setFld Fld.BRINGUP_STEP_READY 0 0
     furCheck s 0 j = (4, 0x0D)) ∧
    exFur.heldPuts = [] ∧ inDram exFur 0x4000 64 = true ∧
    (match prepare { exFur with snoop := [⟨0x4000 / 64, true, 0⟩] } 0x390 [(0x4000, 64)] [] with | .stall _ => true | .go => false) = true ∧
    60 ≤ exFur.written Fld.FUR_SQ_CFG_EGRESS 0 (.full 0xFFFFFFFFFFFFFFFF) ∧
    Fld.FUR_SQ_CFG_EGRESS.reached (.full 0xFFFFFFFFFFFFFFFF) = true ∧ Fld.FUR_ABORT_JOB.reached (.full 0) = true ∧
    prepare exFur 0x390 [(modEntryAddr exFur 0 3 + 8, 8)] [] = .go := by
  and_intros <;> decide +kernel

/-- A message that may go, and one whose module is not Ready; an answer, which counts to no limit; 4,096 messages in flight. -/
theorem witness_FurrowReceiversServe_room :
    maySend exFur 0 (exMsg false) = true ∧ maySend exDram 0 (exMsg false) = false ∧ (exMsg false).resp = false ∧ inFlight exFur 0 < 4096 ∧
    4096 ≤ inFlight (setFur exFur 0 { msgs := List.replicate 4096 (exMsg false) }) 0 ∧
    (startRoom exFur 0 (exMsg false)).isSome = true ∧ startRoom exDram 0 (exMsg false) = none := by
  and_intros <;> decide +kernel

/-- A module that is not Ready. -/
theorem witness_RoceQueuePairsAct_notReady : moduleReady exDram = false ∧ moduleReady exFur = true := by decide +kernel
/-! ## Hypotheses met: host links, mailboxes, interrupts -/

/-- Host link 0 is up at full width with credits. -/
def exHost : State := setLink (exDram.setFld Fld.HL_STATUS_WIDTH 0 3) 0 freshLink

/-- A flit of zeros but for its header, and its CRC and FEC bytes as one number. -/
def exFlit (h c : Nat) : List Byte := leBytes 4 h ++ List.replicate 240 0 ++ leBytes 12 c
/-- The codeword at the even (0) or odd (1) bytes of a flit. -/
def exWord (f : List Byte) (p : Nat) : List Nat := (List.range 128).map (fun i => (f.getD (2 * i + p) 0).toNat)

theorem flitFec_clean (f : List Byte) (hl : f.length = 256) (h0 : flitSyndromes (exWord f 0) = (0, 0))
    (h1 : flitSyndromes (exWord f 1) = (0, 0)) : flitFec f = (f, 0) := by
  have h : flitFec f = ((List.range 256).map (fun i =>
      BitVec.ofNat 8 ((if i % 2 = 0 then exWord f 0 else exWord f 1).getD (i / 2) 0)), 0) := by
    have c0 : flitCorrect (exWord f 0) = some (exWord f 0, 0) := by simp [flitCorrect, h0]
    have c1 : flitCorrect (exWord f 1) = some (exWord f 1, 0) := by simp [flitCorrect, h1]
    show ((List.range 256).map (fun i => BitVec.ofNat 8 ((if i % 2 = 0 then ((flitCorrect (exWord f 0)).getD (exWord f 0, 0)).1
      else ((flitCorrect (exWord f 1)).getD (exWord f 1, 0)).1).getD (i / 2) 0)),
      ((flitCorrect (exWord f 0)).getD (exWord f 0, 0)).2 + ((flitCorrect (exWord f 1)).getD (exWord f 1, 0)).2) = _
    rw [c0, c1]; rfl
  rw [h]
  refine Prod.ext (List.ext_getElem (by simp [hl]) fun i hi _ => ?_) rfl
  have hi : i < 256 := by simpa using hi
  by_cases he : i % 2 = 0
  · have : 2 * (i / 2) = i := by omega
    simp [exWord, he, List.getD_eq_getElem?_getD, show i / 2 < 128 by omega, this, hl, hi]
  · have : 2 * (i / 2) + 1 = i := by omega
    simp [exWord, he, List.getD_eq_getElem?_getD, show i / 2 < 128 by omega, this, hl, hi]

theorem witness_HostLinkFlitLayer :
    (linkUp exDram 0 = false ∧ ¬(exDram.fld Fld.PWR_STATUS_STATE 0 = 3 ∧ exDram.fld Fld.PWR_STATUS_PHASE 0 ≠ 3) ∧
     linkFailed exDram 0 = false ∧ trainedWidth true true true ≠ 0 ∧ trainedWidth false false false = 0) ∧
    (linkUp exHost 0 = true ∧ linkUp (detect exHost 10) 0 = true ∧ linkFailed (detect exHost 10) 0 = false) ∧
    (let f (n : Nat) : HostFlit := { link := 0, type := 0, seq := n, msg := some { link := 0, opcode := 0x32, tag := 0, addr := 0 } }
     let s := setLink exHost 0 { freshLink with retry := [f 4, f 5, f 6] }
     (linkAt s 0).retry = [f 4] ++ f 5 :: [f 6] ∧ (f 5).seq = (5 : BitVec 10).toNat ∧
     ¬((f 4).seq + 1024 - 5) % 1024 < 512 ∧ ((f 6).seq + 1024 - 5) % 1024 < 512 ∧ linkUp s 0 = true) ∧ CsrWf exHost ∧ linkUp exHost 1 = false ∧
    (let s := { exHost with devReq := [⟨0, 4, 0x03, 0x200000000000, 0x10⟩] }
     (⟨0, 4, 0x03, 0x200000000000, 0x10⟩ : DevReq) ∈ s.devReq ∧ linkUp s 0 = true) := by
  unfold CsrWf; and_intros <;> decide +kernel

/-- Flits of each type whose FEC and CRC hold, and one whose CRC alone fails. -/
theorem exFlit_fec : ∀ e ∈ [(0, 0xc3227afd7ac91ca10439db8e), (0x400, 0x0e9a4cd27df555f250ad3ee2), (0x800, 0x21e76f1774b18e07ad101156), (0, 0)],
    flitFec (exFlit e.1 e.2) = (exFlit e.1 e.2, 0) := by
  have h : ∀ e ∈ [(0, 0xc3227afd7ac91ca10439db8e), (0x400, 0x0e9a4cd27df555f250ad3ee2), (0x800, 0x21e76f1774b18e07ad101156), (0, 0)],
    (exFlit e.1 e.2).length = 256 ∧ flitSyndromes (exWord (exFlit e.1 e.2) 0) = (0, 0) ∧
      flitSyndromes (exWord (exFlit e.1 e.2) 1) = (0, 0) := by decide +kernel
  exact fun e he => flitFec_clean _ (h e he).1 (h e he).2.1 (h e he).2.2

theorem witness_HostLinkFlits :
    (∀ e ∈ [(0, 0xc3227afd7ac91ca10439db8e), (0x400, 0x0e9a4cd27df555f250ad3ee2), (0x800, 0x21e76f1774b18e07ad101156)],
      let f := exFlit e.1 e.2
      f.length = 256 ∧ crc64 (f.take 244) = leAt f 244 8 ∧ bits (leAt f 0 4) 10 2 = e.1 / 1024 ∧
      bits (leAt f 0 4) 0 10 = (linkAt exHost 0).rxExpect) ∧
    (linkAt exHost 0).discarding = false ∧ injFire (exHost.satAdd Fld.HL_CNT_FEC_CORR 0 0) 9 0 = none ∧
    crc64 ((exFlit 0 0).take 244) ≠ leAt (exFlit 0 0) 244 8 := by
  and_intros <;> decide +kernel

/-- The set of line 0 is full. -/
def exFullSet : State := { exHost with snoop := (List.range 16).map (fun k => ⟨16384 * (k + 1), false, k⟩) }
/-- A snoop of line 0, which is tracked, for a request of link 0. -/
def exSnooping : State :=
  { exHost with snoop := [⟨0, true, 0⟩], snps := [{ link := 0, tag := 9, opcode := 0x21, line := 0, waiter := some 0 }] }

theorem witness_HostRequestsAreAnswered :
    (linkUp exHost 0 = true ∧ inDram exHost 0 64 = true ∧ inDram exHost (dramEnd - 64) 64 = false ∧ asleep exHost = false ∧
     asleep (exHost.setFld Fld.PWR_STATUS_STATE 0 2) = true ∧ linkUp (exHost.setFld Fld.PWR_STATUS_STATE 0 2) 0 = true ∧
     inDram (exHost.setFld Fld.PWR_STATUS_STATE 0 2) 0 64 = true ∧ partialReset exHost = false ∧ exHost.snps = [] ∧
     (linkAt exHost 0).rxQueue = [] ∧ snooping exHost 0 = false ∧ snooping exSnooping 0 = true ∧
     (linkAt (enqueueReq exHost { link := 0, opcode := 1, tag := 1, addr := 0 }) 0).rxQueue ≠ [] ∧
     (sameSet exHost 0).length < 16 ∧ dramRead exHost 0 64 = ⟨List.replicate 64 0, false, exHost⟩ ∧ regionOf exHost 0 = .dram) ∧
    (tracked exFullSet 0 = false ∧ 16 ≤ (sameSet exFullSet 0).length ∧ (sameSet exFullSet 0).head?.isSome = true) ∧
    (regionOf exHost stookBase = .stook 0 ∧ regionOf exHost tileBase = .tile 0 ∧
     memRead exHost 1 3 stookBase 64 = ⟨List.replicate 64 0, false, exHost⟩) ∧
    (regionOf exHost csrBase = .csr ∧ oneQword 3 = none ∧ oneQword 2 = some 1 ∧ pdieCsr 0 = false ∧ pdieCsr 0x1000000 = true) ∧
    (exHost.heldPuts = [] ∧ exHost.tagWait = [] ∧ exHost.outbox = [] ∧ (linkAt exHost 1).rxQueue = []) ∧
    ((snoopOf exSnooping 0 9).isSome = true ∧ tracked exSnooping 0 = true ∧ tracked { exSnooping with snoop := [] } 0 = false) ∧
    ({ exHost with devReq := [⟨0, 4, 0x03, 0, 0x10⟩] } : State).devReq.find? (fun r => r.link == 0 && r.tag == 4) =
      some ⟨0, 4, 0x03, 0, 0x10⟩ ∧
    ({ exHost with devReq := [⟨0, 4, 0x05, 0, 0x10⟩] } : State).devReq.find? (fun r => r.link == 0 && r.tag == 4) =
      some ⟨0, 4, 0x05, 0, 0x10⟩ := by
  and_intros <;> decide +kernel

/-- Line 0 is tracked, its snoop has drawn RSP_I_WB, and its writeback waits on link 0 behind an RD_SHARED of the line. -/
def exCrossing (wb : Bool) : State :=
  setLink { exSnooping with snps := [{ link := 0, tag := 9, opcode := 0x21, line := 0, waiter := some 0, wbWait := wb }] } 0
    { freshLink with rxQueue := [{ link := 0, opcode := 1, tag := 1, addr := 0 },
                                 { link := 0, opcode := 4, tag := 2, addr := 0, data := List.replicate 64 7 }] }

theorem witness_HostRequestsAreAnswered_crossing :
    (snoopOf (exCrossing false) 0 9).isSome = true ∧ tracked (exCrossing false) 0 = true ∧
    (let come := (queuedReturn (exCrossing true) 0 0).or (queuedReturn (exCrossing true) 0 1)
     (come.elim false (fun e => e.1.tag == 2 && (match performReq e.2 e.1 with | .done _ => true | .wait _ => false))) = true) ∧
    (queuedReturn exSnooping 0 0).or (queuedReturn exSnooping 0 1) = none := by
  and_intros <;> decide +kernel

/-- The crossing writeback is taken, the snoop ends, and the read then grants the line as written. -/
theorem test_rspIWb_crossing :
    (rspIWb (exCrossing false) 0 9).snps = [] ∧ (linkAt (rspIWb (exCrossing false) 0 9) 0).rxQueue = [] ∧
    (dramRead (rspIWb (exCrossing false) 0 9) 0 64).data = List.replicate 64 7 ∧ tracked (rspIWb (exCrossing false) 0 9) 0 = true := by
  and_intros <;> decide +kernel

/-- A flit that carries a line, as the device sends it. -/
def exLineFlit : HostFlit :=
  { link := 0, type := 0, seq := 5, ack := some 3, req := 2,
    msg := some { link := 0, opcode := 0x31, tag := 7, addr := 64, granted := 2, data := List.replicate 64 9 } }

/-- Its 256 bytes pass the receiver's FEC and CRC checks, and its message is read back. -/
theorem test_flitBytes_line :
    (flitBytes exLineFlit).length = 256 ∧ flitSyndromes (exWord (flitBytes exLineFlit) 0) = (0, 0) ∧
    flitSyndromes (exWord (flitBytes exLineFlit) 1) = (0, 0) ∧
    crc64 ((flitBytes exLineFlit).take 244) = leAt (flitBytes exLineFlit) 244 8 ∧
    (some (parseSlots 0 15 (sliceB (flitBytes exLineFlit) 4 240)).1 = exLineFlit.msg.map (fun m => [m])) ∧
    leAt (flitBytes exLineFlit) 0 4 = 5 + 3 * 4096 + 4194304 + 2 * 8388608 := by
  and_intros <;> decide +kernel

/-- Channel 0 from core 0 to core 1, in service and full. -/
def exMbox : State :=
  ((((({} : State).setFld Fld.MBOX_BIND_SENDER 0 0x10).setFld Fld.MBOX_BIND_RECEIVER 0 0x11).setFld Fld.MBOX_BIND_ENABLE 0 1)).setFld
    Fld.MBOX_CH_STAT_FULL 0 1
/-- Source 1 pends, unmasked, for target 2 (core 0). -/
def exPend : State := ((({} : State).wr .INTC_PEND 0 2).wr .INTC_MASK 0 0).wr .INTC_ROUTE 0 0x20

theorem witness_MailboxesAndInterruptsAct :
    (coreMaster 0x10 = true ∧ coreMaster 0 = false ∧ isSender exMbox 0x10 0 = true ∧ isSender exMbox 0x11 0 = false ∧
     exMbox.flag Fld.MBOX_CH_STAT_FULL 0 = true ∧ (exMbox.setFld Fld.MBOX_CH_STAT_FULL 0 0).flag Fld.MBOX_CH_STAT_FULL 0 = false ∧
     isSender (exMbox.setFld Fld.MBOX_CH_STAT_FULL 0 0) 0x10 0 = true ∧ isReceiver exMbox 0x11 0 = true ∧
     isReceiver exMbox 0x10 0 = false ∧ CsrWf exMbox ∧ CsrWf (exMbox.setFld Fld.MBOX_CH_STAT_FULL 0 0)) ∧
    (isSource 1 = true ∧ isLevel 1 = false ∧ isSource 64 = true ∧ isLevel 64 = true ∧
     (let s := (({} : State).setFld Fld.MBOX_DB_DB 0 1).wr .MBOX_DB_MASK 0 0
      levelRequest s 64 = true ∧ lineOf s 64 = false) ∧
     levelRequest ({} : State) 64 = false ∧ lineOf (setLine ({} : State) 64 true) 64 = true) ∧
    (pendingSources exPend = [1] ∧ routeOf exPend 1 = 2 ∧ maskedOf exPend 1 = false) ∧
    pendingSources ({} : State) = [] ∧
    (Fld.INTC_COMPLETE_ID.presented (.full 64) = 64 ∧ serviceOf (setService ({} : State) 64 3) 64 = 2 + 1) := by
  unfold CsrWf; and_intros <;> decide +kernel

/-! ## Hypotheses met: what is held, what waits at home, what does not run -/

/-- The module is held in reset. -/
def exHeld : State := { exHost with pins := { exHost.pins with inReset := true } }

theorem witness_HostLinkFlitLayer_more :
    awake exHeld = false ∧ awake exHost = true ∧
    (let s := (exDram.setFld Fld.PWR_STATUS_STATE 0 3)
     s.fld Fld.PWR_STATUS_STATE 0 = 3 ∧ s.fld Fld.PWR_STATUS_PHASE 0 ≠ 3) ∧
    NothingHeld exHost ∧
    (exLineFlit.msg.elim false (fun m => m.link == exLineFlit.link && isOpcode m.opcode && m.addr % 64 == 0 && carriesLine m.opcode &&
      m.data.length == 64) = true ∧ exLineFlit.seq < 1024) := by
  refine ⟨by decide +kernel, by decide +kernel, by decide +kernel, ?_, by decide +kernel⟩
  have hf (x : Nat) : furAt exHost x = {} := rfl
  have hj (u : EngUnit) : jobsOf exHost u = [] := rfl
  exact ⟨rfl, rfl, fun x => by rw [hf], fun x => by rw [hj]; simp, fun d => by rw [hj]; simp⟩

theorem witness_HostRequestsAreAnswered_more :
    (let s := { exHost with homeQ := [(0, 0x10)] }
     homeAhead s 0 1 = true ∧ homeAhead exHost 0 1 = false ∧ linkUp s 0 = true ∧ (linkAt s 0).rxQueue = [] ∧ inDram s 0 64 = true ∧
     asleep s = false) ∧
    (∀ p ∈ exSnooping.snps, p.line = 0 → p.wbWait = false) ∧ exHost.homeQ = [] ∧ exHost.tagWait = [] ∧
    (∀ y < 2, (linkAt exHost y).rxQueue = []) := by
  and_intros <;> decide +kernel

theorem witness_MailboxesAndInterruptsAct_more :
    awake exHeld = false ∧ awake exMbox = true ∧ awake exPend = true ∧
    Fld.MBOX_TX_SEND_LEN.reached (.full 8) = true ∧ Fld.MBOX_RX_POP_REPLY.reached (.full 8) = true ∧
    isReceiver (exMbox.setFld Fld.MBOX_CH_STAT_FULL 0 0) 0x11 0 = true ∧ Fld.INTC_COMPLETE_ID.reached (.full 64) = true ∧
    Fld.MBOX_TX_SEND_LEN.reached (.high 8) = false ∧
    routeOf exPend 1 = 2 ∧ targetMaster 2 = 0x10 := by
  and_intros <;> decide +kernel
/-! ## Hypotheses met: rope, bring-up, resets, power -/

/-- A good frame on the rope port, and one on the fabric path. -/
def exRopeInfo (p : Fin 9) : RxInfo := { exInfo with port := p }
/-- A rope header with a hop count or position, a payload length and a nonce. -/
def exRopeHdr (hop pos len : Nat) (nonce : Word) : RopeHdr :=
  ⟨0, false, false, 0, 0, nonce, 0, 0, BitVec.ofNat 16 len, BitVec.ofNat 8 hop, BitVec.ofNat 8 pos, 0⟩
/-- The rope port of X-die 0 is enabled and up. -/
def exUp : State := (({} : State).setFld Fld.PORT_CFG_ENABLE (portCopy 0 7) 1).setFld Fld.PORT_STATUS_LINK (portCopy 0 7) 1
/-- A lead whose formation is under way, and one whose member 5 is SUSPECT for silence. -/
def exLead : State := { exUp.setFld Fld.ROPE_STATUS_LEAD 0 1 with rope := { nonce := 7 } }
def exLead5 : State := (exLead.setFld Fld.ROPE_MEMBER_STATE 5 2).setFld Fld.ROPE_MEMBER_CAUSE 5 1
/-- A second that was seen at position 4. -/
def exSecond : State := { exUp with rope := { nonce := 7, seen := 4, await := true } }
/-- A formed rope of 8 whose module 35, at position 3, is ACTIVE; the rope port of X-die 1 is up. -/
def exMember : State := (((({} : State).setFld Fld.ROPE_MEMBER_STATE 3 1).setFld Fld.ROPE_MEMBER_MODULE_ID 3 35).setFld
  Fld.PORT_STATUS_LINK (portCopy 1 7) 1).setFld Fld.ROPE_STATUS_FORMED 0 1
/-- A Furrow header to a module. -/
def exFurTo (src dst : BitVec 16) : FurHdr :=
  ⟨1, false, false, false, 0, src, dst, 0, 0, 0, 0, 0, 0, 0, 0, 0⟩

theorem witness_RopeForms :
    (exHolds (rxRope exLead 0 0x20 (exRopeInfo 7) (exRopeHdr 8 0 32 0) (leBytes 1 1 ++ leBytes 31 0)) (fun u => isLead u
        && (leAt (leBytes 1 1 ++ leBytes 31 0) 0 1).testBit 0 && decide (leBytes 16 0 = u.fuses.serial) && forming u
        && !u.rope.west && u.rope.size == 0) = true ∧
     exHolds (rxRope exLead 0 0x20 (exRopeInfo 7) (exRopeHdr 8 0 32 0) (leBytes 1 1 ++ leBytes 15 0 ++ leBytes 16 9)) (fun u =>
        decide (leBytes 16 9 ≠ u.fuses.serial) && u.fld Fld.ROPE_STATUS_FAULT 0 == 0) = true ∧
     exHolds (rxRope exUp 0 0x20 (exRopeInfo 7) (exRopeHdr 31 0 32 0) (leBytes 32 1)) (fun u => !isLead u && u.rope.seen == 0) = true) ∧
    (exHolds (rxRope exLead 0 0x21 (exRopeInfo 7) (exRopeHdr 1 0 48 7) (leBytes 48 0)) (fun u => isLead u) = true ∧
     exHolds (rxRope exSecond 0 0x21 (exRopeInfo 7) (exRopeHdr 1 0 48 7) (leBytes 48 0)) (fun u => !isLead u && u.rope.seen == 4
        && !u.flag Fld.ROPE_STATUS_ID_VALID 0 && Cells.wf csrDefault u.csr) = true) ∧
    exHolds (rxRope exLead5 0 0x22 (exRopeInfo 8) (exRopeHdr 1 5 32 7) (leBytes 32 0)) (fun u => isLead u && livePos u 5) = true ∧
    exHolds (rxRope exSecond 0 0x26 (exRopeInfo 7) (exRopeHdr 1 0 168 7) (leBytes 168 0)) (fun u => !isLead u
        && Cells.wf csrDefault u.csr) = true ∧
    (forming exLead = true ∧ exLead.rope.west = false ∧ exLead.rope.size = 0 ∧ 32 ≤ (31#5).toNat + (1#5).toNat ∧
     (30#5).toNat + (1#5).toNat ≤ 31) ∧
    (ingress exMember 0 (exRopeInfo 8) = (true, exMember) ∧ memberLive exMember (exFurTo 3 35).dst.toNat = true ∧
     (exFurTo 3 35).src.toNat ≠ moduleId exMember ∧ ifUp exMember (1 - (0 : XDie).val) 7 0 = true ∧
     memberLive exMember (exFurTo 3 36).dst.toNat = false) := by
  and_intros <;> decide +kernel

/-- A second with module ID 40, and the other arms of the formation messages. -/
def exConflicted : State := (exSecond.setFld Fld.ROPE_STATUS_ID_VALID 0 1).setFld Fld.ROPE_STATUS_MODULE_ID 0 40

theorem witness_RopeForms_arms :
    exHolds (rxRope exLead 0 0x20 (exRopeInfo 7) (exRopeHdr 33 0 32 0) (leBytes 1 1 ++ leBytes 31 0)) (fun u => isLead u
        && decide (leBytes 16 0 = u.fuses.serial) && forming u && decide (32 < 33)) = true ∧
    exHolds (rxRope exUp 0 0x20 (exRopeInfo 7) (exRopeHdr 31 0 32 0) (leBytes 32 1)) (fun u => !isLead u && !u.rope.await) = true ∧
    exHolds (rxRope exConflicted 0 0x21 (exRopeInfo 7) (exRopeHdr 1 0 48 9) (leBytes 48 0)) (fun u => !isLead u && u.rope.seen == 4
        && u.flag Fld.ROPE_STATUS_ID_VALID 0 && moduleId u != 0 * 32 + u.rope.seen && Cells.wf csrDefault u.csr) = true ∧
    exHolds (rxRope exLead5 0 0x22 (exRopeInfo 8) (exRopeHdr 1 5 32 7) (leBytes 32 1)) (fun u => isLead u
        && (leAt (leBytes 32 1) 0 1).testBit 0) = true ∧
    exHolds (rxRope exSecond 0 0x22 (exRopeInfo 8) (exRopeHdr 1 0 32 7) (leBytes 32 4)) (fun u => !isLead u) = true ∧
    exHolds (rxRope { exLead with rope := { exLead.rope with await := false } } 0 0x21 (exRopeInfo 7) (exRopeHdr 1 0 48 8) (leBytes 48 0))
      (fun _ => true) = false ∧
    ifUp ({} : State) 1 7 0 = false := by
  and_intros <;> decide +kernel

/-- The lead of a formed rope with a send queue mapped to egress queue 63, and a second of it; both with timers set. -/
def exTimed (lead : Nat) : State :=
  (((((exLead.setFld Fld.ROPE_STATUS_LEAD 0 lead).setFld Fld.ROPE_TIMER_HB_PERIOD 0 1).setFld Fld.ROPE_STATUS_FORMED 0 1).setFld
    Fld.ROPE_TIMER2_MARGIN_PERIOD 0 1).setFld Fld.FUR_SQ_CFG_EGRESS 0 63).setFld Fld.FUR_SQ_CFG_ENABLE 0 1

/-- A second with DRAM whose staging buffer is key 0, 8 bytes at 0x10000. -/
def exStaged : State :=
  { exDram with rope := { nonce := 7, ownStage := ⟨0, 8⟩ }, keys := [(0, { st := 1, gen := 1, rights := 7, base := 0x10000, len := 8 })] }

theorem witness_RopeMembersAreWatched :
    (∀ l ∈ [0, 1], (exTimed l).fld Fld.ROPE_TIMER_HB_PERIOD 0 ≠ 0 ∧ (exTimed l).flag Fld.ROPE_STATUS_FORMED 0 = true ∧
      isLead (exTimed l) = decide (l = 1) ∧ (exTimed l).flag Fld.ROPE_STATUS_LEAD_LOST 0 = false ∧
      (exTimed l).fld Fld.ROPE_TIMER2_MARGIN_PERIOD 0 ≠ 0 ∧ marginQueue (exTimed l) = some 0) ∧
    exHolds (rxRope exLead5 0 0x27 (exRopeInfo 8) (exRopeHdr 1 5 8 7) (leBytes 8 0)) (fun u => isLead u
        && u.fld Fld.ROPE_MEMBER_STATE 5 == 2 && u.fld Fld.ROPE_MEMBER_CAUSE 5 == 1) = true ∧
    (∀ b ∈ [true, false], ({ exLead with rope := { planned := [⟨b, 5, 1⟩] } } : State).rope.planned.find?
      (fun e => e.pos == (5 : Fin 32).val) = some ⟨b, 5, 1⟩) ∧
    (5 : Fin 32).val ∈ ({ exLead with rope := { expelling := [5] } } : State).rope.expelling ∧
    exHolds (rxRope exSecond 0 0x28 (exRopeInfo 8) (exRopeHdr 1 0 8 7) (leBytes 8 0)) (fun _ => true) = true ∧
    (ropeMaster 1 = true ∧ (({} : State).setFld Fld.ROPE_BYPASS_EXPELLED 0 1).flag Fld.ROPE_BYPASS_EXPELLED 0 = true ∧
     ({} : State).flag Fld.ROPE_BYPASS_EXPELLED 0 = false ∧ field 4 2 1 = 1 ∧ field 0 2 1 = 0 ∧
     (({} : State).setFld Fld.ROPE_BYPASS_STATE 0 2).fld Fld.ROPE_BYPASS_STATE 0 = 2) ∧
    exHolds (rxRope exLead5 0 0x23 (exRopeInfo 8) (exRopeHdr 1 5 16 7) (leBytes 16 0)) (fun u => isLead u) = true ∧
    (exHolds (rxRope exStaged 0 0x24 (exRopeInfo 8) { exRopeHdr 1 0 8 7 with spec := 0x800000000 } (leBytes 8 0)) (fun u => !isLead u
        && (keyAt u (u.rope.ownStage.key % 4096)).base == 0x10000 && u.rope.ownStage.len == 8
        && decide (prepare u 0x10 [(0x10000, 8)] [] = .go)
        && decide (memRead u 0x10 3 0x10000 8 = ⟨List.replicate 8 0, false, u⟩)) = true) ∧
    (∀ st ∈ [0, 0x81], exHolds (rxRope exLead5 0 0x25 (exRopeInfo 8) (exRopeHdr 1 5 8 7) (leBytes 8 st)) (fun u => isLead u
        && leAt (leBytes 8 st) 0 1 == st) = true) := by
  and_intros <;> decide +kernel

/-- A second that receives image 0, of which it knows the number of chunks of each kind, 2. -/
def exFw : State :=
  { exSecond.setFld Fld.ROPE_FW_STATUS_STATE 0 1 with rope := { nonce := 7, fw := { nManifest := 2, nChunks := 2 } } }

theorem witness_RopeFirmwareSpreads :
    (∀ k ∈ [false, true], exHolds (rxRope exFw 0 (if k then 0x2A else 0x29) (exRopeInfo 8) (exRopeHdr 1 0 4 7) (leBytes 4 1)) (fun u =>
      let f : FwDist := { u.rope.fw with nacks := 0 }
      !isLead u && fwState u == 1 && f.image == 0 && f.count k != 0 && decide (0 < f.count k) && decide (f.chunk k 0 = [])
        && !f.signed && decide (fwMissing (setFw u (f.store k 0 (leBytes 4 1))) k 0 = [])
        && !(f.store k 0 (leBytes 4 1)).manifestHeld) = true) ∧
    (exHolds (rxRope { exFw with rope := { exFw.rope with fw := exFw.rope.fw.store false 0 [1] } } 0 0x2B (exRopeInfo 8) (exRopeHdr 1 0 40 7)
        (leBytes 8 0 ++ leBytes 32 1)) (fun u => u.rope.fw.image == 0 && fwState u == 1 && u.rope.fw.ready false 0
        && decide (((List.range 256).filter (fun j => (leAt (leBytes 8 0 ++ leBytes 32 1) 8 32).testBit j)) = [0])) = true) ∧
    (fwState exFw = 1 ∧ exFw.rope.fw.nacks < 17 ∧
     17 ≤ ({ exFw with rope := { exFw.rope with fw := { nacks := 17 } } } : State).rope.fw.nacks) ∧
    (ropeMaster 2 = true ∧ Fld.ROPE_FW_CMD_ACTIVATE.presented (.full 1) = 1 ∧ Fld.ROPE_FW_CMD_DISCARD.presented (.full 1) = 0 ∧
     fwState (exFw.setFld Fld.ROPE_FW_STATUS_STATE 0 2) = 2 ∧ Fld.ROPE_FW_CMD_ACTIVATE.presented (.full 2) = 0 ∧
     Fld.ROPE_FW_CMD_DISCARD.presented (.full 2) = 1) := by
  and_intros <;> decide +kernel

/-- Bring-up with some steps done and one running. -/
def exStep (done running : Nat) : State := (({} : State).setFld Fld.BRINGUP_STEP_DONE 0 done).setFld Fld.BRINGUP_STEP_RUNNING 0 running

theorem witness_BringUpStepsRun :
    (∀ n ∈ [1, 2, 3, 4, 5, 6, 7, 8, 9], StepStarts (exStep (n - 1) 0) 1 n (.full (BitVec.ofNat 64 n))) ∧
    ((stepBegun (exStep 6 0) 7).flag Fld.BRINGUP_CFG_NO_ROPE 0 = false ∧
     (stepBegun ((exStep 6 0).setFld Fld.BRINGUP_CFG_NO_ROPE 0 1) 7).flag Fld.BRINGUP_CFG_NO_ROPE 0 = true) ∧
    (bringupMaster 2 = true ∧ field 1 0 4 ≠ (exStep 4 0).fld Fld.BRINGUP_STEP_DONE 0 + 1 ∧ field 1 0 4 = 1 ∧
     (exStep 4 0).stepDue = false) ∧
    running (exStep 1 2) = 2 ∧
    (running (exStep 2 3) = 3 ∧ laneChecks (exStep 2 3) (portNumber 1 7) (7 : Fin 8) = true ∧
     laneRes (exStep 2 3) (portNumber 1 7) (7 : Fin 8) = 0) ∧
    (running (exStep 6 7) = 7 ∧ (exStep 6 7).flag Fld.BRINGUP_CFG_NO_ROPE 0 = false ∧
     (exStep 6 7).flag Fld.ROPE_STATUS_FORMED 0 = false) ∧
    (∀ c ∈ [0, 0x10], CsrWf { exStep 3 4 with stepStatus := c } ∧ running { exStep 3 4 with stepStatus := c } ≠ 0 ∧
      running { exStep 3 4 with stepStatus := c } ≠ 7 ∧ (exStep 3 4).stepDue = false ∧
      ({ exStep 3 4 with stepStatus := c } : State).stepStatus < 256) ∧
    (∀ w ∈ [0, 47], ((accValue (.full 1)).toNat &&& floorBits w) &&& ((({} : State).rd .FLOOR w).toNat ^^^ (2 ^ 64 - 1)) ≠ 0 ∧
      ((accValue (.full 0)).toNat &&& floorBits w) &&& ((({} : State).rd .FLOOR w).toNat ^^^ (2 ^ 64 - 1)) = 0 ∧ w ≠ 14) := by
  unfold StepStarts CsrWf; and_intros <;> decide +kernel

/-- Bring-up is over, in service, in a power state and phase. -/
def exPwr (st ph : Nat) : State :=
  ((((({} : State).setFld Fld.BRINGUP_STEP_DONE 0 9).setFld Fld.PWR_STATUS_STATE 0 st).setFld Fld.PWR_STATUS_PHASE 0 ph))

theorem witness_ResetsAndPowerStatesAct :
    (bringupMaster 1 = true ∧ field 1 0 1 = 1 ∧ field 2 0 1 = 0 ∧ field 2 1 1 = 1 ∧ 7 ≤ (exPwr 0 0).fld Fld.BRINGUP_STEP_DONE 0 ∧
     (exPwr 0 0).fld Fld.BRINGUP_STEP_RUNNING 0 = 0 ∧ partialReset (exPwr 0 0) = false) ∧
    (∀ n ∈ [1, 2, 3], ((exPwr 0 0).setFld Fld.RESET_CTL_PSTATE 0 n).fld Fld.RESET_CTL_PSTATE 0 = n) ∧
    ((exPwr 0 0).snoop = [] ∧ (exPwr 0 0).snps = []) ∧
    (∀ t ∈ [0, 1, 2, 3, 4], powerMaster 0x10 t = true ∧ Fld.PWR_REQ_TARGET.presented (.full (BitVec.ofNat 64 t)) = t) ∧
    lifecycle (exPwr 0 0) ≠ 4 ∧
    (∀ t ∈ [1, 2, 3, 4], pwrState (exPwr 0 0) < t ∧ entryCheck (exPwr 0 0) t = none ∧ entryCheck (exPwr 0 0 |>.setFld Fld.PWR_STATUS_BUSY 0 1) t = some (1, 0x3FF)) ∧
    (pwrPhase (exPwr 0 1) = 1 ∧ (exPwr 0 1).pwr.aborting = false ∧ pwrPhase (exPwr 1 0) = 0 ∧ isCoreMaster 0x10 = true ∧
     1 ≤ pwrState (exPwr 1 0) ∧ pwrState (exPwr 3 0) ≤ 3) ∧
    (({ exPwr 0 1 with pwr := { target := 2 } } : State).pwr.target < 3) ∧
    (∀ t ∈ [1, 2], pwrPhase { exPwr 0 2 with pwr := { target := t } } = 2 ∧ ({ exPwr 0 2 with pwr := { target := t } } : State).pwr.held = none) ∧
    ({ exPwr 0 1 with pwr := { target := 2, aborting := true } } : State).pwr.aborting = true ∧
    (pwrPhase { exPwr 1 3 with pwr := { exitFrom := 1 } } = 3 ∧ ({ exPwr 1 3 with pwr := { exitFrom := 1 } } : State).pwr.exitFrom = 1) ∧
    (let s := (({} : State).setFld Fld.PORT_CFG_ENABLE 0 1).setFld Fld.PORT_STATUS_LINK 0 1
     (ingress s 0 (exRopeInfo 0)).1 = true ∧ ifEnabled s 0 (exRopeInfo 0).port.val (exRopeInfo 0).iface = true) ∧
    (mayGate (exPwr 1 0) 63 = true ∧ (exPwr 1 0).gated.testBit 63 = false) ∧
    Cells.wf (fun _ => noPage) (exPwr 0 0).flash.pages = true := by
  and_intros <;> decide +kernel


/-! ## Hypotheses met: the other arms of rope, bring-up, resets and power -/

/-- A module that stays outside any rope. -/
def exNoRope (s : State) : State := s.setFld Fld.BRINGUP_CFG_NO_ROPE 0 1

theorem witness_RopeForms_more :
    exHolds (rxRope exLead 0 0x20 (exRopeInfo 7) (exRopeHdr 8 0 32 0) (leBytes 32 0)) (fun u => isLead u
        && !(leAt (leBytes 32 0) 0 1).testBit 0) = true ∧
    exHolds (rxRope (exLead.setFld Fld.ROPE_STATUS_FORMED 0 1) 0 0x20 (exRopeInfo 7) (exRopeHdr 8 0 32 0) (leBytes 1 1 ++ leBytes 31 0))
      (fun u => isLead u && !forming u && decide (leBytes 16 0 = u.fuses.serial)) = true ∧
    exHolds (rxRope (exNoRope exUp) 0 0x20 (exRopeInfo 7) (exRopeHdr 8 0 32 0) (leBytes 32 1)) (fun u => !isLead u
        && u.flag Fld.BRINGUP_CFG_NO_ROPE 0) = true ∧
    exHolds (rxRope exUp 0 0x20 (exRopeInfo 7) (exRopeHdr 31 0 32 0) (leBytes 32 1)) (fun u => !isLead u && !u.flag Fld.BRINGUP_CFG_NO_ROPE 0
        && discoverHop u false 31 == 31 && discoverHop u false 32 == 32 && discoverHop u false 0 == 0) = true ∧
    discoverHop ((exUp.setFld Fld.ROPE_STATUS_ID_VALID 0 1).setFld Fld.ROPE_STATUS_POSITION 0 5) false 3 = 5 ∧
    (CsrWf (exLead.setFld Fld.ROPE_STATUS_ID_VALID 0 1) ∧
     (exLead.setFld Fld.ROPE_STATUS_ID_VALID 0 1).flag Fld.ROPE_STATUS_ID_VALID 0 = true) ∧
    exHolds (rxRope (exNoRope exSecond) 0 0x21 (exRopeInfo 7) (exRopeHdr 1 0 48 7) (leBytes 48 0)) (fun u => !isLead u
        && u.flag Fld.BRINGUP_CFG_NO_ROPE 0 && Cells.wf csrDefault u.csr) = true ∧
    exHolds (rxRope exLead 0 0x26 (exRopeInfo 7) (exRopeHdr 1 0 168 7) (leBytes 168 0)) (fun u => isLead u) = true ∧
    awake exLead = true ∧
    (ingress exMember 0 (exRopeInfo 8)).1 = true := by
  unfold CsrWf; and_intros <;> decide +kernel

theorem witness_RopeMembersAreWatched_more :
    (causesOf { exLead5 with rope := { exLead5.rope with causes := [(5, [1])] } } 5).contains 1 = true ∧
    ({ exLead5 with rope := { exLead5.rope with causes := [(5, [1])] } } : State).fld Fld.ROPE_MEMBER_STATE 5 = 2 ∧
    (causesOf exLead 5).contains 1 = false ∧ livePos exLead5 5 = true ∧
    (isLead (exTimed 1) = true ∧ (exTimed 1).flag Fld.ROPE_STATUS_FORMED 0 = true ∧ (exTimed 1).rope.segDown.testBit 3 ≠ true) ∧
    (5 : Fin 32) ≠ 0 ∧ awake (exTimed 0) = true ∧
    cairnPrep exLead5 (exRopeHdr 1 5 16 7) (leBytes 32 1) 0x20000 = .go ∧
    tablePrep exStaged { exRopeHdr 1 0 8 7 with spec := 0x800000000 } (leBytes 8 0) 0x20000 = .go := by
  and_intros <;> decide +kernel

/-- A P-die of which the second link fails; a word of which nothing is new. -/
theorem witness_BringUpStepsRun_more :
    (let old := ((({} : State).wr .FLOOR 14 0x10000).rd .FLOOR 14).toNat
     let given := (accValue (.full 0x20000)).toNat
     ((given ||| cutOff (old ||| (given &&& floorBits 14))) &&& floorBits 14) &&& (old ^^^ (2 ^ 64 - 1)) = 0x100020000) ∧
    (let old := ((({} : State).wr .FLOOR 14 0x10000).rd .FLOOR 14).toNat
     let given := (accValue (.full 0x10000)).toNat
     ((given ||| cutOff (old ||| (given &&& floorBits 14))) &&& floorBits 14) &&& (old ^^^ (2 ^ 64 - 1)) = 0) ∧
    awake (exStep 4 0) = true ∧
    (running (exStep 6 7) = 7 ∧ (exStep 6 7).stepDue = false ∧ (exStep 6 7).flag Fld.BRINGUP_CFG_NO_ROPE 0 = false ∧
     (exStep 6 7).fld Fld.ROPE_STATUS_FAULT 0 = 0 ∧ ((exStep 6 7).setFld Fld.ROPE_STATUS_FORMED 0 1).flag Fld.ROPE_STATUS_FORMED 0 = true ∧
     ((exStep 6 7).setFld Fld.ROPE_STATUS_FORMED 0 1).fld Fld.ROPE_STATUS_FAULT 0 = 0 ∧
     ((exStep 6 7).setFld Fld.ROPE_STATUS_FAULT 0 2).fld Fld.ROPE_STATUS_FAULT 0 ≠ 0) := by
  and_intros <;> decide +kernel

theorem witness_ResetsAndPowerStatesAct_more :
    awake (exPwr 0 0) = true ∧ awake (exPwr 3 0) = true ∧
    (let s := { (exPwr 0 0).setFld Fld.RESET_CTL_PSTATE 0 1 with snoop := [⟨0, true, 0⟩] }
     s.fld Fld.RESET_CTL_PSTATE 0 = 1 ∧ s.snoop ≠ []) ∧
    (pwrPhase { exPwr 0 1 with pwr := { aborting := true } } = 1 ∧ pwrPhase (exPwr 0 3) = 3) ∧
    (∀ m ∈ [(0x10 : Master), 1], ∀ t ∈ [3, 4],
      let s := { exPwr 0 2 with pwr := { target := t } }
      pwrPhase s = 2 ∧ s.pwr.held = none ∧ wakesFrom s (if isCoreMaster m.toNat then 2 else 1) t = decide (t = 3 ∧ m = 0x10)) ∧
    (∀ t ∈ [1, 2, 3], t ≤ pwrState (exPwr 3 0) ∧ (exPwr 3 0).flag Fld.PWR_STATUS_BUSY 0 = false) ∧
    (∀ t ∈ [0, 1, 2, 3, 4], powerMaster 0x300 t = false) ∧
    (let s := { exPwr 0 1 with pwr := { target := 2 }, snoop := [⟨0, true, 0⟩] }
     pwrPhase s = 1 ∧ s.pwr.aborting = false ∧ s.snoop ≠ []) ∧
    (let s := { exPwr 0 1 with pwr := { target := 3 } }
     pwrPhase s = 1 ∧ 3 ≤ s.pwr.target ∧ s.snoop = [] ∧ s.snps = []) ∧
    (∀ t ∈ [3, 4], pwrPhase { exPwr 0 2 with pwr := { target := t } } = 2 ∧
      (standby { exPwr 0 2 with pwr := { target := t } }).pwr.held = none) ∧
    (∀ f ∈ [1, 2, 3], pwrPhase { exPwr f 3 with pwr := { exitFrom := f } } = 3) := by
  and_intros <;> decide +kernel

/-- What flushing every volume answers, as a number: done, waiting, failed. -/
def progKind (r : Prog) : Nat := match r with | .ok _ _ => 0 | .wait _ => 1 | .fail _ _ => 2

/-- DRAIN before M3, whatever lanes train: nothing to flush, or a task that runs first. -/
theorem witness_ResetsAndPowerStatesAct_flush (a b : Bool) :
    (let u := narrowLinks { exPwr 0 1 with free := 1, pwr := { target := 3 } } [a, b]
     flushWaits u = false ∧ progKind (flashFlushAll u) = 0) ∧
    (let s := ((exPwr 0 1).setFld Fld.FL_VOL_STATE_STATE 0 3)
     flushWaits (narrowLinks { s with free := 1, pwr := { target := 3 }, flash := { s.flash with tasks := [(0, [{ seq := 1, desc := [] }])] } } [a, b]) = true) := by
  cases a <;> cases b <;> decide +kernel
/-! ## Hypotheses met: anchor, debug, pins, errors, jobs -/

theorem leBytes_len (n v : Nat) : (leBytes n v).length = n := by
  induction n generalizing v with
  | zero => rfl
  | succ n ih => simp [leBytes, ih]

/-- Zeros. -/
def exZeros (n : Nat) : List Byte := List.replicate n 0
theorem exZeros_length (n : Nat) : (exZeros n).length = n := List.length_replicate

/-- A signature from its 64-byte parts. -/
def exSig (l : List Nat) : List Byte := l.flatMap (leBytes 64)
/-- The signature of the manifest below under the key whose polynomial is the constant 111, which anybody can sign for. -/
def exManSig : List Byte :=
  exSig [0x90b463d5b14bbf865d98b3c09b2f677b542db0b1c29a91000000000000000000000000000000000000000000000000000000000000000000000000000000003a,
    0x4cb93245da2f69bb2eec58a4c39a0d079f66d9b865ca9835177614bc78e1ccd7365b4704fd3ab5c5c51167761eb91ab14b8a185133dc58f03445c588511b0608,
    0x862df2a3c69b8a21c734c970f569cc352f765488d165c389a7457bac2cf8e0e78e886b8f7e8d10a5448cb45fc3cc885136c480823193bec99a31cad1196d0b5e,
    0x6a240dfa35c7d02a2b2604487a34e5c6911daf1cc979e445d923175e5c6899f16694b5291bae5db871c0830419bb6ca89075e39a2d0d172678b1726094946567,
    0x21123e7cf8e06c98b45f6fb44d92604d84b03b87a6f8bae262ca1937ba1cbdb925ccce8d6d4e1c6cf123edc6286d837cbc517666842e5b2f6ebd51f167c5002d,
    0x174fdf8c0d1ba6ead0ab1f23ac2cda6660c21e0fa356bdf0f6e791221bab8e5dd0b06980a74fdaf4b871b3cd96ab3f0fa66cda766cd5080512a62cf3a4c3d316,
    0x8b005b825668332064d70b494746c891f3c2c98a6f6246fd12f2c7971403520e8910f1e2d3a205d7242c5ba64c98b237ae7448997447cf2715375c6dd33546cd,
    0x66819c2fc22e8cbaf0c8d5b353d7244d3bf369cc8a274ea418f06347d9860fa2243878e24196361576768cf1f4c190156faec65c106661989251ab54ad12f1c4,
    0x21c78d22695334cdf0b1c1c5072342a459d8b5ccd50f69c3fc5c90f56d829455ab665cd3a6edc0a32b0eaee8daa646d92949db9ec932a648d3114f3abed81ab1,
    0x32a6e09505214f2e8c30b0c5c0005d0b36acf171c1d7a4430f7c1dd2e541888a571ba47d99f2ecd4106567aead98b3e6ca2c15a39e6853f66585816567b43d99,
    0xccd8b6c4d70d6b9e368d98f449858d3d5a6c28fa30c7c48e5f6344ad92a46cc29011ce261db864c2920f0d0ab419d236cac6325d5a9e3c5a75ec89a8171e14ed,
    0x3c19b2e262cf0b118a761952714dd4281baf0618d8646cd532298ba46872f56293973d5726687b646c982c6b371e9832a269dba5476b86481874e898123b0aee,
    0xb34ecd79f4cac38f537fce58d836619505210f36595162449ab611826ebdf8a0ec820b4fae7e181964e7c8840f9e0cb8712263970239c3567859234cd7120d67,
    0x35577e68b825c4852e0b165c79f33061cd333786ec9c9264e8898e4d8b0c7d50b3e7ca2623b2aefcfab3488a974f47245db2756ad88d05d7a4d97865438aa335,
    0x315d522cbc79e546c21e03cea6f978f342812623971469b87067c30f235b4c1d9bb1c8c124558a8e09f9e16a88053dde6419f036cd8127478b2e08ba3445c8a0,
    0xc51d17a2944838f6e493131d93d418b2e1ebce35215b660812a46ccd116d925c2999b1c8d4b055733ef8baf56ac985156f0c8dd2b2e6d286214b24e892a36ac9,
    0xc8d02757af4ea9fae6ccca842987ac691a35e9c53143975c1c73656880a10fb34468b172c4d22d45127e2c1b6646ceb323ce564878b442d2130b8b6eedb262ea,
    0x254897924d3f56497aa64b9a932fdfe468f2664cc3a9234f5449d3b6c4c9b04f47841c1876c591216b1f1c2c12a0c2d7985b92749cd1f6e38aaf09a37e987271,
    0x4fd2b4e87af564c6a945233c3939a24086ab69531e197a3543c71b2933841c7be4ecc3215bde5638b1,
    0x0]
/-- The signature of the OBSERVE token below. -/
def exObserveSig : List Byte :=
  exSig [0xb8f4c0cc1c370ed458906645c59e1fd31c89da6045c283000000000000000000000000000000000000000000000000000000000000000000000000000000003a,
    0x4c11216b89ab57cf767879a4e898ac0f9e665892a6c8d12c3b8b36e93a35e88f071f67d688f9f562851b4f975c497be16ad0924f16946db2736699975d8a369d,
    0x3c7979a4c5962101a28cb812e16483b419b79e193a25c9982b53a27e49b8f5ecc2976da7f628f0e2678a1347c76678b073ca8a2c55d264c8da336cc5a43ba696,
    0x4754ccf2e6c1c3a82f2f760c9af6ecda8e6332a4ddf9a366862a2f2aa66872f34089965167b469fa23c4d60b25be8ead9033478e0d2b362e0c31f0e4c0171153,
    0x3f9aac091a6669c1944d92742c7972e787af13aaac5833606a872d2b33f628b0b5ccc3270d4e3e2d59b043d828259f166dd3a3eb961e03267e281b2440982d69,
    0x9279a9638b9e468d28553230439f124ca83051b1e947852e44ddb2d5f17bc3c7b236dc7261367be3d9a21e88b315f9e0618fb66ca8f995ba216bcf975eadb82,
    0xc40b3f53ae5912b5cbc52931d706881921e5da904147d4dcd964c78d8f172bf62c523448982701765c0c5a62c381880b1f2edd5ab347820a5fda8ed8d2b1e885,
    0xc186926516bcfc72b1cac3191717de8c317144d7ab03c69c1d5ae6cd862b45de26f85930c399082fa71e199ab6c486a037d73e6d9b70668e1a2f3e7cb89026c3,
    0xf568d6322b02044950f646c12d5d36545819f341cf840b7e842c702648882f053b5cdcb2b142d52c374e3e48f9e4c88a843b23645970f34b891b2f6a46b87970,
    0x52764bcd861f928cad793568891865baee4cd3b4c5881261d65eac91e26bd32501368ccd316666971c2983de28b1334098a463934e1db2e665890c1d9664bc79,
    0x695be2c9d42b555724c9ba76c9c0105bb3ee789963cbd88a0b6e8e0d71b6c7922b6d72447db8b4ea971551ca3ed91a64e88130379feea879f549989e39879c9c,
    0x3c2c90b46d910d53caf468b97364c73645c7540cb122c69312318ecc88d865ea85a84d5f06cdd065edd81b276a9e8c5261e585300f963c2c53a043952663cba4,
    0x921e7990f045999e0dba9ee810f5c5c504576b06f959b3e2cc1b3baa4e98ba34c9c1b613de9669d2e0e7cb210786943c1ab54985a735937678d06343c90f434b,
    0x472f5e281af4e7d9b143ce1e38717541da0f15537c9c7976489b85277ffebcdaf24dc6042db2847d7376c5991705ae3e6d1035e3c49a0363b6dc1a64cac69249,
    0x8e533744a8b0e5658e892533ac08ba7267841a4b32b6d978b341c5a11377a42c7364e698896d4334d99ae446d88623be5c0952b54197aa5d2ace9c5965408691,
    0xc2115dda3c48faf16dd336174bc4fc51704487ab232bec2c5236c6c49a3bca0e6c98a0c3860725cfac68326347ca183f1a969df0b6668786130394681be3eac7,
    0x4cc91513ca7498703265d9ab697b8e781ba26492a119234e491860e3caa8138694d8b97547cf23639776197026e499903f6fa46c3ba54393334d6e044dd9b5ed,
    0xf44197234fcea488b271e99319294b049d717569db102f2f1c393365c197b263863c7930f4edc1030392e6ecb160c585070f4f6eacd1f467d731372b0659d2f4,
    0x4153ec4c7076eb9a330b438cc831f5c0cb851fc7dcac31336dd9963d926649586647d69553ce96e879,
    0x0]
/-- The signature of the REVOKE token below. -/
def exRevokeSig : List Byte :=
  exSig [0x533542900d13b76e2cd8b44dd0a6638f56b911f1698c30000000000000000000000000000000000000000000000000000000000000000000000000000000003a,
    0x8f3e249861561cee43c3a3361c78b69d3660c70e2c9c6af171e964cb2b4c989245b7f360d51f0e98c24195f8e5d5be16c9a2f150e167cbae2e7cb141b064e1d,
    0x16d93261c8d5b16dba9edc1824638a8b5f37a4bdf8a640842b31b766487960c3c49b2527b4795225c3c6aa4d6a1699716166ca8e535b9cedf866e9d3aa49724e,
    0xf24bc3060ed83810b3ece6c537367c40c33568ee911e1c4ce8e6f8294083be3e9d601015e8c9970364687814b3a2e8c38a1e5cb086b2ecc6c19a5489a8265d6,
    0x613f44f83273c8d1a96d26d64c11b3c3cb9367cabedc7830e18b97235bbc28d36460c6ab4b127ec8b0e6e8cc280dde9e8cd033c1999b297b0e3939b44ac6aa69,
    0xb215ba9ecd3af06b878531d606e812e043829753df0e6991a3c786a2315774f8d862e18baa2baaa4c97073c4c82e13260c1d59f5c5d0924b3604e8b165e4cb9d,
    0x948c5f3a2c28f1304ac236294e5c1d13614cc2ac35921ca93261658d1f2f97a4795aa5e4ce153363ae2cf2b4c2c2332d4716d81aa4428f9a157e3c2832a3c8c4,
    0xe2cd9f2fbfec4cf82064c71f494fecfc79a5e3c203556a26b95063ca86b513c6343d1962679596598bf498527269919d6d3f56a93ab3cad82f4932b4c9d2b148,
    0xf468d4a967c73e9950a16d972c2f164cadd961cad123673f349890a0e2938841c35ef911b34a850c5dc31c895171c3d7a337db3e6873246bd9815d1e7e6931e6,
    0x122441960225ca8e6d3331c5d42e01a28e6d3ba468d8261db6ec785bb340c99e4f8ebe4c7924ea8b21190e8458d2f6699912255274e99134e88f18514b6e1ddb,
    0x39392243d4221f7afee8d1a543d7ab19d346fc79616a83ad199736cd19b6c2c72a170b7cad38a26a9a0d092ab41d9b30628090079bfccc9a65c5c490378a6668,
    0x340d93f5c5d2095b9364ac1864e99722571ba64d9b34c7d2164fc71449503448821f45921ebcb9f0c39b230f0b7e2cb864e3db2e6d5b26ac51f6e389b63d7a66,
    0x6a64fcf0e54b98a6037f5c58fa34c18e924fceae89b9f349cea661274e8cd8a2488010537e443813e360c12b659f2c6933a06dce22298b84f97963ecc59117b2,
    0x416bdcc811616cd49f5377d6d838a0428e9f1d62ec2cbae560d1916173ae3898e467cf820522dcbcd222c389a363a374297af1e8ccb45db6069d91344dd5b45f,
    0x12557a8eddf2a5edc5b4176f44dcd2b0c491a84dca8c4c72234cd3162d1a665d79b043d6b5073e6ce99230c4c9272bca8edd5a60e9d8a16357e43852e347da2e,
    0xc621016a8c1d38e1e59184094afe8832354596a26d9f041d303247c3810fd7c41c7ba0c38294070a26e89ab1e6d4351536debcb9b0cbc8133f9f360cf3a0ea94,
    0x47d8030f4bb41df1b06b8ab11b074679f3b0cdccb007164ec8b073e7c5064d3b4638d863e58b35136b361c7a3446d0b66b425c7993f140d21e579fbeccfab249,
    0x7542d0094fdb461c58f2e5c4116d46569cf1e5c5d62763ab7e0d93e4c9860d2b0e1c1d32f64cce96098e0e59d870c7c19c539a7448f2f1c894ae25c33e9810b3,
    0x9db74bd7122cbcfb35717ee1c18b5cb920c255a6c291336e7919d359a06687a734c99925fc3e66c93,
    0x0]

/-- The public key of these signatures. -/
def exKey : List Byte := 0x0A :: 0x01 :: 0xBC :: exZeros 1790

theorem exSig_length (l : List Nat) : (exSig l).length = 64 * l.length := by
  induction l with
  | nil => rfl
  | cons a l ih => simp only [exSig, List.flatMap_cons, List.length_append, leBytes_len, List.length_cons] at *; omega

/-- The fixed part of the manifest of an image of one chunk, for MANUFACTURE, whose one segment is the firmware's data. -/
def exManHead : List Byte :=
  exBytes 2048 [(0, 4, 0x4D414E46), (4, 2, 1), (7, 1, 1), (0x14, 4, 1), (0x1C, 4, 1), (0x34, 4, 1), (0x38, 1, 4),
    (0xC0, 3, 0xBC010A)]
/-- The whole manifest of an image of 4,096 zeros. -/
def exMan : List Byte :=
  exManHead ++ (leBytes 32 0xdd426924ada5bd37ae52a32dc915b9ae7f7fea4d7d34f00722af9d997dcaaf03 ++ exManSig)
/-- Key slot 0 holds the manifest's key, for images. -/
def exFuses : Fuses := { keys := [some (shake256 (manKey exMan)), none, none, none], flags := 1 }
/-- The anchor's operand is 0x10000. -/
def exInstallBase : State := { exDram.wr .ANCHOR_ARG 0 0x10000 with fuses := exFuses }
/-- The manifest lies at the anchor's operand; the image is the zeros from 0x11000. -/
def exInstall : State := rawWrite exInstallBase 0x10000 exMan

theorem exManHead_length : exManHead.length = 2048 := by decide +kernel

theorem exMan_length : exMan.length = 3360 := by
  rw [exMan, List.length_append, List.length_append, leBytes_len, exManHead_length, exManSig, exSig_length]; rfl

theorem exMan_digest : chunkDigest exMan 0 = shake256 (exZeros 4096) := by decide +kernel

theorem exMan_signed : falconVerify (manKey exMan) (exMan.take 2080) ((exMan.drop 2080).take 1280) = true := by decide +kernel

/-- The manifest passes checks 1 to 6. -/
theorem exMan_manifest (s : State) (hf : s.fuses = exFuses) (hl : lifecycle s = 0) : verifyManifest s exMan = 0 := by
  have hn : manChunks exMan = 1 := by decide +kernel
  have hs : manSlot exMan = 0 := by decide +kernel
  have hok : manFieldsOk exMan = true := by decide +kernel
  have h1 : (leAt exMan 7 1).testBit 0 = true := by decide +kernel
  have h2 : leAt exMan 0x20 16 = 0 := by decide +kernel
  have hk : exFuses.keys.getD 0 none = some (shake256 (manKey exMan)) := by unfold exFuses; rfl
  have hg : exFuses.flags = 1 := by unfold exFuses; rfl
  have hw : exFuses.minSvn = 0 := by unfold exFuses; rfl
  unfold verifyManifest slotDigest slotFlag
  simp only [hn, hs, hok, hl, hf, show (2048 + 32 * 1 : Nat) = 2080 from rfl, exMan_signed, h1, h2, hk, hg, hw]
  generalize exMan = m
  simp [Nat.testBit]

/-- The manifest and the image of zeros pass every check. -/
theorem exMan_verifies (s : State) (chunk : Nat → List Byte) (hf : s.fuses = exFuses) (hl : lifecycle s = 0)
    (hc : chunk 0 = exZeros 4096) : verifyImage s exMan chunk = 0 := by
  have hn : manChunks exMan = 1 := by decide +kernel
  unfold verifyImage
  rw [exMan_manifest s hf hl, hn]
  simp only [List.range_one, List.all_cons, List.all_nil, hc, exMan_digest, BEq.rfl]
  rfl

/-- The anchor's command register written with an operation and an index. -/
def exCmd (op i : Nat) : CsrAcc := .full (BitVec.ofNat 64 (op + 256 * i))
/-- A debug or revocation token of a kind and a value, challenge zero, for key slot 0. -/
def exToken (kind v : Nat) : List Byte :=
  exBytes 0x740 [(0, 4, 0x4E4B4F54), (4, 1, kind), (6, 2, v), (0x38, 3, 0xBC010A)] ++ (if kind = 1 then exObserveSig else exRevokeSig)
/-- Key slot 0 holds the digest of the key, for tokens. -/
def exTokenFuses : Fuses := { keys := [some (shake256 exKey), none, none, none], flags := 2 }
/-- The anchor's operand is 0x10000, and the slot may sign tokens. -/
def exRevokeBase : State := { exDram.wr .ANCHOR_ARG 0 0x10000 with fuses := exTokenFuses }
/-- A token for revoking slot 1 lies at the anchor's operand: its first bytes. -/
def exRevoke : State := rawWrite exRevokeBase 0x10000 ((exToken 4 1).take 64)
/-- The whole of it. -/
def exRevokeWhole : State := rawWrite exRevokeBase 0x10000 (exToken 4 1)

theorem exToken_valid (s : State) (kind v : Nat) (h : (kind, v) = (1, 0) ∨ (kind, v) = (4, 1)) (hf : s.fuses = exTokenFuses) :
    tokenValid s (exToken kind v) = true := by
  have hk : ((exToken kind v).drop 0x38).take 1793 = exKey ∧ leAt (exToken kind v) 5 1 = 0 ∧
      leAt (exToken kind v) 0 4 = 0x4E4B4F54 ∧ ((exToken kind v).drop 8).take 16 = exTokenFuses.serial ∧
      (decide (leAt (exToken kind v) 4 1 ≠ 4) || decide (leAt (exToken kind v) 6 2 ≠ 0)) = true := by
    rcases h with h | h <;> (cases h; decide +kernel)
  have hv : falconVerify exKey ((exToken kind v).take 0x740) (((exToken kind v).drop 0x740).take 1280) = true := by
    rcases h with h | h <;> (cases h; decide +kernel)
  have hg : exTokenFuses.keys.getD 0 none = some (shake256 exKey) := by unfold exTokenFuses; rfl
  have hw : exTokenFuses.flags = 2 := by unfold exTokenFuses; rfl
  obtain ⟨h0, h1, h2, h4, h5⟩ := hk
  unfold tokenValid slotFlag
  simp only [h0, h1, h2, h4, hf, hg, hw, hv, h5, BEq.rfl, Bool.and_true]
  rfl

theorem witness_AnchorActs :
    (({} : State).anchor.booted = false ∧ ({} : State).pins.inReset = false ∧
     lifecycle ((({} : State).setFld Fld.ANCHOR_LC_CURRENT 0 4).setFld Fld.ANCHOR_BOOT_MIN_SVN 0 0) = 4 ∧
     lifecycle (({} : State).setFld Fld.ANCHOR_BOOT_MIN_SVN 0 0) ≠ 4 ∧
     (∀ b ∈ [true, false], let s := { ({} : State) with anchor := { recoverNext := b } }
       (bootIdentity (s.setFld Fld.ANCHOR_BOOT_MIN_SVN 0 s.fuses.minSvn)).anchor.recoverNext = b)) ∧
    (exDram.flag Fld.ANCHOR_CMD_BUSY 0 = false ∧ anchorMaster 1 1 = false ∧
     (∀ op ∈ [1, 2, 3, 4, 5, 6, 7, 8], anchorMaster op 0x10 = true ∧ Fld.ANCHOR_CMD_OP.presented (exCmd op 7) = op) ∧
     anchorMaster 9 2 = true ∧ Fld.ANCHOR_CMD_OP.presented (exCmd 9 1) = 9 ∧
     (∀ i ∈ [2, 7], (exDram.plainWrite .ANCHOR_CMD 0 false (exCmd 1 i)).fld Fld.ANCHOR_CMD_INDEX 0 = i)) ∧
    (let u := (exDram.wr .ANCHOR_ARG 0 0x10000).plainWrite .ANCHOR_CMD 0 false (exCmd 2 0)
     anchorArg u % 64 = 0 ∧ inDram u (anchorArg u) 1648 = true ∧ prepare u anchorId [] [(anchorArg u, 1648)] = .go) ∧
    (let u := { exDram.wr .ANCHOR_ARG 0 0x10000 with anchor := { manifest := exManHead } }
     (manSegments u.anchor.manifest)[0]? = some ⟨0, 1, 4, 0⟩ ∧ inDram u (anchorArg u) (4096 * 1) = true ∧
     prepare u anchorId [] [(anchorArg u, 4096)] = .go) ∧
    (lcAllowed { exDram with fuses := { lifecycle := 1 } } 2 = true ∧ lcAllowed exDram 3 = false ∧ exDram.anchor.recovery = false ∧
     ({ exDram with anchor := { recovery := true } } : State).anchor.recovery = true) ∧
    (let c := rcvChunk { exDram with anchor := { rcv := [(0, 0x46), (1, 0x4E), (2, 0x41), (3, 0x4D), (4, 1), (7, 1), (0x14, 0x00), (0x15, 0x0F),
        (0x1C, 1), (0x34, 1), (0x38, 4)] } }
     manFieldsOk ([] ++ c) = true ∧ ([] ++ c).length < manLength (manChunks ([] ++ c))) := by
  and_intros <;> decide +kernel

theorem exInstallBase_wf : MemWf exInstallBase := by unfold MemWf; decide +kernel

theorem exInstall_peek (n : Nat) (h : n ≤ 3360) : peek exInstall 0x10000 n = exMan.take n :=
  rawWrite_span _ _ _ _ exInstallBase_wf (by rw [exMan_length]; exact h)

theorem exInstall_image : peek exInstall 0x11000 4096 = exZeros 4096 := by
  have hz0 : ∀ b, 0x11000 ≤ b → rawByte exInstall b = 0 := by
    intro b hb
    have := rawWrite_sameOutside exInstallBase 0x10000 exMan exInstallBase_wf b (.inr (by rw [exMan_length]; omega))
    exact this.trans (by unfold rawByte; rfl)
  refine List.ext_getElem (by rw [exZeros_length]; simp only [peek, rawBytes, List.length_map, List.length_range]) fun i h _ => ?_
  simp only [peek, rawBytes, List.getElem_map, List.getElem_range, exZeros, List.getElem_replicate]
  exact hz0 _ (by omega)

theorem exInstall_manifest : manifestOf (peek exInstall 0x10000 8192) = exMan := by
  have h1 : manFieldsOk (exMan.take 0x800) = true := by decide +kernel
  have h2 : manLength (manChunks (exMan.take 0x800)) = 3360 := by decide +kernel
  unfold manifestOf peek
  have h3 : exMan.take 3360 = exMan := List.take_of_length_le (Nat.le_of_eq exMan_length)
  have p (n : Nat) (h : n ≤ 3360) : rawBytes exInstall 0x10000 n = exMan.take n := exInstall_peek n h
  simp only [rawBytes_take _ _ 0x800 8192 (by decide), p 0x800 (by decide), h1, h2, rawBytes_take _ _ 3360 8192 (by decide),
    p 3360 (by decide), h3, if_true]

theorem exMan_start : imageStart exMan = 4096 ∧ manChunks exMan = 1 ∧ manFieldsOk exMan = true := by
  have hn : manChunks exMan = 1 := by decide +kernel
  refine ⟨by unfold imageStart; rw [hn]; rfl, hn, by decide +kernel⟩

theorem plainWrite_keeps (s : State) (op i a n : Nat) : let u := s.plainWrite .ANCHOR_CMD 0 false (exCmd op i)
    u.fuses = s.fuses ∧ peek u a n = peek s a n := ⟨rfl, rfl⟩

theorem plainWrite_rawBytes (s : State) (op i a n : Nat) :
    rawBytes (s.plainWrite .ANCHOR_CMD 0 false (exCmd op i)) a n = rawBytes s a n := rfl

/-- The token as it lies in memory. -/
theorem exRevokeWhole_bytes : rawBytes exRevokeWhole 0x10000 3136 = exToken 4 1 := by
  have hlen : (exToken 4 1).length = 3136 := by decide +kernel
  have hm : MemWf exRevokeBase := by unfold MemWf; decide +kernel
  have h := rawWrite_span exRevokeBase 0x10000 3136 (exToken 4 1) hm (Nat.le_of_eq hlen.symm)
  unfold exRevokeWhole
  rw [h]
  exact List.take_of_length_le (Nat.le_of_eq hlen)

theorem anchorReads_install (s : State) (i : Nat) : anchorReads s 3 i =
    if inDram s (anchorArg s) (installLength s (anchorArg s)) = true then [(anchorArg s, installLength s (anchorArg s))] else [] := by
  simp [anchorReads]

/-- INSTALL of an image that verifies. -/
theorem witness_AnchorActs_install :
    let u := exInstall.plainWrite .ANCHOR_CMD 0 false (exCmd 3 0)
    let d := anchorArg u
    let r := memRead u anchorId 3 d (installLength u d)
    inDram u d (installLength u d) = true ∧ prepare u anchorId (anchorReads u 3 0) [] = .go ∧
      verifyImage r.st (manifestOf r.data) (fun k => (r.data.drop (imageStart (manifestOf r.data) + 4096 * k)).take 4096) = 0 := by
  intro u d r
  have ha : d = 0x10000 := by decide +kernel
  have hk : ∀ a n, peek u a n = peek exInstall a n := fun a n => (plainWrite_keeps exInstall 3 0 a n).2
  have hl : installLength u d = 8192 := by
    have h : manFieldsOk (exMan.take 0x800) = true ∧ imageStart (exMan.take 0x800) + 4096 * manChunks (exMan.take 0x800) = 8192 := by
      decide +kernel
    unfold installLength
    simp only [ha, hk, exInstall_peek 0x800 (by decide), h.1, h.2, if_true]
  have hr : r = ⟨rawBytes exInstall 0x10000 8192, false, u⟩ := by
    show memRead u anchorId 3 d (installLength u d) = _
    rw [hl, ha, memRead_clean u _ _ _ _ (by decide +kernel) (by decide +kernel) (by decide +kernel) (by decide +kernel)]
    have hb : rawBytes u 0x10000 8192 = rawBytes exInstall 0x10000 8192 := hk _ _
    rw [hb]
  have hi : inDram u 0x10000 8192 = true := by decide +kernel
  have hp : anchorReads u 3 0 = [(0x10000, 8192)] := by
    have ha' : anchorArg u = 0x10000 := ha
    have hl' : installLength u 0x10000 = 8192 := by rw [← hl, ha]
    rw [anchorReads_install, ha', hl', if_pos hi]
  have hm : manifestOf (rawBytes exInstall 0x10000 8192) = exMan := exInstall_manifest
  rw [hr, hp, hl, ha]
  refine ⟨hi, by decide +kernel, ?_⟩
  simp only [hm, exMan_start.1]
  refine exMan_verifies u _ ((plainWrite_keeps exInstall 3 0 0 0).1.trans (rawWrite_fuses ..)) (by decide +kernel) ?_
  rw [rawBytes_drop, rawBytes_take _ _ _ _ (by decide)]
  exact exInstall_image

/-- A line of the manifest that the host holds makes INSTALL wait. -/
theorem witness_AnchorActs_waits :
    (let u := { exRevoke with snoop := [⟨0x10000 / 64, true, 0⟩] }.plainWrite .ANCHOR_CMD 0 false (exCmd 7 1)
     (match prepare u anchorId (anchorReads u 7 1) [] with | .stall _ => true | .go => false) = true) ∧
    lcNeedsToken { exDram with fuses := { lifecycle := 1 } } 3 = true ∧
    (let u := { exRevoke with fuses := { lifecycle := 1 } }
     lcNeedsToken u 3 = true ∧ (tokenValid (readToken u).2 (readToken u).1 && leAt (readToken u).1 4 1 == 3) = false) ∧
    (let s : State := { exDram with anchor := { cmd := some (6, 0, 0), was := some 3 }, fuses := { minSvn := 9 } }
     s.anchor.due = false ∧ max 3 (min (5 : BitVec 64).toNat s.fuses.minSvn) = 5 ∧ max 3 (min (9 : BitVec 64).toNat s.fuses.minSvn) = 9) := by
  and_intros <;> decide +kernel

/-- RCV of an image chunk whose digest is the manifest's. -/
theorem witness_AnchorActs_rcv :
    let u : State := { exDram with anchor := { recovery := true, rcvManifest := exMan } }
    0x800 ≤ u.anchor.rcvManifest.length ∧ manFieldsOk u.anchor.rcvManifest = true ∧
      manLength (manChunks u.anchor.rcvManifest) ≤ u.anchor.rcvManifest.length ∧
      shake256 (rcvChunk u) = chunkDigest u.anchor.rcvManifest u.anchor.rcvChunks := by
  have hr : rcvChunk { exDram with anchor := { recovery := true, rcvManifest := exMan } } = exZeros 4096 := by
    refine List.ext_getElem (by rw [exZeros_length]; simp only [rcvChunk, List.length_map, List.length_range]) fun i h _ => ?_
    simp only [rcvChunk, List.getElem_map, exZeros, List.getElem_replicate]
    rfl
  intro u
  have hu : u.anchor.rcvManifest = exMan := rfl
  have hc : u.anchor.rcvChunks = 0 := rfl
  rw [hu, hc, exMan_digest, exMan_length, exMan_start.2.1]
  exact ⟨by decide, exMan_start.2.2, by decide, congrArg shake256 hr⟩

/-- REVOKE with a valid token for another slot than the one that signs. -/
theorem witness_AnchorActs_token :
    let u := exRevokeWhole.plainWrite .ANCHOR_CMD 0 false (exCmd 7 1)
    let t := (readToken u).1
    u.fld Fld.ANCHOR_CMD_INDEX 0 = 1 ∧ tokenValid (readToken u).2 t = true ∧ leAt t 4 1 = 4 ∧ leAt t 6 2 = 1 := by
  intro u t
  have hr : readToken u = (exToken 4 1, dropHost u anchorId) := by
    have ha : anchorArg u = 0x10000 := by decide +kernel
    have hm := memRead_clean u anchorId 3 0x10000 3136 (by decide +kernel) (by decide +kernel) (by decide +kernel) (by decide +kernel)
    have hlen : (exToken 4 1).length = 3136 := by decide +kernel
    have hw : rawBytes u 0x10000 3136 = rawBytes exRevokeWhole 0x10000 3136 := plainWrite_rawBytes exRevokeWhole 7 1 0x10000 3136
    have hp : rawBytes u 0x10000 3136 = exToken 4 1 := hw.trans exRevokeWhole_bytes
    simp [readToken, ha, hm, hp]
  have ht : t = exToken 4 1 := congrArg Prod.fst hr
  rw [ht, hr]
  refine ⟨by decide +kernel, exToken_valid _ 4 1 (.inr rfl) ?_, by decide +kernel, by decide +kernel⟩
  exact (rawWrite_fuses exRevokeBase 0x10000 (exToken 4 1))

/-- Master 0x1F owns the debug module at level FULL; context 0 and core 0 are held; a target is selected. -/
def exDbg (core : Nat) : State :=
  { ((exDram.setFld Fld.DBG_LEVEL_OWNER 0 0x1F).setFld Fld.DBG_LEVEL_LEVEL 0 2).setFld Fld.DBG_SEL_KIND 0 core with
    ctx := [(0, { held := true, st := .stopped })], mc := [(0, { inReset := false, held := true })] }
/-- The same with both running. -/
def exDbgRun (core : Nat) : State := { exDbg core with ctx := [(0, { st := .running })], mc := [(0, { inReset := false })] }
/-- A token is in verification. -/
def exVerify : State :=
  { exDram.setFld Fld.ANCHOR_LC_CURRENT 0 1 with fuses := exTokenFuses, unlock := { token := exToken 1 0, target := 1, writer := 5, challenge := some (exZeros 32), verifying := true } }

theorem witness_DebugModuleActs :
    ((∀ e ∈ [(1, 1, 0, 0), (2, 0, 1, 0), (4, 0, 0, 1)], Fld.DBG_UNLOCK_NEW.presented (.full (BitVec.ofNat 64 e.1)) = e.2.1 ∧
      Fld.DBG_UNLOCK_SUBMIT.presented (.full (BitVec.ofNat 64 e.1)) = e.2.2.1 ∧
      Fld.DBG_UNLOCK_LOCK.presented (.full (BitVec.ofNat 64 e.1)) = e.2.2.2) ∧
     exDram.flag Fld.DBG_LEVEL_LOCKOUT 0 = false ∧ (exDram.setFld Fld.DBG_LEVEL_LOCKOUT 0 1).flag Fld.DBG_LEVEL_LOCKOUT 0 = true ∧
     exVerify.unlock.writer = 5 ∧ dbgOwner ((exDbg 0).plainWrite .DBG_UNLOCK 0 false (.full 4)) 0x1F = true ∧ isCoreMaster 0x10 = true) ∧
    (CsrWf exVerify ∧ exVerify.unlock.verifying = true ∧ unlockPasses { exVerify with unlock := { verifying := true } } = false ∧
     7 ≤ (exVerify.setFld Fld.DBG_LEVEL_FAILS 0 7).fld Fld.DBG_LEVEL_FAILS 0) ∧
    ((∀ e ∈ [(1, 1, 0, 0), (2, 0, 1, 0), (4, 0, 0, 1)], Fld.DBG_CTL_HALT.presented (.full (BitVec.ofNat 64 e.1)) = e.2.1 ∧
      Fld.DBG_CTL_RESUME.presented (.full (BitVec.ofNat 64 e.1)) = e.2.2.1 ∧
      Fld.DBG_CTL_STEP.presented (.full (BitVec.ofNat 64 e.1)) = e.2.2.2) ∧
     dbgOwner (exDbg 0) 1 = false ∧ (∀ k ∈ [0, 1], dbgOwner (exDbg k) 0x1F = true ∧ 2 ≤ dbgLevel (exDbg k) ∧
      dbgTarget (exDbg k) = some (decide (k = 1), 0) ∧ dbgTarget (exDbgRun k) = some (decide (k = 1), 0)) ∧
     pdiesDown (exDbg 0) = false ∧ (ctxAt (setCtx (exDbg 0) 0 { st := .replaying }) 0).st = .replaying ∧
     (ctxAt (setCtx (exDbg 0) 0 { st := .stopped }) 0).held = false ∧ (ctxAt (exDbgRun 0) 0).st = .running ∧ (ctxAt (exDbg 0) 0).held = true ∧
     (mcAt (exDbgRun 1) 0).inReset = false ∧ (mcAt (exDbgRun 1) 0).held = false ∧ (mcAt (exDbg 1) 0).held = true ∧
     (exDbg 0).dbg = [] ∧
     (let s := exDbg 0
      let t := ctxIssue (setCtx s 0 { ctxAt s 0 with st := .running, cause := 0, badaddr := 0, held := false, skipBp := true, quantumEnd := false })
        0 (ctxOpAt s 0)
      ((ctxAt t 0).st ≠ .running ∨ ((ctxAt t 0).reread ≠ 1 ∧ (ctxAt t 0).skipBp = false)) ∧ (reholdCtx t 0).dbg = []) ∧
     (let s := exDbg 1
      let t := mcIssue (setMc s 0 { mcAt s 0 with held := false, skipBp := true, waiting := none }) 0 (mcOpAt s 0)
      (mcAt t 0).held = false ∧ (mcAt t 0).skipBp = false ∧ t.dbg = [])) ∧
    (((exDbg 0).setFld Fld.DBG_REG_SEL_INDEX 0 31).fld Fld.DBG_REG_SEL_INDEX 0 < 32 ∧
     (exDbg 0).fld Fld.DBG_REG_SEL_FILE 0 = 0 ∧ ((exDbg 0).setFld Fld.DBG_REG_SEL_FILE 0 3).fld Fld.DBG_REG_SEL_FILE 0 = 3) ∧
    ((exDbg 0).flag Fld.DBG_MEM_CMD_BUSY 0 = false ∧ Fld.DBG_MEM_CMD_OP.presented (.full 1) = 1 ∧
     Fld.DBG_MEM_CMD_OP.presented (.full 2) = 2 ∧
     ((exDbg 0).wr .DBG_MEM_ADDR 0 2 |>.plainWrite .DBG_MEM_CMD 0 false (.full 1)).fld Fld.DBG_MEM_ADDR_ADDR 0 % 4 ≠ 0 ∧
     (let w := ((exDbg 0).plainWrite .DBG_MEM_CMD 0 false (.full 1)).setFld Fld.DBG_MEM_CMD_BUSY 0 1
      dbgAsleep w 0 = false ∧ dbgAsleep (w.setFld Fld.PWR_STATUS_STATE 0 2) 0 = true ∧ prepare w dbgMaster [(0, 4)] [] = .go ∧ (busRead w dbgMaster 3 0 4).bad = false ∧
      (busRead w dbgMaster 3 0 4).st.dbg = []) ∧
     (let w := ((exDbg 0).plainWrite .DBG_MEM_CMD 0 false (.full 2)).setFld Fld.DBG_MEM_CMD_BUSY 0 1
      dbgAsleep w 0 = false ∧ prepare w dbgMaster [] [(0, 4)] = .go ∧
      (busWrite w dbgMaster 3 0 (leBytes 4 (w.rd .DBG_MEM_DATA 0).toNat)).st.dbg = [])) := by
  unfold CsrWf; and_intros <;> decide +kernel

/-- A verification that passes. -/
theorem witness_DebugModuleActs_token : unlockPasses exVerify = true := by
  have h : tokenValid exVerify exVerify.unlock.token = true := exToken_valid exVerify 1 0 (.inl rfl) rfl
  have h2 : (exVerify.unlock.token.length == 3136) = true ∧ (leAt exVerify.unlock.token 4 1 == exVerify.unlock.target) = true ∧
      (exVerify.unlock.challenge == some ((exVerify.unlock.token.drop 0x18).take 32)) = true ∧
      levelAllowed exVerify exVerify.unlock.target = true := by decide +kernel
  unfold unlockPasses
  simp only [h, h2.1, h2.2.1, h2.2.2.1, h2.2.2.2, Bool.and_true]

theorem witness_TapPinsAndErrors :
    (tapOn ({} : State) = true ∧ tapOn { pins := { pwrGood := false } } = false ∧ CsrWf ({} : State) ∧ ({} : State).pins.inReset = false ∧ ({} : State).dbg = [] ∧
     (∀ i ∈ [(0 : BitVec 9), 511], (csrStore ({ tap := { ir := 0x10 } } : State) dbgMaster (0x50000 + 8 * i.toNat) 8 0).dbg = [])) ∧
    (({} : State).pins.vin = true ∧ ({} : State).pins.pwrGood = true ∧ ({ pins := { vin := false } } : State).pins.vin = false ∧
     ({} : State).fld Fld.PWR_STATUS_STATE 0 ≠ 4 ∧ mayRelease { pins := { inReset := true } } = true ∧ ({} : State).fuses.lifecycle < 8 ∧
     ({} : State).pins.trip = false ∧ ({ pins := { trip := true } } : State).pins.trip = true ∧ readyBit (({} : State).setFld Fld.BRINGUP_STEP_READY 0 1) = true ∧
     (∀ d ∈ [0, 5], max 100 (({} : State).fld Fld.GAUGE_CFG_PERIOD d) ≤ (0xFFFFFFFF#32).toNat)) ∧
    (isCoreMaster 0x13 = true ∧
     (∀ e ∈ [(0x100044001, false), (0x1000417A5, false), (0x100041795, true), (0x100080002, true)],
      Fld.ERR_INJ_ARM.presented (.full (BitVec.ofNat 64 e.1)) = 1 ∧
      injectionOk (({} : State).written Fld.ERR_INJ_DETECTOR 0 (.full (BitVec.ofNat 64 e.1)))
        (({} : State).written Fld.ERR_INJ_TARGET 0 (.full (BitVec.ofNat 64 e.1)))
        (({} : State).written Fld.ERR_INJ_PARAM 0 (.full (BitVec.ofNat 64 e.1))) = e.2)) := by
  unfold CsrWf; and_intros <;> decide +kernel

/-- A state with memory at 0x100000 on. -/
def exMem (s : State) (fs : List (Nat × Nat × Nat)) : State := fs.foldl (fun s f => rawWrite s f.1 (leBytes f.2.1 f.2.2)) s
/-- A job with one program, one record, one consumer and one instance waits in channel 0, whose receiver is core 0. -/
def exJobWaiting : State :=
  exMem { ((((exDram.setFld Fld.MBOX_BIND_RECEIVER 0 0x10).setFld Fld.MBOX_BIND_ENABLE 0 1).setFld Fld.MBOX_CH_STAT_FULL 0 1).setFld
    Fld.MBOX_RX_ADDR_ADDR 0 0x100000) with mc := [(0, { inReset := false })] }
    [(0x100000, 4, 1), (0x100005, 1, 1), (0x100006, 2, 1), (0x100020, 8, 1), (0x100028, 4, 1), (0x10002C, 4, 64), (0x100030, 8, 0x101000),
     (0x100038, 4, 1), (0x100040, 8, 0x102000), (0x100048, 4, 1), (0x100050, 8, 0x103000), (0x100058, 8, 0x104000),
     (0x101000, 8, 0x105000), (0x101008, 4, 4), (0x101014, 4, 1), (0x101019, 1, 255), (0x10101C, 4, 0x1000),
     (0x103008, 4, 1), (0x103010, 8, 1), (0x103028, 8, 1), (0x104008, 8, 0x106000), (0x104010, 4, 128), (0x104014, 2, 1)]
/-- The same with every tile failed. -/
def exNoTile : State := (List.range 8).foldl (fun s w => s.wr .FLOOR w 0xFFFFFFFFFFFFFFFF) exJobWaiting

theorem witness_CsrWritesCountersAndJobs :
    (({} : State).dbg = [] ∧ csrSilent (({} : State).setFld Fld.PWR_STATUS_STATE 0 3) 0x8000000 = true ∧ csrSilent {} 0 = false ∧
     csrSized 2 4 = false ∧ csrSized 0x8FFFFF8 8 = true ∧ Reg.at? 0x8FFFFF8 = none ∧ csrSilent {} 0x8FFFFF8 = false ∧
     (∀ r ∈ [Reg.CQ_TABLE, .HQ_BASE, .INTC_HADDR, .INTC_HDATA, .ERR_IRQ_EN, .ANCHOR_ARG, .ANCHOR_DATA],
      Reg.at? (regAddr r 0 - csrBase) = some (r, 0) ∧ (regAddr r 0 - csrBase) % 8 = 0 ∧ csrSilent {} (regAddr r 0 - csrBase) = false)) ∧
    regionOf ({} : State) 0xFFFFFFFFFFFFF = .unmapped ∧ CsrWf ({} : State) ∧
    (counterValid 0x5000 = true ∧ (∀ j ∈ ({} : State).jobs, deliveredName j.id ≠ 0x5000) ∧ counterValid 0 = true) ∧
    (let s := ({} : State).setFld Fld.HQ_BASE_BASE 31 0x200000000000
     inHostWindow (s.fld Fld.HQ_BASE_BASE 31 * 64) 64 = true ∧ s.written Fld.HQ_CFG_LOG2_ENTRIES 31 (.full 0x1F) = 15 ∧
     s.written Fld.HQ_CFG_ENABLE 31 (.full 0x1F) = 1 ∧ counterValid (s.written Fld.HQ_CFG_COUNTER 31 (.full 0x1F)) = true ∧
     s.written Fld.HQ_CFG_LOG2_ENTRIES 31 (.full 0x15) = 5) ∧
    ((mcAt exJobWaiting 0).inReset = false ∧ isReceiver exJobWaiting 0x10 0 = true ∧ exJobWaiting.flag Fld.MBOX_CH_STAT_FULL 0 = true ∧
     pdiesDown exJobWaiting = false ∧ exJobWaiting.fld Fld.MBOX_RX_ADDR_ADDR 0 = 0x100000 ∧ inDram exJobWaiting 0x100000 256 = true ∧
     inDram (exJobWaiting.wr .MEM_IL 0 0) 0x100000 256 = false ∧ prepare exJobWaiting 0x10 [(0x100000, 256)] [] = .go) ∧
    (let d := peek exJobWaiting 0x100000 256
     prepare exJobWaiting 0x10 ((jobReads exJobWaiting d).filter (fun p => inDram exJobWaiting p.1 p.2)) (jobWrites exJobWaiting d) = .go ∧
     jobStatus exJobWaiting 0x100000 d = 0 ∧ (placeAll exJobWaiting {} d).isSome = true ∧
     jobStatus (rawWrite exJobWaiting 0x100000 [2]) 0x100000 (peek (rawWrite exJobWaiting 0x100000 [2]) 0x100000 256) ≠ 0 ∧
     prepare exNoTile 0x10 ((jobReads exNoTile d).filter (fun p => inDram exNoTile p.1 p.2)) (jobWrites exNoTile d) = .go ∧
     jobStatus exNoTile 0x100000 d = 0 ∧ placeAll exNoTile {} d = none) := by
  unfold CsrWf; and_intros <;> decide +kernel

theorem witness_HandoffQueuePointers :
    CsrWf ({} : State) ∧ (1 + 2 ^ 32 - ({} : State).fld Fld.HQ_DONE_DONE 0) % 2 ^ 32 ≤ 2 ^ ({} : State).fld Fld.HQ_CFG_LOG2_ENTRIES 0 ∧
    (2 + 2 ^ 32 - ({} : State).fld Fld.HQ_DONE_DONE 0) % 2 ^ 32 > 2 ^ ({} : State).fld Fld.HQ_CFG_LOG2_ENTRIES 0 ∧
    counterValid (({} : State).fld Fld.HQ_CFG_COUNTER 0) = true := by
  unfold CsrWf; decide +kernel

theorem witness_EveryStepKeepsTheCanonicalForms : MemWf State.reset ∧ CsrWf State.reset ∧ step State.reset = .next State.reset := by
  unfold MemWf CsrWf; exact ⟨by decide, by decide, rfl⟩

theorem witness_EncodedInstructionsDecodeBack : (VOp.alu .add ⟨31, 30, 29, 0⟩).encodable = true ∧
    (VOp.load ⟨8, true⟩ ⟨1, 2, 0xFFF⟩).encodable = true ∧ (VOp.load ⟨8, false⟩ ⟨1, 2, 0xFFF⟩).encodable = false := by decide


/-! ## Hypotheses met: the clauses at their other boundaries -/

/-- An image that differs from zeros in its first byte. -/
def exOther : List Byte := 1 :: exZeros 4095
/-- INSTALL has just written slot 0, which reads back as the manifest and another image; RCV has received the same. -/
def exSlot : State :=
  storePut (storePut { exDram with fuses := exFuses, anchor := {
    cmd := some (3, 0, 1), recovery := true, rcvManifest := exMan, rcv := [(0, 1)] } } 0 0 exMan) 0 4096 exOther

theorem exOther_digest : shake256 exOther ≠ chunkDigest exMan 0 := by decide +kernel

theorem exSlot_store : slotManifest exSlot 0 = exMan ∧ slotChunk exSlot 0 exMan 0 = exOther ∧ rcvChunk exSlot = exOther := by
  have hw (s : State) (h : s.anchor.store = []) : Cells.wf (fun _ => (0 : Byte)) (storePut s 0 0 exMan).anchor.store = true :=
    storePut_wf s 0 0 exMan (by rw [h]; rfl)
  have hm (n : Nat) (hn : n ≤ 3360) : storeBytes exSlot 0 0 n = exMan.take n := by
    unfold exSlot
    rw [storePut_other _ _ _ _ _ _ (hw _ rfl) (.inl (by omega)), storePut_span _ _ _ _ _ rfl (by rw [exMan_length]; exact hn)]
  refine ⟨?_, ?_, ?_⟩
  · have h1 : manFieldsOk (exMan.take 0x800) = true := by decide +kernel
    have h2 : manLength (manChunks (exMan.take 0x800)) = 3360 := by decide +kernel
    unfold slotManifest
    simp only [hm 0x800 (by decide), h1, if_true, h2, hm 3360 (by decide)]
    exact List.take_of_length_le (Nat.le_of_eq exMan_length)
  · have hl : exOther.length = 4096 := by simp only [exOther, List.length_cons, exZeros_length]
    unfold slotChunk exSlot
    rw [exMan_start.1, storePut_span _ _ _ _ _ (hw _ rfl) (Nat.le_of_eq hl.symm)]
    exact List.take_of_length_le (Nat.le_of_eq hl)
  · refine List.ext_getElem (by simp only [rcvChunk, exOther, List.length_map, List.length_range, List.length_cons, exZeros_length])
      fun i h _ => ?_
    have hr : exSlot.anchor.rcv = [(0, 1)] := rfl
    simp only [rcvChunk, List.getElem_map, List.getElem_range, hr]
    cases i with
    | zero => rfl
    | succ i => simp only [exOther, exZeros, List.getElem_cons_succ, List.getElem_replicate]; rfl

/-- A slot or a received chunk that its manifest's digest does not fit. -/
theorem witness_AnchorActs_digest :
    (verifyManifest exSlot exMan = 0 ∧ 0 < manChunks exMan ∧ shake256 (slotChunk exSlot 0 exMan 0) ≠ chunkDigest exMan 0) ∧
    (exSlot.anchor.cmd = some (3, 0, 1) ∧ exSlot.anchor.due = false ∧ exSlot.anchor.was = none ∧ slotMatches exSlot 0 = false) ∧
    (0x800 ≤ exSlot.anchor.rcvManifest.length ∧ manFieldsOk exSlot.anchor.rcvManifest = true ∧
      manLength (manChunks exSlot.anchor.rcvManifest) ≤ exSlot.anchor.rcvManifest.length ∧
      shake256 (rcvChunk exSlot) ≠ chunkDigest exSlot.anchor.rcvManifest exSlot.anchor.rcvChunks) := by
  obtain ⟨hm, hc, hr⟩ := exSlot_store
  have hn := exMan_start.2.1
  refine ⟨⟨exMan_manifest exSlot rfl (by decide +kernel), by rw [hn]; decide, by rw [hc]; exact exOther_digest⟩, ⟨rfl, rfl, rfl, ?_⟩, ?_⟩
  · unfold slotMatches
    simp only [hm, hn, hc, List.range_one, List.all_cons, List.all_nil, Bool.and_true]
    exact beq_eq_false_iff_ne.2 exOther_digest
  · have e : exSlot.anchor.rcvManifest = exMan := rfl
    have z : exSlot.anchor.rcvChunks = 0 := rfl
    rw [e, z, hr, hn, exMan_length]
    exact ⟨by decide, exMan_start.2.2, by decide, exOther_digest⟩

/-- RCV of the last chunk of a manifest that verifies, and of one that does not. -/
theorem witness_AnchorActs_received :
    (let u : State := { exDram with fuses := exFuses, anchor := { recovery := true, rcvManifest := exMan } }
     let t := u.anchor.rcvManifest
     let len := manLength (max 1 (min 3840 (manChunks (t ++ rcvChunk u))))
     len ≤ (t ++ rcvChunk u).length ∧ verifyManifest u ((t ++ rcvChunk u).take len) = 0) ∧
    (let u : State := { exDram with fuses := exFuses, anchor := { recovery := true } }
     let len := manLength (max 1 (min 3840 (manChunks ([] ++ rcvChunk u))))
     len ≤ ([] ++ rcvChunk u).length ∧ verifyManifest u (([] ++ rcvChunk u).take len) ≠ 0) ∧
    (let u : State := { exDram with anchor := { recovery := true } }
     u.anchor.rcvManifest.length < 0x800) := by
  refine ⟨?_, by decide +kernel, by decide⟩
  intro u t len
  have hl : (rcvChunk u).length = 4096 := by simp only [rcvChunk, List.length_map, List.length_range]
  have hn : manChunks (exMan ++ rcvChunk u) = 1 := by decide +kernel
  have hlen : len = 3360 := by
    show manLength (max 1 (min 3840 (manChunks (exMan ++ rcvChunk u)))) = 3360
    rw [hn]; decide
  have ht : (t ++ rcvChunk u).take len = exMan := by
    rw [hlen, ← exMan_length]; exact List.take_left ..
  refine ⟨by rw [hlen, List.length_append, hl]; omega, ?_⟩
  rw [ht]
  exact exMan_manifest u rfl (by decide +kernel)

/-- The anchor: awake, work that a host's line held back, a command ended by a fuse that reads back short. -/
theorem witness_AnchorActs_more :
    awake exDram = true ∧ verifyManifest ({} : State) [] ≠ 0 ∧
    (let s : State := { exDram with anchor := { cmd := some (6, 0, 0), due := true } }
     s.anchor.cmd = some (6, 0, 0) ∧ s.anchor.due = true) ∧
    (∀ b ∈ [(3, 0), (1, 0)], let s : State := { exDram with anchor := { cmd := some (b.1, 0, b.2) } }
     s.anchor.cmd.isSome = true ∧ s.anchor.was = none ∧ (b.1 ≠ 3 ∨ b.2 = 0)) ∧
    (exDram.plainWrite .ANCHOR_CMD 0 false (exCmd 9 0)).fld Fld.ANCHOR_CMD_INDEX 0 = 0 ∧
    (exDram.plainWrite .ANCHOR_CMD 0 false (exCmd 9 1)).fld Fld.ANCHOR_CMD_INDEX 0 ≠ 0 ∧
    ((exDram.setFld Fld.ANCHOR_CMD_BUSY 0 1).flag Fld.ANCHOR_CMD_BUSY 0 = true) ∧
    ((manSegments ({} : State).anchor.manifest)[0]? = none) ∧
    inDram (exDram.wr .ANCHOR_ARG 0 0xFFFFFFFFFF000) 0xFFFFFFFFFF000 4096 = false ∧
    ({ exDram with anchor := { booted := true } } : State).anchor.booted = true ∧
    ({ exDram with pins := { inReset := true } } : State).pins.inReset = true := by
  and_intros <;> decide +kernel

/-- A comparator of KIND 0 at address 0, for context 0 or core 0. -/
def exBp (core : Nat) : State :=
  { exDbg core with bp := [((if core = 1 then 512 else 0) * 4, { ctl := 0x11 })] }

theorem witness_DebugModuleActs_more :
    awake (exDbg 0) = true ∧ awake exVerify = true ∧
    ((ctxAt (exDbg 0) 0).byMatch = false ∧ bpHit (exBp 0) (tileOf 0) [0] (some 0) [(ctxAt (exBp 0) 0).pc.toNat] = true ∧
      (matchCtx (exBp 0) 0).dbg = []) ∧
    bpHit (exDbg 0) (tileOf 0) [0] (some 0) [(ctxAt (exDbg 0) 0).pc.toNat] = false ∧
    (ctxAt (setCtx (exBp 0) 0 { held := true, byMatch := true, st := .stopped }) 0).byMatch = true ∧
    ((mcAt (exBp 1) 0).byMatch = false ∧ bpHit (exBp 1) 512 [0] none [(mcAt (exBp 1) 0).pc.toNat] = true ∧
      (matchMc (exBp 1) 0).dbg = []) ∧
    bpHit (exDbg 1) 512 [0] none [(mcAt (exDbg 1) 0).pc.toNat] = false ∧
    (mcAt { exBp 1 with mc := [(0, { inReset := false, held := true, byMatch := true })] } 0).byMatch = true ∧
    (let w := ((exDbg 0).plainWrite .DBG_MEM_CMD 0 false (.full 1)).setFld Fld.DBG_MEM_CMD_BUSY 0 1
     dbgAsleep (w.setFld Fld.PWR_STATUS_STATE 0 3) 0 = true ∧ 2 ≤ dbgLevel (exDbg 0) ∧ awake (w.setFld Fld.PWR_STATUS_STATE 0 3) = true) ∧
    (let s := ((exDbg 0).setFld Fld.DBG_LEVEL_LEVEL 0 1)
     dbgOwner s 0x1F = true ∧ dbgLevel (s.plainWrite .DBG_UNLOCK 0 false (.full 4)) ≤ 2) := by
  and_intros <;> decide +kernel

theorem witness_TapPinsAndErrors_more :
    tapOn (({} : State).setFld Fld.PWR_STATUS_STATE 0 4) = false ∧ ({ pins := { inReset := true } } : State).pins.inReset = true ∧
    tapOn { pins := { inReset := true } } = true ∧
    ({ pins := { pwrGood := false, trip := true } } : State).pins.pwrGood = false ∧
    (({ pins := { pwrGood := false } } : State).pins.vin = true ∧ ({ pins := { pwrGood := false } } : State).pins.trip = false) ∧
    (({} : State).setFld Fld.PWR_STATUS_STATE 0 4).fld Fld.PWR_STATUS_STATE 0 = 4 ∧
    mayRelease { pins := { inReset := true, sysRstN := false } } = false ∧
    awake ({} : State) = true ∧ readyBit ({} : State) = false ∧
    (∀ e ∈ [(0x100041795, 5, 1), (0x100080002, 2, 2)], Fld.ERR_INJ_ARM.presented (.full (BitVec.ofNat 64 e.1)) = 1 ∧
     ({} : State).written Fld.ERR_INJ_DETECTOR 0 (.full (BitVec.ofNat 64 e.1)) = e.2.1 ∧
     ({} : State).written Fld.ERR_INJ_MODE 0 (.full (BitVec.ofNat 64 e.1)) = e.2.2) := by
  and_intros <;> decide +kernel

/-- A job whose record's line has failed, and one whose table has. -/
theorem witness_CsrWritesCountersAndJobs_more :
    (memRead (exPoison exJobWaiting) 0x10 3 0x100000 256).bad = true ∧
    (readSpans (exPoison exJobWaiting) 0x10 [(0x101000, 32)]).1 = true ∧
    awake ({} : State) = true ∧ xdiesUp ({} : State) = true ∧ pdiesDown ({} : State) = false ∧
    csrSilent (({} : State).setFld Fld.PWR_STATUS_STATE 0 4) 0 = true ∧ csrSized 1 8 = false := by
  and_intros <;> decide +kernel

/-- The reset state's stores are in their canonical forms. -/
theorem witness_EveryStepKeepsTheCanonicalForms_reset : StoresWf State.reset := by
  unfold StoresWf MemWf CsrWf CtxWf
  refine ⟨by decide, by decide, ⟨by decide, fun c => ⟨rfl, rfl, rfl⟩⟩, fun q h => ?_, by decide, fun k => rfl, ?_⟩
  · cases h
  · and_intros <;> rfl
/-! ## Ill-formed commands -/

theorem test_flit_length : wellFormed (.hostFlit 0 [0]) = false := by decide
theorem test_dramWrite_empty : wellFormed (.dramWrite 0x10 0 0 []) = false := by decide
theorem test_dramWrite_over_line : wellFormed (.dramWrite 0x10 0 63 [1, 2]) = false := by decide
theorem test_wbLine_short : wellFormed (.wbLine 0 0 0 false [1]) = false := by decide
theorem test_wrUc_short : wellFormed (.wrUc 0 0 0 0 false [1]) = false := by decide
theorem test_rspDataM_short : wellFormed (.rspDataM 0 0 false [1]) = false := by decide
theorem test_hostData_short : wellFormed (.hostData 0 0 false [1]) = false := by decide
theorem test_lanecheck_lanes : wellFormed (.bringupLanecheck 0x10 (.full 3) [none] (List.replicate 8 0)) = false := by decide
theorem test_memmap_dimms : wellFormed (.bringupMemmap 0x10 (.full 5) (List.replicate 25 ⟨false, 1, 0⟩)) = false := by decide
theorem test_partialReset_tests : wellFormed (.partialResetComplete []) = false := by decide
theorem test_rxWrite_length : wellFormed (.rxWrite 0 exInfo (exHdr 1 8 8) [1]) = false := by decide
theorem test_rxSend_length : wellFormed (.rxSend 0 exInfo (exHdr 2 8 8) [1]) = false := by decide
theorem test_rxReadResp_length : wellFormed (.rxReadResp 0 exInfo (exHdr 4 8 8) [1]) = false := by decide
theorem test_no_table_words : decodeTableWord 32 0x04000000 = none := rfl

/-! ## Instruction words (chapter 04: the worked inner loop, the nop, one word or more of each format from the tables) -/

/-- Words of the worked inner loop. -/
theorem test_words_loop :
    decodeV 0xCC042800 0 = .waitc ⟨0, 4, 5, 0⟩ ∧ decodeV 0x70260000 0 = .vld ⟨1, 6, 0, 0⟩ ∧
    decodeV 0x70460001 0 = .vld ⟨2, 6, 0, 1⟩ ∧ decodeV 0xA0611063 0 = .varith .fma ⟨3, 1, 2, 0, 6⟩ ∧
    decodeV 0x74670000 0 = .vst ⟨3, 7, 0, 0⟩ ∧ decodeV 0x04A50001 0 = .aluI .addi ⟨5, 5, 1⟩ ∧
    decodeV 0x84A8FFFA 0 = .branch .ne ⟨5, 8, 0xFFFA⟩ ∧ decodeV 0x04000000 0 = .aluI .addi ⟨0, 0, 0⟩ := by decide

/-- Scalar words: sub s1, s2, s3; srai s1, s2, 63; ld.d s3, −8(s4); st.w s5, 4(s6); jal s1, +8; jalr s0, 0(s1). -/
theorem test_words_scalar :
    decodeV 0b00000000001000100001100000000001 0 = .alu .sub ⟨1, 2, 3, 0⟩ ∧
    decodeV 0b00011100001000100000000000111111 0 = .aluI .srai ⟨1, 2, 63⟩ ∧
    decodeV 0b01011000011001001111111111111000 0 = .load ⟨8, true⟩ ⟨3, 4, 0xFFF8⟩ ∧
    decodeV 0b01101000101001100000000000000100 0 = .store 4 ⟨5, 6, 4⟩ ∧
    decodeV 0b10011000001000000000000000000010 0 = .jal ⟨1, 2⟩ ∧
    decodeV 0b10011100000000010000000000000000 0 = .jalr ⟨0, 1, 0⟩ := by decide

/-- Long forms: li.l s7, 0x12345678; st.b.l s2, −1(s1). -/
theorem test_words_long :
    decodeV 0b11111100111000000000000100000000 0x12345678 = .liL ⟨7, 0, 0, 0x12345678⟩ ∧
    decodeV 0b11111100010000010001100000000000 0xFFFFFFFF = .storeL 1 ⟨2, 1, 0, 0xFFFFFFFF⟩ := by decide

/-- Vector words: vcmp.i32 p2, v1, v3 with lt under p5; pset p3, s5; vred.f32 v4, v5 max under p1; vscatter v6, s7, v8. -/
theorem test_words_vector :
    decodeV 0b10100100010000010001110100000010 0 = .vcmp 2 ⟨2, 1, 3, 5, 0⟩ ∧
    decodeV 0b10101000011001010000000000000101 0 = .pred .set ⟨3, 5, 0, 0, 0⟩ ∧
    decodeV 0b10101100100001010001000101100111 0 = .vred ⟨4, 5, 2, 1, 6⟩ ∧
    decodeV 0b01111000110001110100000000000010 0 = .vscatter ⟨6, 7, 8, 0, 0⟩ := by decide

/-- Tensor, engine and system words: tmac.int8 a3, 1, s4, s5; scree v1, v2, v3; perm s1, s2, v3; enq s1, s2, 3, 4;
bar s3, 7; halt; csrw 5, s9. -/
theorem test_words_system :
    decodeV 0b11000011010001000010110000000001 0 = .tmac ⟨3, 4, 5, 8, 0, 1⟩ ∧
    decodeV 0b10110100001000100001100000000000 0 = .scree ⟨1, 2, 3, 0, 0⟩ ∧
    decodeV 0b10111000001000100001100000000000 0 = .perm ⟨1, 2, 3, 0⟩ ∧
    decodeV 0b11001000001000100000000001000011 0 = .enq ⟨1, 2, 0x43⟩ ∧
    decodeV 0b11011100000000110000000000000111 0 = .bar ⟨0, 3, 7⟩ ∧
    decodeV 0b11100000000000000000000000000001 0 = .halt 0 0 ∧
    decodeV 0b11010100000010010000000000000101 0 = .csrw ⟨0, 9, 5⟩ := by decide

/-- Majors 0x31 and 0x3E are not in the map. -/
theorem test_words_undefined : decodeV 0xC4000000 0 = .undefined ∧ decodeV 0xF8000000 0 = .undefined := by decide

/-! ## Worked examples of the spec -/

/-- Chapter 00: tile 0x1D3. -/
theorem test_tile_1D3 : regionOf ({} : State) 0xE00011D300000 = .tile 0x1D3 ∧ regionOf ({} : State) 0xE00001D000000 = .stook 0x3A := by
  decide +kernel

/-- Chapter 11: where 0x12345567 lies among 24 channels, without and with hash. -/
theorem test_place_address :
    let s := (({} : State).setFld Fld.MEM_IL_NC 0 24).setFld Fld.MEM_IL_CH_MASK 0 0xFFFFFF
    dramMap s 0x12345567 = (21, 0xC22567) ∧ dramMap (s.setFld Fld.MEM_IL_HASH 0 1) 0x12345567 = (7, 0xC22567) := by
  decide +kernel

/-- Chapter 05: cancellation inside one block. -/
theorem test_cancellation :
    macElem ⟨0, [0x78, 0x01, 0xF8] ++ List.replicate 29 0, []⟩
      { rows := List.replicate 2 (0x78 :: List.replicate 31 0) |>.set 1 (0x01 :: List.replicate 31 0) |>.append
          ((0x78 :: List.replicate 31 0) :: List.replicate 29 (List.replicate 32 0)) } 0 0 = 0x36800000 := by decide +kernel

/-- Chapter 07: step 10,000 of the 40-million-clip job. -/
theorem test_step_10000 :
    permBits 40000000 = 26 ∧ 10000 / (40000000 / 8192) = 2 ∧ (10000 % 4882) * 8192 + 5000 = 1938312 := by decide

/-- Chapter 08: the pixel Y = 100, Cb = 140, Cr = 120 under BT.709, limited range. -/
theorem test_pixel (g : Image) (h : g.matrix = 2) (hf : g.full = false) (hb : g.bd = 8) (hc : g.channels = 3) (hr : g.bgr = false) :
    colourOf g (100, 140, 120) = [83, 100, 123] := by
  unfold colourOf
  rw [h, hf, hb, hc, hr]
  decide

/-- Chapter 05: the scales of rows A and B of the MXFP8 example. -/
theorem test_mxfp8_scales :
    mxScale 2 [.fin false 300 0] = 0x7F ∧ mxScale 2 [.fin false 1000 0, .fin false 3 0] = 0x80 := by decide

end Sys2Proof.Machine
end

