-- ==== Sys2Proof/Proofs/Permutation.lean ====
section
/-!
PROOF. The permutation of the samples (R215 to R217): each Feistel round is undone by the exclusive or with the same round function,
so a pass is one to one on the values of n bits; and the walk stops at the first value below N that its passes return to, which a
one to one map reaches within the passes allowed and from no other start below N.
-/
namespace Sys2Proof.Machine

/-! ## First returns of a one to one map -/

/-- More numbers than places: of `n + 1` numbers below `n`, two are equal. -/
theorem exists_lt_eq {n : Nat} {g : Nat → Nat} (hg : ∀ a, a ≤ n → g a < n) : ∃ a b, a < b ∧ b ≤ n ∧ g a = g b := by
  induction n generalizing g with
  | zero => exact absurd (hg 0 (Nat.le_refl 0)) (Nat.not_lt_zero _)
  | succ n ih =>
    by_cases hlast : ∃ a, a ≤ n ∧ g a = g (n + 1)
    · obtain ⟨a, ha, h⟩ := hlast
      exact ⟨a, n + 1, by omega, Nat.le_refl _, h⟩
    · have hne : ∀ a, a ≤ n → g a ≠ g (n + 1) := fun a ha h => hlast ⟨a, ha, h⟩
      have hl := hg (n + 1) (Nat.le_refl _)
      -- The place `n`, if it is taken, is moved to the one of the last number.
      obtain ⟨a, b, hab, hb, h⟩ := ih (g := fun a => if g a = n then g (n + 1) else g a) fun a ha => by
        have := hg a (by omega)
        have := hne a ha
        split <;> omega
      have := hne a (by omega)
      have := hne b hb
      refine ⟨a, b, hab, by omega, ?_⟩
      split at h <;> split at h <;> omega

/-- A map takes the numbers below `M` one to one to numbers below `M`. -/
structure OneToOneBelow (f : Nat → Nat) (M : Nat) : Prop where
  lt : ∀ {x}, x < M → f x < M
  inj : ∀ {x y}, x < M → y < M → f x = f y → x = y

theorem repeat_succ_inner (f : Nat → Nat) (a x : Nat) : Nat.repeat f (a + 1) x = Nat.repeat f a (f x) := by
  induction a with
  | zero => rfl
  | succ a ih => exact congrArg f ih

/-- `a` applications are the fewest, at least one, that bring `x` below `N`. -/
def FirstReturn (f : Nat → Nat) (N x a : Nat) : Prop :=
  0 < a ∧ Nat.repeat f a x < N ∧ ∀ b, 0 < b → b < a → N ≤ Nat.repeat f b x

namespace OneToOneBelow

variable {f : Nat → Nat} {M N x y a b : Nat} (hf : OneToOneBelow f M)
include hf

theorem repeat_lt (hx : x < M) (a : Nat) : Nat.repeat f a x < M := by
  induction a with
  | zero => exact hx
  | succ a ih => exact hf.lt ih

theorem repeat_cancel (hx : x < M) (hy : y < M) (hab : a ≤ b) (h : Nat.repeat f a x = Nat.repeat f b y) :
    x = Nat.repeat f (b - a) y := by
  obtain ⟨c, rfl⟩ := Nat.exists_eq_add_of_le hab
  rw [Nat.add_sub_cancel_left]
  clear hab
  induction a with
  | zero => rwa [Nat.zero_add] at h
  | succ a ih =>
    rw [Nat.succ_add] at h
    exact ih (hf.inj (hf.repeat_lt hx a) (hf.repeat_lt hy (a + c)) h)

/-- The values from `N` to `M` are fewer than the passes allowed: two passes that stayed there would meet, and then one would
have returned to the start. -/
theorem exists_return (hx : x < N) (hN : N ≤ M) : ∃ a, 0 < a ∧ a ≤ M - N + 1 ∧ Nat.repeat f a x < N := by
  have hxM : x < M := by omega
  refine Classical.byContradiction fun hno => ?_
  have hstays : ∀ a, a ≤ M - N → N ≤ Nat.repeat f (a + 1) x := fun a ha =>
    Nat.le_of_not_lt fun h => hno ⟨a + 1, a.succ_pos, by omega, h⟩
  obtain ⟨a, b, hab, hb, h⟩ := exists_lt_eq (n := M - N) (g := fun a => Nat.repeat f (a + 1) x - N) fun a ha => by
    have := hstays a ha
    have := hf.repeat_lt hxM (a + 1)
    omega
  have ha' := hstays a (by omega)
  have hb' := hstays b hb
  have hx' := hf.repeat_cancel hxM hxM (a := a + 1) (b := b + 1) (by omega) (by omega)
  have := hstays (b - a - 1) (by omega)
  rw [show b - a - 1 + 1 = b + 1 - (a + 1) by omega] at this
  omega

theorem firstReturn_inj_of_le (hx : x < N) (hy : y < M) (hN : N ≤ M) (ha : FirstReturn f N x a) (hb : FirstReturn f N y b)
    (h : Nat.repeat f a x = Nat.repeat f b y) (hab : a ≤ b) : x = y := by
  obtain ⟨ha0, -, -⟩ := ha
  obtain ⟨-, -, hfirst⟩ := hb
  have hxy := hf.repeat_cancel (by omega) hy hab h
  obtain rfl | hlt := Nat.eq_or_lt_of_le hab
  · rwa [Nat.sub_self] at hxy
  · have := hfirst (b - a) (by omega) (by omega)
    omega

/-- Two starts below `N` that first return to one value are the same: else the later one would have passed through the other. -/
theorem firstReturn_inj (hx : x < N) (hy : y < N) (hN : N ≤ M) (ha : FirstReturn f N x a) (hb : FirstReturn f N y b)
    (h : Nat.repeat f a x = Nat.repeat f b y) : x = y := by
  obtain hab | hba := Nat.le_total a b
  · exact hf.firstReturn_inj_of_le hx (by omega) hN ha hb h hab
  · exact (hf.firstReturn_inj_of_le hy (by omega) hN hb ha h.symm hba).symm

end OneToOneBelow

/-! ## The walk -/

/-- The walk gives the first return, if the passes allowed reach one. -/
theorem permWalk_firstReturn (seed : Quad) (epoch n N : Nat) {k x : Nat}
    (h : ∃ a, 0 < a ∧ a ≤ k ∧ Nat.repeat (permPass seed epoch n) a x < N) :
    ∃ a, FirstReturn (permPass seed epoch n) N x a ∧ permWalk seed epoch n N k x = Nat.repeat (permPass seed epoch n) a x := by
  induction k generalizing x with
  | zero =>
    obtain ⟨a, ha0, hak, -⟩ := h
    omega
  | succ k ih =>
    obtain ⟨a, ha0, hak, ha⟩ := h
    by_cases hy : permPass seed epoch n x < N
    · exact ⟨1, ⟨Nat.one_pos, hy, fun b _ _ => by omega⟩, if_pos hy⟩
    · match a with
      | 1 => exact absurd ha hy
      | c + 2 =>
        rw [repeat_succ_inner] at ha
        obtain ⟨b, ⟨-, hbN, hfirst⟩, hw⟩ := ih ⟨c + 1, c.succ_pos, by omega, ha⟩
        rw [← repeat_succ_inner] at hbN hw
        refine ⟨b + 1, ⟨b.succ_pos, hbN, fun e he0 heb => ?_⟩, (if_neg hy).trans hw⟩
        match e with
        | 1 => exact Nat.le_of_not_lt hy
        | e + 2 =>
          rw [repeat_succ_inner]
          exact hfirst (e + 1) e.succ_pos (by omega)

/-! ## One pass -/

theorem permF_lt (seed : Quad) (epoch m j h : Nat) : permF seed epoch m j h < 2 ^ m := Nat.mod_lt _ (Nat.two_pow_pos m)

theorem xor_right_cancel {l l' k : Nat} (h : l ^^^ k = l' ^^^ k) : l = l' := by
  rw [← Nat.xor_zero l, ← Nat.xor_self k, ← Nat.xor_assoc, h, Nat.xor_assoc, Nat.xor_self, Nat.xor_zero]

/-- Rounds keep both halves in their m bits. -/
theorem feistel_lt (seed : Quad) (epoch m n j : Nat) {p : Nat × Nat} (hl : p.1 < 2 ^ m) (hr : p.2 < 2 ^ m) :
    (feistel seed epoch m n j p).1 < 2 ^ m ∧ (feistel seed epoch m n j p).2 < 2 ^ m := by
  induction n generalizing j p with
  | zero => exact ⟨hl, hr⟩
  | succ n ih => exact ih (j + 1) hr (Nat.xor_lt_two_pow hl (permF_lt seed epoch m j p.2))

/-- A round keeps the right half, whose round function undoes the exclusive or of the left one. -/
theorem feistel_injective (seed : Quad) (epoch m n j : Nat) : Function.Injective (feistel seed epoch m n j) := by
  induction n generalizing j with
  | zero => exact fun _ _ h => h
  | succ n ih =>
    rintro ⟨l, r⟩ ⟨l', r'⟩ h
    obtain ⟨rfl, hx⟩ := Prod.mk.inj (ih (j + 1) h)
    rw [xor_right_cancel hx]

/-- The two halves of a value of 2m bits. -/
def halves (m x : Nat) : Nat × Nat := (x >>> m, x % 2 ^ m)

theorem halves_lt {m x : Nat} (hx : x < 2 ^ (2 * m)) : (halves m x).1 < 2 ^ m ∧ (halves m x).2 < 2 ^ m := by
  refine ⟨?_, Nat.mod_lt _ (Nat.two_pow_pos m)⟩
  rwa [halves, Nat.shiftRight_eq_div_pow, Nat.div_lt_iff_lt_mul (Nat.two_pow_pos m), ← Nat.pow_add, ← Nat.two_mul]

theorem halves_injective (m : Nat) : Function.Injective (halves m) := by
  intro x y h
  obtain ⟨hq, hr⟩ := Prod.mk.inj h
  rw [Nat.shiftRight_eq_div_pow, Nat.shiftRight_eq_div_pow] at hq
  rw [← Nat.div_add_mod x (2 ^ m), hq, hr, Nat.div_add_mod]

theorem halves_shiftLeft_or {m l r : Nat} (hr : r < 2 ^ m) : halves m (l <<< m ||| r) = (l, r) := by
  rw [← Nat.shiftLeft_add_eq_or_of_lt hr, halves, Nat.shiftRight_eq_div_pow, Nat.shiftLeft_eq, Nat.mul_add_mod_self_right,
    Nat.mod_eq_of_lt hr, Nat.mul_comm, Nat.mul_add_div (Nat.two_pow_pos m), Nat.div_eq_of_lt hr, Nat.add_zero]

/-- On an even number of bits, a pass is eight rounds on the halves. -/
theorem halves_permPass (seed : Quad) (epoch : Nat) {m x : Nat} (hx : x < 2 ^ (2 * m)) :
    halves m (permPass seed epoch (2 * m) x) = feistel seed epoch m 8 0 (halves m x) := by
  have h := (feistel_lt seed epoch m 8 0 (halves_lt hx).1 (halves_lt hx).2).2
  rw [permPass, Nat.mul_div_cancel_left m Nat.two_pos]
  exact halves_shiftLeft_or h

theorem permPass_lt (seed : Quad) (epoch : Nat) {m x : Nat} (hx : x < 2 ^ (2 * m)) : permPass seed epoch (2 * m) x < 2 ^ (2 * m) := by
  obtain ⟨hl, -⟩ := feistel_lt seed epoch m 8 0 (halves_lt hx).1 (halves_lt hx).2
  rw [← halves_permPass seed epoch hx, halves, Nat.shiftRight_eq_div_pow, Nat.div_lt_iff_lt_mul (Nat.two_pow_pos m),
    ← Nat.pow_add, ← Nat.two_mul] at hl
  exact hl

/-- A pass is undone half by half and round by round. -/
theorem permPass_oneToOne (seed : Quad) (epoch m : Nat) : OneToOneBelow (permPass seed epoch (2 * m)) (2 ^ (2 * m)) where
  lt := permPass_lt seed epoch
  inj {x y} hx hy h := by
    apply halves_injective m
    apply feistel_injective seed epoch m 8 0
    rw [← halves_permPass seed epoch hx, ← halves_permPass seed epoch hy, h]

/-! ## The permutation -/

/-- The width of the domain is even, and the domain holds every index. -/
theorem permBits_spec {N : Nat} (hN : N ≤ 2 ^ 48) : ∃ m, permBits N = 2 * m ∧ N ≤ 2 ^ (2 * m) := by
  unfold permBits
  cases h : (List.range 32).find? (fun k => N ≤ 2 ^ (2 * k + 2)) with
  | none => exact ⟨32, rfl, Nat.le_trans hN (by decide)⟩
  | some k => exact ⟨k + 1, rfl, of_decide_eq_true (List.find?_some h :)⟩

theorem permIndex_firstReturn (seed : Quad) (epoch : Nat) {N m i : Nat} (hm : permBits N = 2 * m) (hN : N ≤ 2 ^ (2 * m)) (hi : i < N) :
    ∃ a, FirstReturn (permPass seed epoch (2 * m)) N i a ∧ permIndex seed epoch N i = Nat.repeat (permPass seed epoch (2 * m)) a i := by
  rw [permIndex, hm]
  exact permWalk_firstReturn seed epoch (2 * m) N ((permPass_oneToOne seed epoch m).exists_return hi hN)

/-- Settles O29: the permutation takes an index to the first return of a one to one map. -/
theorem permutationIsOneToOne : Obligations.PermutationIsOneToOne := by
  intro seed epoch N _ hN
  obtain ⟨m, hm, hNm⟩ := permBits_spec hN
  refine ⟨fun i hi => ?_, fun i j hi hj h => ?_⟩
  · obtain ⟨a, ⟨-, hlt, -⟩, he⟩ := permIndex_firstReturn seed epoch hm hNm hi
    exact he ▸ hlt
  · obtain ⟨a, ha, hea⟩ := permIndex_firstReturn seed epoch hm hNm hi
    obtain ⟨b, hb, heb⟩ := permIndex_firstReturn seed epoch hm hNm hj
    rw [hea, heb] at h
    exact (permPass_oneToOne seed epoch m).firstReturn_inj hi hj hNm ha hb h

end Sys2Proof.Machine
end

