-- ==== Sys2Proof/Proofs/PermutationJobs.lean ====
section
/-!
PROOF. Jobs of the permutation unit (R222 to R225, R235) and replacement messages (R229 to R232): what taking a job, opening the
gate, serving a request and receiving a reply answer in each of their cases.
-/
namespace Sys2Proof.Machine

/-! ## Shared by the units -/

theorem takesOp_own (defined : List Nat) {op : Nat} {j : Job} (h : j.op = op) : takesOp defined op j = true := by
  simp [takesOp, h]

theorem internalParity_unarmed {u : EngUnit} {r : Started} (h : injFire r.st 11 (unitMaster u) = none)
    (fix : Started → List Byte) : internalParity u r fix = r := by
  unfold internalParity
  split
  · rfl
  · rw [h]

/-! ## What a job does when it starts -/

/-- What an operation of the unit makes of its table (R222, R228, R232). -/
def permOutcome (s : State) (j : Job) (c : PermCtx) (t : ShardTable) : Started :=
  match j.op with
  | 1 | 2 => permRange s j c t
  | 3 => permReplaceRun s j c t
  | _ => { status := 0, st := s }

section
variable {d : PDie} {s s1 : State} {j : Job}

theorem permWork_poisoned (hr : readSpans s (unitMaster (.perm d)) (permTables d s j) = (true, s1)) :
    permWork d s j = failWith s1 0x80 := by
  simp [permWork, hr]

theorem permWork_table {t : ShardTable} (hr : readSpans s (unitMaster (.perm d)) (permTables d s j) = (false, s1))
    (ht : selectTable s1 (permCtx s d j.jobId) (permStep (permCtx s d j.jobId) j) = some t) :
    permWork d s j = permOutcome s1 j (permCtx s d j.jobId) t := by
  simp only [permWork, hr, ht]
  rfl

/-! ## Taking the next job -/

theorem permTake_starts {op : Nat} {r : Started} (hc : permChecks d s j = (0, s1)) (hg : gateHolds s d j = false)
    (ho : openedHeld s d = none) (hr : permWork d s1 j = r) (hs : StartsNext s (.perm d) op 4 j (permReads d s j) r) :
    .next (permTake s d op) = begun (.perm d) j r := by
  obtain ⟨hw, hop, hroom, hgo, hinj⟩ := hs
  simp [permTake, begun, hw, takesOp_own _ hop, hgo, hc, hg, hroom, ho, hr, internalParity_unarmed hinj]

theorem permTake_holds {op : Nat} (hop : j.op = op) (hc : permChecks d s j = (0, s1)) (hg : gateHolds s d j = true)
    (hw : firstWaiting s (.perm d) = some j) (hgo : prepare s (unitMaster (.perm d)) (permReads d s j) [] = .go)
    (hroom : phaseCount (jobsOf s (.perm d)) .held < 16) :
    permTake s d op =
      dropHost (updateJob s1 (.perm d) j.seq (fun j => { j with phase := .held })) (unitMaster (.perm d)) := by
  simp [permTake, hw, takesOp_own _ hop, hgo, hc, hg, hroom]

theorem permTake_refuses {op e : Nat} (hop : j.op = op) (hc : permChecks d s j = (e, s1)) (he : e ≠ 0)
    (hw : firstWaiting s (.perm d) = some j) (hgo : prepare s (unitMaster (.perm d)) (permReads d s j) [] = .go) :
    permTake s d op = dropHost (refuseJob (.perm d) j (failWith s1 e)) (unitMaster (.perm d)) := by
  simp [permTake, hw, takesOp_own _ hop, hgo, hc, he]

theorem permGate_starts {i : Nat} {r : Started}
    (hi : ((jobsOf s (.perm d)).filter (fun j => j.phase = .held))[i]? = some j) (ho : openedHeld s d = some j)
    (hroom : phaseCount (jobsOf s (.perm d)) .running < 4)
    (hgo : prepare s (unitMaster (.perm d)) (permReads d s j) [] = .go) (hr : permWork d s j = r)
    (hinj : injFire r.st 11 (unitMaster (.perm d)) = none) :
    .next (permGate s d i) = begun (.perm d) j r := by
  simp [permGate, begun, hi, ho, Nat.not_le.2 hroom, hgo, hr, internalParity_unarmed hinj]

end

/-! ## Serving a replacement request -/

/-- The answer to a request: the reply with its outcome and status goes to the asking module. -/
def repliesWith (t : State) (r : ReplRequest) (out st : Nat) : Answer :=
  .next (dropHost (sendRepl t r.job.toNat r.serving.toNat
    (replyBytes r.job.toNat r.attempt.toNat out st r.position.toNat r.tag.toNat (moduleId t))) 0x10)

section
variable {s t : State} {r : ReplRequest} {o : ServeOutcome} {j : LoadedJob} {e : List Byte}

theorem execReplacementRequest_go {out st : Nat} (hgo : prepare s 0x10 (requestSpans s r) [] = .go)
    (h : serveRequest s r.job.toNat r.step.toNat r.index.toNat o = (out, st, t)) :
    exec (.replacementRequest r o) s = repliesWith t r out st := by
  change execReplacementRequest r o s = _
  simp only [execReplacementRequest, hgo, h]
  rfl

/-- The outcome of the work on a sample that the catalog lists (R230). -/
def workOutcome (s : State) : ServeOutcome → Nat × Nat × State
  | .written => (0, 0, s)
  | .rejected => (1, 0, s)
  | .corrupt st => (2, asFailure s st.toNat)
  | .refused st => (4, asFailure s st.toNat)

theorem asFailure_of_isFailure {c : Nat} (s : State) (h : isFailure c = true) : asFailure s c = (c, s) := by
  simp [asFailure, h]

theorem workOutcome_corrupt {st : BitVec 8} (s : State) (h : isFailure st.toNat = true) :
    workOutcome s (.corrupt st) = (2, st.toNat, s) := by
  rw [workOutcome, asFailure_of_isFailure s h]

theorem workOutcome_refused {st : BitVec 8} (s : State) (h : isFailure st.toNat = true) :
    workOutcome s (.refused st) = (4, st.toNat, s) := by
  rw [workOutcome, asFailure_of_isFailure s h]

variable {job step idx : Nat} (hj : s.jobs.find? (fun j => j.id == job) = some j) (hb : stepBeyond (leAt j.desc 0x28 4) step = false)
include hj hb

theorem serveRequest_poisoned (hr : readSpans s 0x10 (catalogSpans s j idx) = (true, t)) :
    serveRequest s job step idx o = (4, anyFailure t) := by
  simp [serveRequest, hj, hb, hr]

theorem serveRequest_unlisted (hr : readSpans s 0x10 (catalogSpans s j idx) = (false, t)) (he : catalogEntry t j idx = none) :
    serveRequest s job step idx o = (3, 0, t) := by
  simp [serveRequest, hj, hb, hr, he]

theorem serveRequest_corrupt (hr : readSpans s 0x10 (catalogSpans s j idx) = (false, t)) (he : catalogEntry t j idx = some e)
    (hc : entryCorrupt e = true) : serveRequest s job step idx o = (2, anyFailure t) := by
  simp [serveRequest, hj, hb, hr, he, hc]

theorem serveRequest_listed (hr : readSpans s 0x10 (catalogSpans s j idx) = (false, t)) (he : catalogEntry t j idx = some e)
    (hc : entryCorrupt e = false) : serveRequest s job step idx o = workOutcome t o := by
  cases o <;> simp [serveRequest, hj, hb, hr, he, hc, workOutcome]

end

/-! ## Receiving a replacement reply -/

section
variable {s : State} {r : ReplReply} {t : ReplTry} (ht : tryOf s r.job.toNat r.position.toNat = some t) (hp : t.phase = .sent)
  (ha : t.attempt = r.attempt.toNat) (hg : t.tag = r.tag.toNat)
include ht hp ha hg

theorem replacementReply_written (h : r.outcome.toNat = 0) : exec (.replacementReply r) s =
    .next { dropTry s t.job t.position with slots := s.slots ++ [⟨t.job, t.position, true⟩] } := by
  change execReplacementReply r s = _
  simp [execReplacementReply, ht, hp, ha, hg, h]

theorem replacementReply_fails (h0 : r.outcome.toNat ≠ 0)
    (h : r.outcome.toNat ≠ 3 ∧ r.outcome.toNat ≠ 4 ∨ t.alternate = none) :
    exec (.replacementReply r) s = .next (failTry s t) := by
  change execReplacementReply r s = _
  simp only [execReplacementReply, ht, hp, ha, hg, ne_eq, not_true_eq_false, or_self, if_false]
  split
  case h_1 h' => exact absurd h' h0
  case h_2 h' => simp [h.resolve_left (fun hn => hn.1 h')]
  case h_3 h' => simp [h.resolve_left (fun hn => hn.2 h')]
  case h_4 => rfl

theorem replacementReply_asks_alternate {alt : Nat} (h : r.outcome.toNat = 3 ∨ r.outcome.toNat = 4) (hal : t.alternate = some alt) :
    exec (.replacementReply r) s = .next (sendRepl (setTry { s with replSeq := (s.replSeq + 1) % 2 ^ 32 }
        { t with dest := alt, alternate := none, tag := s.replSeq }) t.job alt
      (requestBytes t.job t.attempt (t.position / (permCtx s 0 t.job).B) t.position t.index (moduleId s) s.replSeq)) := by
  change execReplacementReply r s = _
  obtain h | h := h <;>
    (simp only [execReplacementReply, ht, hp, ha, hg, h, hal, ne_eq, not_true_eq_false, or_self, if_false]; rfl)

end

theorem failTry_eq (s : State) (t : ReplTry) : failTry s t = setTry s (if t.attempt < 15
    then { t with attempt := t.attempt + 1, phase := .due, alternate := none }
    else { t with phase := .void, alternate := none }) := by
  rw [apply_ite (setTry s)]
  rfl

/-! ## The obligation -/

/-- Settles O30: each case of taking a job, of the gate and of the two messages is one of the lemmas above. -/
theorem permutationAndReplacementJobsRun : Obligations.PermutationAndReplacementJobsRun := by
  refine ⟨?_, ?_, ?_, ?_, ?_⟩
  · intro s s1 s2 d j t u m c range hc
    refine ⟨fun hr ht hg ho => ?_, fun hr hg ho op hs => ?_, fun hg hw hgo hroom => ?_⟩
    · have hwork := permWork_table hr ht
      have starts {op : Nat} {r : Started} (hout : permOutcome s2 j c t = r) (hs : StartsNext s u op 4 j (permReads d s j) r) :
          .next (permTake s d op) = begun u j r := permTake_starts hc hg ho (hwork.trans hout) hs
      exact ⟨fun hs => starts (by simp [permOutcome, hs.2.1, range]) hs, fun hs => starts (by simp [permOutcome, hs.2.1, range]) hs,
        fun hs => starts (by simp [permOutcome, hs.2.1]) hs, fun hs => starts (by simp [permOutcome, hs.2.1]) hs⟩
    · have hstart := permTake_starts hc hg ho (permWork_poisoned hr) hs
      exact ⟨by rintro rfl; exact hstart, by rintro rfl; exact hstart⟩
    · exact ⟨fun hop => congrArg _ (permTake_holds hop hc hg hw hgo hroom), fun hop => congrArg _ (permTake_holds hop hc hg hw hgo hroom)⟩
  · intro s s2 d i j t u c hr hctx ht hi ho hroom hgo hop hinj
    refine permGate_starts (r := permRange s2 j c t) hi ho hroom hgo ?_ hinj
    rw [permWork_table hr (by rw [hctx]; exact ht), hctx]
    obtain hop | hop := hop <;> simp [permOutcome, hop]
  · intro s s1 d j e hc he hw hgo r
    have refuses {op : Nat} (hop : j.op = op) : Host.Outcome.next (permTake s d op) = r :=
      congrArg _ (permTake_refuses hop hc he hw hgo)
    exact ⟨refuses, refuses, refuses, refuses⟩
  · intro s s1 r j e bad hj hb hgo hr reply
    refine ⟨?_, ?_, ?_, ?_⟩
    · rintro rfl o
      exact execReplacementRequest_go hgo (serveRequest_poisoned hj hb hr)
    · rintro rfl he o
      exact execReplacementRequest_go hgo (serveRequest_unlisted hj hb hr he)
    · rintro rfl he hc o
      exact execReplacementRequest_go hgo (serveRequest_corrupt hj hb hr he hc)
    · rintro rfl he hc
      have serves {o : ServeOutcome} {out st : Nat} (ho : workOutcome s1 o = (out, st, s1)) :
          exec (.replacementRequest r o) s = repliesWith s1 r out st :=
        execReplacementRequest_go hgo ((serveRequest_listed hj hb hr he hc).trans ho)
      exact ⟨serves rfl, serves rfl, fun st hst => ⟨serves (workOutcome_corrupt s1 hst), serves (workOutcome_refused s1 hst)⟩⟩
  · intro s r t ht hp ha hg fails
    exact ⟨replacementReply_written ht hp ha hg,
      fun h0 h => (replacementReply_fails ht hp ha hg h0 h).trans (congrArg _ (failTry_eq s t)),
      fun alt => replacementReply_asks_alternate ht hp ha hg⟩

end Sys2Proof.Machine
end

