-- ==== Sys2Proof/Proofs/BalerJobs.lean ====
section
/-!
PROOF. Jobs of the baler (R243, R249 to R252): what taking the next job and opening the window gate answer when the job ends at its
checks, is held by the window, or starts.
-/
namespace Sys2Proof.Machine

/-! ## What a job does when it starts -/

/-- The outcome of a baler job that passed its checks in `t` and read good input into `s1`: status OK, the length and number of its
writes, its record (R249, R255). -/
def balerOutcome (t s1 : State) (d : Nat) (j : Job) : Started :=
  let c := balerCtx t d j.jobId
  let ws := balerWrites t c (consumerEntry t c (consumerOf c j.slot)) j
  { status := 0, xfer := ws.foldl (fun n w => n + w.2.1.length) 0, aux := [ws.length], st := s1,
    eng := balerEng 0 (consumerOf c j.slot) ((jobMapByte j).getD 0) 0 }

/-- The job is started with that outcome and its writes are handed to the RoCE engine. -/
def balerLaunched (t s1 : State) (d : Nat) (j : Job) : State :=
  balerLaunch (dropHost (startJob (.baler d) j (balerOutcome t s1 d j)) (unitMaster (.baler d))) d j

section
variable {s t s1 : State} {d : Nat} {j : Job} {ds : List (List Byte)}

theorem balerWork_good (hr : readRows t (unitMaster (.baler d)) (balerSpans j) = (ds, false, s1)) :
    balerWork d t j = balerOutcome t s1 d j := by
  simp [balerWork, hr, balerOutcome]

theorem balerBegin_starts (hgo : prepare s (unitMaster (.baler d)) (balerReads d s j) [] = .go)
    (hr : readRows t (unitMaster (.baler d)) (balerSpans j) = (ds, false, s1))
    (hinj : injFire s1 11 (unitMaster (.baler d)) = none) : balerBegin s t d j = balerLaunched t s1 d j := by
  have hpar : internalParity (.baler d) (balerOutcome t s1 d j) = balerOutcome t s1 d j :=
    internalParity_unarmed (r := balerOutcome t s1 d j) hinj _
  simp [balerBegin, hgo, balerWork_good hr, hpar, balerLaunched]

/-! ## Taking the next job -/

section
variable {op : Nat} (hop : j.op = op) (hw : firstWaiting s (.baler d) = some j)
  (hgo : prepare s (unitMaster (.baler d)) (balerCheckReads s d j) [] = .go)
include hop hw hgo

theorem balerTake_refuses {r : Started} (hc : balerChecks s d j = (some r, t)) :
    balerTake s d op = dropHost (refuseJob (.baler d) j r) (unitMaster (.baler d)) := by
  simp [balerTake, hw, takesOp_own _ hop, hgo, hc]

theorem balerTake_holds (hc : balerChecks s d j = (none, t)) (hwin : windowOpen s d j = false)
    (hroom : phaseCount (jobsOf s (.baler d)) .held < 32) :
    balerTake s d op = dropHost (updateJob t (.baler d) j.seq
      (fun j => { j with phase := .held, eng := balerEng 0 (balerConsumer s d j) 0 0 })) (unitMaster (.baler d)) := by
  simp [balerTake, hw, takesOp_own _ hop, hgo, hc, hwin, hroom]

theorem balerTake_begins (hc : balerChecks s d j = (none, t)) (hwin : windowOpen s d j = true) (ho : openHeld s d = [])
    (hroom : phaseCount (jobsOf s (.baler d)) .running < 8) : balerTake s d op = balerBegin s t d j := by
  simp [balerTake, hw, takesOp_own _ hop, hgo, hc, hwin, ho, Nat.not_le.2 hroom]

end

/-! ## The window gate -/

theorem balerGate_begins {i : Nat} (hi : ((jobsOf s (.baler d)).filter (fun j => j.phase = .held))[i]? = some j)
    (ho : (openHeld s d).head? = some j) (hroom : phaseCount (jobsOf s (.baler d)) .running < 8) :
    balerGate s d i = balerBegin s s d j := by
  simp [balerGate, hi, ho, Nat.not_le.2 hroom]

end

/-- Each start row of the baler takes the next job when that job has the row's operation. -/
theorem balerRows_of_balerTake {s r : State} {d : PDie} {j : Job} (h : ∀ {op}, j.op = op → balerTake s d op = r) :
    (j.op = 1 → exec (.balerImage d) s = .next r) ∧ (j.op = 2 → exec (.balerCopy d) s = .next r) ∧
      (j.op = 3 → exec (.balerVoid d) s = .next r) ∧ (j.op = 4 → exec (.balerClose d) s = .next r) ∧
      (j.op = 5 → exec (.balerZero d) s = .next r) := by
  have hrow {op : Nat} (hop : j.op = op) : (.next (balerTake s d op) : Answer) = .next r := congrArg _ (h hop)
  exact ⟨hrow, hrow, hrow, hrow, hrow⟩

/-! ## The obligation -/

/-- Settles O31: each way that taking a job and the window gate can answer is one of the lemmas above. -/
theorem balerJobsRun : Obligations.BalerJobsRun := by
  intro s d j u m launch rows
  refine ⟨fun t hw hgo hc => ⟨fun ds s1 hwin ho hroom hreads hr hinj => ?_, fun hwin hroom => ?_⟩, fun r t hw hgo hc => ?_,
    fun i ds s1 hi ho hroom hreads hr hinj => ?_⟩
  · exact balerRows_of_balerTake fun hop =>
      (balerTake_begins hop hw hgo hc hwin ho hroom).trans (balerBegin_starts hreads hr hinj)
  · exact balerRows_of_balerTake fun hop => balerTake_holds hop hw hgo hc hwin hroom
  · exact balerRows_of_balerTake fun hop => balerTake_refuses hop hw hgo hc
  · exact congrArg _ ((balerGate_begins hi ho hroom).trans (balerBegin_starts hreads hr hinj))

end Sys2Proof.Machine
end

