-- ==== Sys2Proof/Proofs/TokenJobs.lean ====
section
/-!
PROOF. Jobs of the token engine (R262 to R264, R267, R270, R276 to R278): what the run of a job with each operation comes to where
its checks pass, and that the start row of its operation starts it with that outcome.
-/
namespace Sys2Proof.Machine

/-! ## What a job does when it runs -/

/-- A job that ends with status OK and leaves a slot with a new content (R262, R263). -/
def slotOutcome (s : State) (d : Nat) (j : Job) (v : Option Vocab) : Started :=
  { status := 0, st := withEffect s d { seq := j.seq, status := 0, slot := some (tokSlot j, v) } }

/-- The state in which a job will, when it ends with a status, leave its session as `x` (R278). -/
def leavesSession (s : State) (d : Nat) (j : Job) (status : Nat) (x : Option Session) : State :=
  withEffect s d { seq := j.seq, status := status, sess := some (tokSession j, x) }

/-- The outcome of a TOKENIZE whose tokens fit, with the merges applied and the bytes outside well-formed text (R264, R280). -/
def tokenizeOutcome (s : State) (j : Job) (ts : List Nat) (merges others : Nat) : Started :=
  { status := 0, xfer := 4 * ts.length, eng := tokenizeEng ts.length merges others 0, st := s,
    writes := [(leAt j.desc 0x18 8, ts.flatMap (leBytes 4))] }

/-- The outcome of an OPEN of a block without stop strings, trie and bans (R267, R280). -/
def openOutcome (s : State) (d : Nat) (j : Job) (b : List Byte) : Started :=
  { status := 0, eng := stepEng 0xFFFFFFFF 0 0 0 0 0 0,
    st := leavesSession s d j 0 (some { slot := tokSlot j, block := b }) }

/-- The candidates in the input of a STEP: token and score (R270). -/
def stepCands (j : Job) (ds : List Byte) : List (Nat × Nat) :=
  (List.range (leAt j.desc 0x0C 4)).map (fun i => (leAt ds (8 * i) 4, leAt ds (8 * i + 4) 4))

/-- The outcome of a STEP of session `x` that comes to `q`, for a node without children: the token it stores, the text it releases,
the session after it (R272, R273, R280). -/
def stepOutcome (d : Nat) (j : Job) (x : Session) (q : StepRes) : Started :=
  { status := reasonStatus q.reason, xfer := q.text.length, aux := [q.stored, q.reason],
    eng := stepEng q.token q.reason 0 q.text.length q.sess.tokens 0 q.sess.hold.length,
    writes := (if q.stored = 0 then [] else [(leAt x.block 0x38 8 + 4 * x.tokens, leBytes 4 q.token)])
      ++ (if q.text.isEmpty then [] else [(leAt x.block 0x28 8 + x.released, q.text)]),
    st := leavesSession q.st d j (reasonStatus q.reason) (some q.sess) }

theorem allowedList_nil (V cap : Nat) (bans : List Byte) : allowedList V cap bans [] = [] := by
  simp [allowedList]

section
variable {s s1 s2 : State} {d : Nat} {j : Job} {v : Vocab}

theorem tokenizeRun_fits {text : List Byte} {ts ls : List Nat} {m k : Nat} (hv : slotOf (tokOf s d) (tokSlot j) = some v)
    (hsp : ownSpans s j.origin [(leAt j.desc 0x10 8, leAt j.desc 0x0C 4), (leAt j.desc 0x18 8, 4 * leAt j.desc 0x20 4)] = 0)
    (hr : memRead s (unitMaster (.token d)) 3 (leAt j.desc 0x10 8) (leAt j.desc 0x0C 4) = ⟨text, false, s1⟩)
    (ht : tokenize s1 v text = (ts, m, k, ls)) (hl : readLines s1 ls = (false, s2)) (hfit : ts.length ≤ leAt j.desc 0x20 4) :
    tokenizeRun d s j = tokenizeOutcome s2 j ts m k := by
  simp [tokenizeRun, hv, hsp, hr, ht, hl, Nat.not_lt.2 hfit, tokenizeOutcome]

theorem openRun_plain {b : List Byte} (hv : slotOf (tokOf s d) (tokSlot j) = some v)
    (hx : sessionOf (tokOf s d) (tokSession j) = none)
    (hsp : ownSpans s j.origin [(leAt j.desc 0x10 8, 128), (leAt j.desc 0x18 8, 4 * leAt j.desc 0x20 4)] = 0)
    (hr : memRead s (unitMaster (.token d)) 3 (leAt j.desc 0x10 8) 128 = ⟨b, false, s1⟩)
    (hb : ownSpans s1 j.origin (blockSpans b v.tokens) = 0) (hstops : stopCount b = 0)
    (hok : blockOk s1 (leAt j.desc 0x10 8) b [] = true) (htrie : trieAddr b = 0) (hban : banAddr b = 0) :
    openRun d s j = openOutcome s1 d j b := by
  have hbans : readBans s1 (unitMaster (.token d)) b v.tokens = ⟨[], false, s1⟩ := by simp [readBans, hban]
  simp [openRun, hv, hx, hsp, hr, hb, hstops, hok, hbans, htrie, stopStrings, openOutcome, leavesSession]

theorem stepRun_leaf {x : Session} {ds : List Byte} {q : StepRes} (hx : sessionOf (tokOf s d) (tokSession j) = some x)
    (hv : slotOf (tokOf s d) x.slot = some v) (he : x.ended = none)
    (hsp : ownSpans s j.origin ([(leAt j.desc 0x10 8, 8 * leAt j.desc 0x0C 4), (leAt j.desc 0x18 8, 4 * leAt j.desc 0x20 4)]
      ++ stepSpans x.block v.tokens) = 0)
    (hr : memRead s (unitMaster (.token d)) 3 (leAt j.desc 0x10 8) (8 * leAt j.desc 0x0C 4) = ⟨ds, false, s1⟩)
    (hq : stepSession s1 (unitMaster (.token d)) j.origin v x (stepCands j ds) (leAt j.desc 0x24 4) = q)
    (hbad : q.bad = false) (hkids : q.children = []) : stepRun d s j = stepOutcome d j x q := by
  unfold stepCands at hq
  simp only [stepRun, hx, hv, he, hsp, hr, hq, hbad, hkids, allowedList_nil]
  simp [stepOutcome, leavesSession]

/-! ## The run of each operation -/

section
variable (hf : tokFieldsOk j = true)
include hf

theorem tokRun_load (hop : j.op = 1)
    (hl : tokLoadRun s (tokOf s d) (tokSlot j) (leAt j.desc 0x10 8) j.origin = (0, some v, s1)) :
    tokRun d s j = slotOutcome s1 d j (some v) := by
  simp [tokRun, hf, hop, hl, slotOutcome]

theorem tokRun_unload (hop : j.op = 2) (hv : (slotOf (tokOf s d) (tokSlot j)).isSome = true)
    (hn : slotNamed (tokOf s d) (tokSlot j) = false) : tokRun d s j = slotOutcome s d j none := by
  obtain ⟨v, hv⟩ := Option.isSome_iff_exists.1 hv
  simp [tokRun, hf, hop, hv, hn, slotOutcome]

theorem tokRun_tokenize (hop : j.op = 3) : tokRun d s j = tokenizeRun d s j := by simp [tokRun, hf, hop]

theorem tokRun_open (hop : j.op = 4) : tokRun d s j = openRun d s j := by simp [tokRun, hf, hop]

theorem tokRun_step (hop : j.op = 5) : tokRun d s j = stepRun d s j := by simp [tokRun, hf, hop]

theorem tokRun_close (hop : j.op = 6) (hx : (sessionOf (tokOf s d) (tokSession j)).isSome = true) :
    tokRun d s j = { status := 0, st := leavesSession s d j 0 none } := by
  obtain ⟨x, hx⟩ := Option.isSome_iff_exists.1 hx
  simp [tokRun, hf, hop, hx, leavesSession]

end

/-! ## Taking the next job -/

theorem tokParity_unarmed {r : Started} (h : injFire r.st 11 (unitMaster (.token d)) = none) : tokParity d j r = r := by
  unfold tokParity
  split
  · rfl
  · rw [h]

theorem tokStart_starts {op : Nat} {r : Started} (hn : tokNext s d = some j)
    (hroom : phaseCount (jobsOf s (.token d)) .running < 4)
    (hgo : prepare s (unitMaster (.token d)) (tokReads d s j) [] = .go) (hop : j.op = op) (hr : tokRun d s j = r)
    (hinj : injFire r.st 11 (unitMaster (.token d)) = none) : .next (tokStart s d op) = begun (.token d) j r := by
  simp [tokStart, begun, hn, takesOp_own _ hop, Nat.not_le.2 hroom, hgo, hr, tokParity_unarmed hinj]

end

/-! ## The obligation -/

/-- Settles O32: each start row takes the next job when that job has the row's operation, and the run of each operation is one of
the lemmas above. -/
theorem tokenJobsRun : Obligations.TokenJobsRun := by
  intro s d j u t may hn hroom hgo hf
  have starts {op : Nat} {r : Started} (hr : tokRun d s j = r) (hmay : may op r) : .next (tokStart s d op) = begun u j r :=
    tokStart_starts hn hroom hgo hmay.1 hr hmay.2
  refine ⟨fun v s1 hl hmay => ?load, fun hv hnamed hmay => ?unload,
    fun v s1 text ts m k ls s2 hv hsp hr ht hl hfit hmay => ?tokenize, fun _ hmay => ?openAny,
    fun v b s1 hv hx hsp hr hb hstops hok htrie hban hmay => ?openPlain, fun _ hmay => ?stepAny,
    fun x v ds s1 hx hv he hsp hr hbad hkids hmay => ?stepLeaf, fun hx hmay => ?close⟩
  case load => exact starts (tokRun_load hf hmay.1 hl) hmay
  case unload => exact starts (tokRun_unload hf hmay.1 hv hnamed) hmay
  case tokenize => exact starts ((tokRun_tokenize hf hmay.1).trans (tokenizeRun_fits hv hsp hr ht hl hfit)) hmay
  case openAny => exact starts (tokRun_open hf hmay.1) hmay
  case openPlain => exact starts ((tokRun_open hf hmay.1).trans (openRun_plain hv hx hsp hr hb hstops hok htrie hban)) hmay
  case stepAny => exact starts (tokRun_step hf hmay.1) hmay
  case stepLeaf => exact starts ((tokRun_step hf hmay.1).trans (stepRun_leaf hx hv he hsp hr rfl hbad hkids)) hmay
  case close => exact starts (tokRun_close hf hmay.1 hx) hmay

end Sys2Proof.Machine
end

