-- ==== Sys2Proof/Proofs/FlashTasks.lean ====
section
/-!
PROOF. Flash tasks (R286 to R294, R308): what a submission, a task that may start, a finished task, an abort and the read of one granule
come to.
-/
namespace Sys2Proof.Machine

/-! ## Registers of an X-die -/

section
variable {s r : State} {f : State → State}

theorem next_onXdie_up (hup : xdiesUp s = true) (h : f s = r) : (.next (onXdie s f) : Answer) = .next r := by
  rw [onXdie, if_pos hup, h]

theorem next_onXdie_down (hdown : xdiesUp s = false) : (.next (onXdie s f) : Answer) = .next s := by
  simp [onXdie, hdown]

theorem next_onXdie_fixed (h : f s = s) : (.next (onXdie s f) : Answer) = .next s := by
  rw [onXdie, h, ite_self]

end

/-! ## Submission -/

/-- The acceptance of a submission with this descriptor (R286): its task takes the next acceptance number of the X-die, `n`, joins the
tasks in flight and marks its job ID as used, and FL_LAST reports it. -/
def acceptTask (s : State) (x w m n : Nat) (ds : List Byte) : State :=
  let u : State := { s with flash := { s.flash with next := Cells.put (fun _ => 0) s.flash.next x (n + 1) } }
  setLast (noteUse (setTasks u x (tasksOf u x ++ [{ seq := n + 1, desc := ds }])) (leAt ds 4 1) (flashUse x)) x w m 0 (some n)

/-- What a submission to a valid address does when its turn has come (R286): it turns only on its line. -/
def submitInTurn (s : State) (x w m ad : Nat) : State :=
  match prepare s (flashMaster x) [(ad, 64)] [] with
  | .stall s => { s with heldPuts := s.heldPuts ++ [.submit x w m ad] }
  | .go => takeSubmit s x w m ad

section
variable {s s1 : State} {x w m ad : Nat}

theorem submitTask_inTurn (hfirst : ∀ h ∈ s.heldPuts, ∀ w m a, h ≠ .submit x w m a) (hal : ad % 64 = 0)
    (hsp : flashSpan s ad 64 = 0) : submitTask s x w m ad = submitInTurn s x w m ad := by
  unfold submitTask
  rw [if_neg ?notBehind, if_neg (by simp [hal, hsp])]
  · rfl
  case notBehind =>
    intro hany
    obtain ⟨h, hm, he⟩ := List.any_eq_true.1 hany
    cases h with
    | submit y w' m' a =>
      obtain rfl : x = y := eq_of_beq he
      exact hfirst _ hm _ _ _ rfl
    | put | event | packet | furrow => exact Bool.noConfusion he

theorem submitInTurn_held (hp : prepare s (flashMaster x) [(ad, 64)] [] = .stall s1) :
    submitInTurn s x w m ad = { s1 with heldPuts := s1.heldPuts ++ [.submit x w m ad] } := by
  simp [submitInTurn, hp]

theorem submitInTurn_accepts {ds : List Byte} (hp : prepare s (flashMaster x) [(ad, 64)] [] = .go)
    (hr : memRead s (flashMaster x) 3 ad 64 = ⟨ds, false, s1⟩) (hal : leAt ds 0x20 8 % 32 = 0)
    (hsp : flashSpan (dropHost s1 (flashMaster x)) (leAt ds 0x20 8) 32 = 0) (hc : counterValid (leAt ds 6 2) = true)
    (hroom : (tasksOf (dropHost s1 (flashMaster x)) x).length < 4096) :
    submitInTurn s x w m ad =
      acceptTask (dropHost s1 (flashMaster x)) x w m (Cells.get (fun _ => 0) s.flash.next x) ds := by
  simp [submitInTurn, hp, takeSubmit, acceptTask, FlTask.rec_, hr, hal, hsp, hc, Nat.not_le.2 hroom]

end

/-! ## Start, end and abort -/

/-- The start of a task that passed its checks (R288, R289): it runs and does its work, and the pages that were rebuilt meanwhile for its
volume are added to those it reports. -/
def startTask (s : State) (x : Nat) (t : FlTask) (f : NandFaults) : State :=
  let s1 := setTask s x { t with phase := .running }
  let r := taskWork s1 x { t with phase := .running } f
  let n := (volOf r.2 x r.1.vol).rebuilt - (volOf s1 x r.1.vol).rebuilt
  dropHost (setTask r.2 x { r.1 with recovered := min 255 (r.1.recovered + n) }) (flashMaster x)

/-- The end of a task (R294): its buffer writes, its record and its increment, and it leaves the tasks in flight. -/
def endTask (s : State) (x : Nat) (t : FlTask) : State :=
  let m := flashMaster x
  let s1 := counterAdd (memPut (performWrites s m t.desc t.writes).st m t.rec_ (flRecord x t)) (leAt t.desc 6 2) 1
  let s2 := setTasks s1 x ((tasksOf s1 x).filter (fun u => u.seq ≠ t.seq))
  dropHost ((noteOrder s2 x t).modAdd Fld.FL_STATUS_DONE x 1) m

/-- The tasks that a write of FL_ABORT names: those not ended yet with its job ID and tag (R293). -/
def abortNames (s : State) (x : Nat) (a : CsrAcc) : List FlTask :=
  (tasksOf s x).filter (fun t => t.phase ≠ .ended && leAt t.desc 4 1 == Fld.FL_ABORT_JOB.presented a
    && leAt t.desc 2 2 == Fld.FL_ABORT_TAG.presented a)

section
variable {s : State} {x op i : Nat} {t : FlTask}

theorem flProceed_starts (f : NandFaults) (hw : t.phase = .waiting) (hc : flCheck s x t = (0, 0))
    (hi : (proceedable s x op)[i]? = some t) (hop : t.op = op)
    (hgo : prepare s (flashMaster x) (if op = 2 then [t.span] else []) [] = .go)
    (hinj : injFire (setTask s x { t with phase := .running }) 11 (flashMaster x) = none) :
    flProceed s x op i f = startTask s x t f := by
  subst hop
  simp only [flProceed, hi, if_pos hw, hc, hgo, hinj, ne_eq, not_true_eq_false, if_false]
  rfl

theorem flEnd_ends (hi : (flEndable s x)[i]? = some t)
    (hgo : prepare s (flashMaster x) [] ((t.rec_, 32) :: writeSpans t.writes) = .go) : flEnd s x i = endTask s x t := by
  simp only [flEnd, hi, hgo, endTask]

theorem writeFlAbort_reached {a : CsrAcc} (h : Fld.FL_ABORT_JOB.reached a = true) :
    writeFlAbort s x a = (((abortNames s x a).foldl (fun s t => cutTask s x 0x01 t) s).setFld Fld.FL_ABORT_RES_STATUS x
      (if abortNames s x a = [] then 2 else 1)).setFld Fld.FL_ABORT_RES_COUNT x (abortNames s x a).length := by
  simp [writeFlAbort, h, abortNames]

theorem writeFlAbort_unreached {a : CsrAcc} (h : Fld.FL_ABORT_JOB.reached a = false) : writeFlAbort s x a = s := by
  simp [writeFlAbort, h]

theorem readGranule_unmapped {f : NandFaults} {j : Nat} (hf : t.finished = false)
    (hm : Cells.get (fun _ => unmapped) (volOf s x t.vol).map (t.lgn + j) = unmapped) :
    readGranule x f (t, s) j =
      ({ t with done := t.done + 1, writes := t.writes ++ [(t.buf + j * 16384, List.replicate 16384 0)] }, s) := by
  simp only [readGranule, hf, hm, if_true, Bool.false_eq_true, if_false]

end

/-! ## The obligation -/

/-- Settles O37: a submission whose turn it is waits for its line or is accepted, a task that passes its checks starts whatever its
operation, and each end of a task and each granule without a page is one of the lemmas above. -/
theorem flashTasksRun : Obligations.FlashTasksRun := by
  refine ⟨?submission, ?start, ?ending, ?abort, ?zeros⟩
  case submission =>
    intro s s1 x w m v ds ad n t s2 hup hfirst hal hsp
    have inTurn {r : State} (h : submitInTurn s x w m.toNat ad = r) : exec (.flSubmit x w m (.full v)) s = .next r :=
      next_onXdie_up hup ((submitTask_inTurn hfirst hal hsp).trans h)
    exact ⟨fun hp => inTurn (submitInTurn_held hp),
      fun hgo hr hral hrsp hc hroom => inTurn (submitInTurn_accepts hgo hr hral hrsp hc hroom)⟩
  case start =>
    intro s x i f t hw hc s1 r n u may
    have starts {op : Nat} (h : may op) : (.next (flProceed s x op i f) : Answer) = .next u := by
      obtain ⟨hi, hop, hgo, hinj⟩ := h
      exact congrArg _ (flProceed_starts f hw hc hi hop hgo hinj)
    exact ⟨starts, starts, starts, starts, starts⟩
  case ending =>
    intro s x i t hi m hgo
    exact congrArg _ (flEnd_ends hi hgo)
  case abort =>
    intro s x a ts
    refine ⟨?ignored, fun hup h => next_onXdie_up hup (writeFlAbort_reached h)⟩
    rintro (hdown | hno)
    · exact next_onXdie_down hdown
    · exact next_onXdie_fixed (writeFlAbort_unreached hno)
  case zeros =>
    intro s x f t j hf hm
    exact readGranule_unmapped hf hm

end Sys2Proof.Machine
end

