-- ==== Sys2Proof/Proofs/FlashUpkeep.lean ====
section
/-!
PROOF. What flash does beside tasks (R296, R300, R304, R305, R311, R312): map page reads, verification and garbage collection as far as
they go in the cases stated, and loading and clearing a key, which zeroes the key data registers and changes no other field.
-/
namespace Sys2Proof.Machine

/-! ## Map pages, verification, garbage collection -/

section
variable {s s1 : State} {x v q i sb : Nat} {f : NandFaults}

theorem installPage_room {fails : Nat} {damaged : List Nat} (h : (mapCache s x).length < cacheGib s x * 65536) :
    installPage s x v q fails damaged = .ok 0 (setCache s x (mapCache s x ++ [{ vol := v, q := q }])) := if_pos h

theorem mapFill_installs {d : List Byte} {par : Bool} (hi : (fillsOf s x)[i]? = some (v, q))
    (hd : decodePage s x v true q (Cells.get (fun _ => unmapped) (volOf s x v).mapLoc q) (f.bad.contains 0) (f.lost.contains 0) =
      (some (d, par), s1))
    (hroom : (mapCache s1 x).length < cacheGib s1 x * 65536) :
    mapFill s x i f =
      let s2 := setCache s1 x (mapCache s1 x ++ [{ vol := v, q := q }])
      let u := setFills s2 x ((fillsOf s2 x).eraseIdx i)
      if par = false then u
      else setTasks u x ((tasksOf u x).map (fun t => if waitsFor v q t then { t with recovered := min 255 (t.recovered + 1) } else t)) := by
  simp only [mapFill, hi, hd, installPage_room hroom]
  cases par <;> simp

theorem foldl_of_fixed {α β : Type} {g : β → α → β} {b : β} (h : ∀ a, g b a = b) (l : List α) : l.foldl g b = b := by
  induction l with
  | nil => rfl
  | cons a l ih => rw [List.foldl_cons, h, ih]

/-- No page fails, so no granule is written again and no position is retired (R300). -/
theorem verifySb_closes (hi : (((volOf s x v).sbs.filter (fun e => e.2.phase = .filled)).map Prod.fst)[i]? = some sb)
    (hu : unreadable s x v sb = []) :
    verifySb s x v i [] f =
      let s1 := s.satAdd Fld.FL_PARREC_PARITY x 0
      dropParity (setSb s1 x v sb { sbOf (volOf s1 x v) sb with phase := .closed }) x v sb := by
  unfold verifySb
  simp only [hi, hu, List.filter_nil, List.append_nil, List.eraseDups_nil]
  rw [foldl_of_fixed]
  · rfl
  · exact fun _ => rfl

theorem gcStart_starts (hst : volState s x v = 3) (hgc : (volOf s x v).gc = false) (hlow : freeCount s x v < (gcLimits s x).1)
    (hv : nextVictim s x v = some sb) : gcStart s x v = setVol s x v { volOf s x v with gc := true, victim := some sb } := by
  simp [gcStart, hst, hgc, Nat.not_le.2 hlow, hv]

theorem gcMove_moves {t : State} {pgn n : Nat} {e : Bool × Nat × Nat} {d : List Byte} {par : Bool}
    (hv : (volOf s x v).victim = some sb) (he : (validIn s x v sb).head? = some e)
    (hd : decodePage s x v e.1 e.2.1 e.2.2 (f.bad.contains 0) (f.lost.contains 0) = (some (d, par), s1))
    (hw : writePageCounted s1 x v false { vol := v, lgn := e.2.1, isMap := e.1, data := d } f.prog.length f.damaged = (.ok pgn t, n)) :
    gcMove s x v f = t.satAdd Fld.FL_PARREC_REDIRECT x n := by
  obtain ⟨es, hes⟩ := List.head?_eq_some_iff.1 he
  simp only [gcMove, hv, hes, gcMoveFrom, hd, moveGranule, hw, Prog.st]

end

/-! ## Frames of register writes -/

theorem fld_wr_other {s : State} {r : Reg} {g : Fld} {i j : Nat} {w : Word} (hw : CsrWf s) (hne : g.reg ≠ r) (hi : i < 65536)
    (hj : j < 65536) : (s.wr r i w).fld g j = s.fld g j := by
  rw [State.fld, State.fld, rd_wr_other s r g.reg i j w hw hi hj (.inl hne)]

section
variable {s : State} {x v : Nat}

@[simp] theorem clearKeyData_flash : (clearKeyData s x).flash = s.flash := by
  simp [clearKeyData, List.range_succ]

/-- Writing copies of a register keeps the canonical form and every field of another register. -/
theorem foldl_wr_keeps (r : Reg) (w : Word) (g : Nat → Nat) (ks : List Nat) (hg : ∀ k ∈ ks, g k < 65536) (hw : CsrWf s) :
    CsrWf (ks.foldl (fun s k => s.wr r (g k) w) s) ∧
      ∀ (c : Fld) (j : Nat), c.reg ≠ r → j < 65536 → (ks.foldl (fun s k => s.wr r (g k) w) s).fld c j = s.fld c j := by
  induction ks generalizing s with
  | nil => exact ⟨hw, fun _ _ _ _ => rfl⟩
  | cons k ks ih =>
    obtain ⟨hk, hks⟩ := List.forall_mem_cons.1 hg
    obtain ⟨hwf, hkeep⟩ := ih hks (wr_csrWf s r (g k) w hw)
    exact ⟨hwf, fun c j hc hj => (hkeep c j hc hj).trans (fld_wr_other hw hc hk hj)⟩

theorem keyDataCopy_lt (hx : x < 2) (k : Nat) (hk : k ∈ List.range 8) : x * 8 + k < 65536 := by
  have := List.mem_range.1 hk
  omega

section
variable (hw : CsrWf s) (hx : x < 2)
include hw hx

theorem clearKeyData_csrWf : CsrWf (clearKeyData s x) :=
  (foldl_wr_keeps _ _ (x * 8 + ·) _ (keyDataCopy_lt hx) hw).1

theorem clearKeyData_fld {c : Fld} {j : Nat} (hc : c.reg ≠ .FL_KEY_DATA) (hj : j < 65536) :
    (clearKeyData s x).fld c j = s.fld c j :=
  (foldl_wr_keeps _ _ (x * 8 + ·) _ (keyDataCopy_lt hx) hw).2 c j hc hj

end
end

@[simp] theorem volState_setVol {s : State} {x v y u : Nat} {w : FlVol} : volState (setVol s y u w) x v = volState s x v := rfl

@[simp] theorem flag_setVol {s : State} {y u i : Nat} {c : Fld} {w : FlVol} : (setVol s y u w).flag c i = s.flag c i := rfl

@[simp] theorem volOf_clearKeyData {s : State} {y x v : Nat} : volOf (clearKeyData s y) x v = volOf s x v := by
  rw [volOf, volOf, clearKeyData_flash]

/-! ## Keys and volume configuration -/

section
variable {s : State} {x v m : Nat} {a : CsrAcc}

theorem volKey_lt (hx : x < 2) (hv : v < 16) : volKey x v < 65536 := by
  unfold volKey
  omega

theorem loadKey_installs (hw : CsrWf s) (hx : x < 2) (hv : v < 16) (hst : volState s x v ≠ 2)
    (hne : (keyData s x).take 32 ≠ (keyData s x).drop 32) :
    loadKey s x v =
      setVol ((clearKeyData s x).setFld Fld.FL_KEY_CMD_RESULT x 0) x v { volOf s x v with key := some (keyData s x) } := by
  have hk := volKey_lt hx hv
  have hkeep : volState ((clearKeyData s x).setFld Fld.FL_KEY_CMD_RESULT x 0) x v = volState s x v :=
    (fld_wr_other (clearKeyData_csrWf hw hx) (by decide) (by omega) hk).trans (clearKeyData_fld hw hx (by decide) hk)
  unfold loadKey
  simp only [if_neg hne, volState_setVol, hkeep, hst, volOf_clearKeyData, ne_eq, not_false_eq_true, if_true]

theorem clearKey_removes (hw : CsrWf s) (hx : x < 2) (hv : v < 16) :
    clearKey s x v =
      let u := setVol (clearKeyData s x) x v { volOf s x v with key := none }
      if s.flag Fld.FL_VOL_CFG_ENCRYPT (volKey x v) = true ∧ (volState s x v = 3 ∨ volState s x v = 4) then setVolState u x v 2 0
      else u := by
  have hk := volKey_lt hx hv
  have hst : volState (clearKeyData s x) x v = volState s x v := clearKeyData_fld hw hx (by decide) hk
  have hf : (clearKeyData s x).flag Fld.FL_VOL_CFG_ENCRYPT (volKey x v) = s.flag Fld.FL_VOL_CFG_ENCRYPT (volKey x v) :=
    congrArg (· == 1) (clearKeyData_fld hw hx (by decide) hk)
  simp [clearKey, hst, hf]

theorem keyCmdVol_lt : Fld.FL_KEY_CMD_VOL.presented a < 16 := Nat.mod_lt _ (by decide)

section
variable (hm : isCoreMaster m = true)
include hm

theorem writeFlKeyData_stores {k : Nat} : writeFlKeyData s m x k a =
    s.wr .FL_KEY_DATA (x * 8 + k) ((s.rd .FL_KEY_DATA (x * 8 + k) &&& ~~~(accMask a)) ||| accValue a) := by
  simp [writeFlKeyData, hm]

theorem writeFlKeyCmd_load (hl : Fld.FL_KEY_CMD_LOAD.presented a = 1) (hc : Fld.FL_KEY_CMD_CLEAR.presented a = 0) :
    writeFlKeyCmd s m x a = loadKey s x (Fld.FL_KEY_CMD_VOL.presented a) := by
  simp [writeFlKeyCmd, hm, hl, hc]

theorem writeFlKeyCmd_clear (hl : Fld.FL_KEY_CMD_LOAD.presented a = 0) (hc : Fld.FL_KEY_CMD_CLEAR.presented a = 1) :
    writeFlKeyCmd s m x a = clearKey s x (Fld.FL_KEY_CMD_VOL.presented a) := by
  simp [writeFlKeyCmd, hm, hl, hc]

end

theorem writeVolCfg_configures (hst : volState s x v ≤ 1) :
    let s1 := s.plainWrite .FL_VOL_CFG (volKey x v) false a
    let s2 := setVol s1 x v { volOf s1 x v with sbs := initialSbs s1 x v }
    groupCount s2 x v ≠ 0 → flashFailed s2 x = false → writeVolCfg s x v a = setVolState s2 x v 1 0 := by
  intro s1 s2 hg hf
  have h01 : ¬(volState s x v ≠ 0 ∧ volState s x v ≠ 1) := by omega
  simp only [writeVolCfg, if_neg h01]
  exact (if_neg hg).trans (if_neg (Bool.eq_false_iff.1 hf))

end

/-! ## The obligation -/

/-- Settles O38: each command does, in the case stated, what the lemma above says of the operation it stands for. -/
theorem flashUpkeepActs : Obligations.FlashUpkeepActs := by
  refine ⟨?mapFill, ?verify, ?collect, ?relocate, ?keys, ?down, ?configure⟩
  case mapFill =>
    intro s s1 x i v q f r hi hd hroom
    exact congrArg _ (mapFill_installs hi hd hroom)
  case verify =>
    intro s x v i sb f hi hu
    exact congrArg _ (verifySb_closes hi hu)
  case collect =>
    intro s x v sb hst hgc hlow hv
    exact congrArg _ (gcStart_starts hst hgc hlow hv)
  case relocate =>
    intro s s1 t x v sb pgn n e d b f hv he hd hw
    exact congrArg _ (gcMove_moves hv he hd hw)
  case keys =>
    intro s x m a k hup hm
    refine ⟨next_onXdie_up hup (writeFlKeyData_stores hm), ?load, ?clear⟩
    case load =>
      intro v hl hc hst hw hne
      exact next_onXdie_up hup ((if_pos hl).trans
        ((writeFlKeyCmd_load hm hl hc).trans (loadKey_installs hw x.isLt keyCmdVol_lt hst hne)))
    case clear =>
      intro v hl hc hw
      exact next_onXdie_up hup ((if_pos hc).trans
        ((writeFlKeyCmd_clear hm hl hc).trans (clearKey_removes hw x.isLt keyCmdVol_lt)))
  case down =>
    intro s x v m a k hdown
    exact ⟨next_onXdie_down hdown, next_onXdie_down hdown, next_onXdie_down hdown, next_onXdie_down hdown⟩
  case configure =>
    intro s x v a hup hst s1 s2 hg hf
    exact next_onXdie_up hup (writeVolCfg_configures hst hg hf)

end Sys2Proof.Machine
end
